-- ==== Sys2Proof/Word.lean ====
section
/-! DEFINITION. Word types: the register word, the byte and the double word of the manual (R4, R15). -/

namespace Sys2Proof

/-- One byte of any memory (R5). -/
abbrev Byte := BitVec 8

/-- One register word: every register access is 32 bits wide (R15). -/
abbrev W32 := BitVec 32

/-- A 64-bit value, held by the register pages as a pair of words (R503). -/
abbrev W64 := BitVec 64

/-- A SHA3-256 digest or seal, 32 bytes, byte 0 first. -/
abbrev Digest := List Byte

end Sys2Proof
end

