-- ==== Sys2Proof/Syntax.lean ====
section
/-! DEFINITION. The commands of the block: one constructor of `Instr` per row of spec/opcode_table.json. The table gives no
operands; each constructor carries what its rule says the command names or what the environment reports with it
(assumption entry 7). -/

namespace Sys2Proof

/-- The four program contexts (R36). -/
inductive Ctx where
  | train
  | eval
  | aux
  | service
  deriving DecidableEq, Repr

/-- Context number (R36). -/
def Ctx.num : Ctx → Nat
  | .train => 0
  | .eval => 1
  | .aux => 2
  | .service => 3

/-- The context of a number, 0 to 3 (only the low two bits count, R291). -/
def ctxOfNat (n : Nat) : Ctx :=
  match n % 4 with
  | 0 => .train
  | 1 => .eval
  | 2 => .aux
  | _ => .service

/-- A logical tile of a C-die (R10). -/
structure TileId where
  die : Nat
  lt : Nat
  deriving DecidableEq, Repr

/-- The rings whose head the host advances by a doorbell (R443). -/
inductive Ring where
  | cpl (c : Ctx)
  | alm (c : Ctx)
  | flt (c : Ctx)
  | evt
  deriving DecidableEq, Repr

/-- An attestation key (R207) with the line of R206. -/
structure AttKey where
  cat : Nat
  rank : Nat
  elem : Nat
  line : Nat
  deriving DecidableEq, Repr

/-- A refusal marker of R188: fault code, refusing rank and its coordinates. -/
structure RefusalMark where
  code : Nat
  rank : Nat
  coords : List Nat
  deriving DecidableEq, Repr

/-- How a sector or word read ended in its code (R295, R307). -/
inductive ReadEnd where
  | clean
  | corrected
  | uncorrectable
  deriving DecidableEq, Repr

/-- An upset of the hardware that a line, a run of a pass or a shard meets; what the checks of R380 then find is computed. Rows and
columns are logical, `block` is the MX block of the slab (0 otherwise), `bit` the bit that is inverted. -/
inductive Upset where
  /-- Tile-store bits of the 8-byte word at an address: one, or two (R295). -/
  | store (addr : Nat) (double : Bool)
  /-- Reserve bits likewise. -/
  | reserve (addr : Nat) (double : Bool)
  /-- Symbols of the stack sector at an address (R307). -/
  | sector (addr : Nat) (e : ReadEnd)
  /-- A parity error in a weight bank, keyed 4 * array + bank, or in the activation row buffer (R398). -/
  | bank (key : Nat)
  | rowBuf
  /-- A bit of an accumulator at its block's end, and of a residue sum (R381, R382). -/
  | acc (row col block bit : Nat)
  | residue (row col block bit : Nat)
  /-- A bit of a checksum cell: the checksum column's output of a row, or the checksum row's output of a column (R384). -/
  | cellCol (row array block bit : Nat)
  | cellRow (col block bit : Nat)
  /-- A product bit of a BF16 or FP16 multiplier, k counted in the slab (R383). -/
  | product (row col k bit : Nat)
  /-- A product bit of the output stage: its scale, or its activation function (R383). -/
  | out (row col : Nat) (act : Bool) (bit : Nat)
  /-- A product bit of unit F or an update engine: element, lane, the two FP32 operands (R383). -/
  | unitF (elem lane a b bit : Nat)
  deriving DecidableEq, Repr

/-- How the FEC of a received codeword ended (R327, R337). -/
inductive FecEnd where
  | clean
  | corrected
  | uncorrectable
  deriving DecidableEq, Repr

/-- A march read that the hardware upsets: the bit read is the complement of the cell's content (R408, R411). `inst` is the physical tile,
M-die, port or die, `mem` the memory code of R407, `run` the run of the march in this test (0 the first; another follows each repair,
R412). -/
structure BstFailure where
  die : Nat
  inst : Nat
  mem : Nat
  run : Nat
  bank : Nat
  word : Nat
  bit : Nat
  background : Nat
  element : Nat
  op : Nat
  deriving DecidableEq, Repr

/-- What the completion of a bring-up step reports (R493). -/
structure BringupReport where
  ok : Bool
  unit : Nat                  -- die or stack of a failure
  failures : List BstFailure  -- step 5
  logicFail : List Nat        -- step 5: physical tiles whose logic test failed (R409)
  portOk : List Bool          -- step 7: ports that trained
  rtt : List Nat              -- step 7: credit round trips in ns
  deriving DecidableEq, Repr

/-- A message of the Coelostat or plate kind is named by the bytes it carries. The commands below are in the order of the
table. -/
inductive Instr where
  -- host commands taken from a context's ring (R446)
  | load (c : Ctx)
  | arm (c : Ctx)
  | disarm (c : Ctx)
  | step (c : Ctx)
  | revert (c : Ctx)
  | plate (c : Ctx)
  | restore (c : Ctx) (reply : List Byte)
  | switch (c : Ctx)
  | pairCopy (c : Ctx)
  | coelostat (c : Ctx)
  -- doorbells and context control (R443, R452)
  | cmdTail (c : Ctx) (idx : W32)
  | ringHead (r : Ring) (idx : W32)
  | ctxReset (c : Ctx) (v : W32)
  | pause (c : Ctx) (v : W32)
  | resume (c : Ctx) (v : W32)
  -- power states, resets, rails (18)
  | pkg (v : W32)
  | park (v : W32)
  | a2Entry
  | unpark (v : W32)
  | a2ExitComplete
  | dark (v : W32)
  | a1Entry
  | a1Exit
  | por
  | mrst
  | perst
  | flr
  | railPgRise (r : Nat)
  | railPgTimeout (r : Nat)
  | railPgFall (r : Nat)
  | thermalTrip (die : Nat)
  | clockLoss (clk : Nat)
  | bringupStepComplete (rep : BringupReport)
  | trialGood
  | trialTimeout
  -- management (17)
  | mctpSetEndpointId (eid : Byte)
  | getVersion
  | getCapabilities
  | negotiateAlgorithms (offered : Bool)
  | getDigests
  | getCertificate (slot : Nat)
  | challenge (nonce : List Byte)
  | getMeasurements (index : Nat) (nonce : List Byte)
  | spdmUnsupportedRequest (code : Byte) (inProgress : Bool)
  | pldmFirmwareUpdate (component : Nat) (bytes : List Byte)
  | pldmMonitorRead
  | pldmPkgRequest
  | pldmUnparkRequest
  | pldmDarkRequest
  -- boundary scan (R524)
  | idcode (x : Nat)
  | samplePreload (x : Nat) (cells : List Bool)
  | extest (x : Nat)
  | highz (x : Nat)
  | clamp (x : Nat)
  | bypass (x : Nat) (opcode : Nat)
  -- Ephemeris lines: issue of the head line of context c on a logical tile (R245)
  | nop (t : TileId) (c : Ctx)
  | loop (t : TileId) (c : Ctx)
  | qwin (t : TileId) (c : Ctx)
  | stepend (t : TileId) (c : Ctx)
  -- ups: what its run meets; again: what the rerun of a vector line meets; tc: when the first mismatch of a pass shows (R391); none of these is the plain case
  | pmov (t : TileId) (c : Ctx) (ups : List Upset)
  | ald (t : TileId) (c : Ctx) (ups : List Upset := [])
  | aosp (t : TileId) (c : Ctx) (ups : List Upset := [])
  | amm (t : TileId) (c : Ctx) (ups : List Upset) (tc : Nat := 0)
  | aout (t : TileId) (c : Ctx) (ups : List Upset) (tc : Nat := 0)
  | vch (t : TileId) (c : Ctx) (ups : List Upset) (again : List Upset := [])
  | vld (t : TileId) (c : Ctx) (ups : List Upset := [])
  | vst (t : TileId) (c : Ctx)
  | vsmx (t : TileId) (c : Ctx) (ups : List Upset) (again : List Upset := [])
  | vgth (t : TileId) (c : Ctx) (ups : List Upset := [])
  | vsct (t : TileId) (c : Ctx) (ups : List Upset := [])
  | csend (t : TileId) (c : Ctx) (ups : List Upset := [])
  | crecv (t : TileId) (c : Ctx)
  | cupd (t : TileId) (c : Ctx) (ups : List Upset := [])
  | psend (t : TileId) (c : Ctx) (ups : List Upset := [])
  | precv (t : TileId) (c : Ctx)
  -- completion, trim, Collimator, Meridian
  | passCommit (t : TileId) (c : Ctx) (tc : Nat)
  | lineComplete (t : TileId) (c : Ctx) (line iter tc : Nat)
  | trimBlockTake (donor helper : TileId) (c : Ctx) (ups : List Upset) (tc : Nat := 0)
  | collimatorDecision (die : Nat) (ups : List Upset) (lost : Bool)
  | meridianPhaseComplete (c : Ctx) (num : Nat)
  | stepBoundary (c : Ctx)
  -- step control (R345)
  | batchLoadComplete (c : Ctx)
  | shard (c : Ctx) (child : Nat) (digests : List (Nat × Digest)) (refusal : Option RefusalMark) (stepLo : Nat := 0)
  | batch (c : Ctx) (digest : Digest) (refusal : Option RefusalMark)
  | gateUp (c : Ctx) (child attempt : Nat) (key : Option AttKey) (marker : Bool)
  | stepUp (c : Ctx) (child attempt : Nat) (key : Option AttKey) (marker : Bool)
  | result (c : Ctx) (gate : Bool) (key : Option AttKey) (marker : Bool)
  | fault (c : Ctx) (kind rank : Nat) (fromChild : Bool) (attempt stepLo : Nat := 0)
  | stepCommit (c : Ctx)
  | stepAbort (c : Ctx)
  | attestTimeout (c : Ctx)
  | ephStall (t : TileId) (c : Ctx)
  -- update engines and collectives
  | updateShard (c : Ctx) (record : Nat) (ups again : List Upset)
  | planDataArrival (c : Ctx) (plan member : Nat) (stepMsg : Bool) (attempt stepLo : Nat) (data : List Byte) (poison : List Nat)
      (offset : Nat := 0)
  | collectiveReduce (c : Ctx) (plan : Nat)
  -- fabric link layer
  | flitReceive (port : Nat) (bytes : List Byte) (fec : FecEnd)
  | retryRequest (port seq : Nat)
  | retryRequestTimer (port : Nat)
  | ackTimer (port : Nat)
  | linkRetrain (port : Nat)
  | linkRetrainComplete (port : Nat) (ok : Bool)
  -- Coelostat
  | coelostatMessage (offset : Nat) (data : List Byte) (poison : List Nat := [])
  | coelostatReport (child : Option Nat) (failed : List Nat)
  -- plates
  | plateChunkRead (reader : Nat)
  | plateDrainComplete (reader : Nat)
  | pltWaitLimit (c : Ctx)
  | buddyChunkReceive (sender : Nat) (header : List Byte) (chunk : Nat) (data : List Byte)
  | buddyAck (c : Ctx) (ok : Bool)
  | restoreChunkRequest (port rank : Nat) (c : Ctx) (stepNo chunk : Nat)
  | restoreChunkArrival (c : Ctx) (chunk : Nat) (data : List Byte)
  | restoreComplete (c : Ctx)
  | stageComplete (c : Ctx)
  | pairCopyComplete (c : Ctx)
  -- stacks
  | refreshInterval (ch : Nat)
  | refreshIssue (ch : Nat)
  | channelHoldEnd (ch : Nat)
  | channelRetrain (ch : Nat) (interfaceErrors ok : Bool)
  | pprStep (ch group : Nat) (unreadable : List Nat)
  | spareSweepStep (stack : Nat) (unreadable : List Nat)
  | scrubRead (addr : Nat) (e : ReadEnd)
  | stackReadout (stack temp : Nat)
  -- power and thermal
  | dieReadout (die temp : Nat)
  | powerWindow (die energy : Nat)
  | pkgPowerSample (watts : Nat)
  | pkgPowerAverage (watts : Nat)
  | shutterPauseEnd (die pos : Nat)
  | clockSettleEnd (die pos : Nat)
  | tilClk (die pos : Nat) (v : W32)
  -- rotation and field test
  | rotationRequest
  | testAgeDue (die pos : Nat)
  | rotationPoint
  | migrationComplete (die : Nat)
  | fieldTestComplete (die pos : Nat) (failures : List BstFailure) (logicOk : Bool)
  -- check units
  | init (u : Nat) (v : W32)
  | scan (u : Nat) (v : W32)
  | scanComplete (u : Nat)
  | finish (u : Nat) (v : W32)
  | chkData32 (u : Nat) (v : W32)
  | chkData8 (u : Nat) (v : W32)
  -- Reserve and Logbook
  | rsvGranuleCfg (m : Nat) (v : W32)
  | granuleCfgApply (m : Nat)
  | logbookWrite (type : Nat) (payload : List Byte)
  | logbookWriteComplete (readback : Bool)
  -- host bus
  | hostReadCompletion (addr : Nat) (ok : Bool)
  | msixHoldoffEnd (vector : Nat)
  | bar2Read (offset len : Nat)
  | bar2Write (offset : Nat) (data : List Byte)
  | bar0BadAccess (offset : Nat) (write : Bool) (size : Nat := 4)
  -- register pages
  | evtClr (page : Nat) (v : W32)
  | errInject (page : Nat) (v : W32)
  | lnkInject (port : Nat) (v : W32)
  | tilStallClr (die pos : Nat) (v : W32)
  | colFwdDataRead (x : Nat)
  | colFwdDataWrite (x : Nat) (v : W32)
  | pairLowRead (offset : Nat)
  | pairLowWrite (offset : Nat) (v : W32)
  | pairHighWrite (offset : Nat) (v : W32)
  | regWrite (offset : Nat) (v : W32)
  -- further events
  | mrstRise
  | pcieLinkDown
  | railPgFallAtPowerDown (r : Nat)
  | rankDigestGather (c : Ctx) (digests : List (Nat × Digest)) (stepNo : Nat := 0)
  | configurationRequest
  | powerGatedPageAccess (offset : Nat) (write : Bool)
  | predictivePolicySparing (ch : Nat)
  | tapReset
  deriving DecidableEq, Repr

end Sys2Proof
end

