-- ==== Sys2Proof/Config.lean ====
section
/-! DEFINITION. What an implementation fixes and the free values of the model. Each is opaque: no proof can see its value, so
a claim that holds, holds for every value (assumption entry 4). -/

namespace Sys2Proof.Config

/-- TIME of a fault record, ns since package reset (R291): a timing observable (R42); free, by the free-value counter. -/
opaque timeNs : Nat → Nat

/-- The INPUT tensors (local Catalogue indices) of a micro-batch: program digest P, rank, bucket, number of the micro-batch.
R449 says that the buffer holds them, and no rule says which they are. -/
opaque microInputs : Digest → Nat → Nat → Nat → List Nat

/-- The ML-DSA-44 verification of FIPS 204 with a context string (R457): public key, message, context, signature. -/
opaque mldsaVerify : List Byte → List Byte → List Byte → List Byte → Bool

/-- The ML-DSA-44 signature of the device identity key over a message (R457, R471). -/
opaque mldsaSign : List Byte → List Byte

/-- SHA3-256 of the mask ROM (R468 index 1). -/
opaque romDigest : List Byte

/-- The digest of the Kwadex root public key that the mask ROM holds (R456). -/
opaque rootDigest : List Byte

/-- Whether the PUF extraction of an attempt yields the identity key that the helper record names (R464). -/
opaque pufOk : List Byte → Nat → Bool

/-- The way that tree pseudo-LRU replaces in a set of `ways` ways, where `ways` is no power of two (R298): the manual gives no tree over such
a number; free. -/
opaque cacheVictim : Nat → Nat → Nat

/-- Bytes of an SPDM answer whose content DSP0274 fixes and the manual does not (R470, R471): request code. -/
opaque spdmBytes : Nat → List Byte

/-- Bytes of a PLDM monitoring answer (R473, R485): free. -/
opaque pldmSensors : Nat → List Byte

/-- Bytes that the manual leaves unspecified or undefined (R135, R179, R208, R355): free, by the free-value counter and the byte's key. -/
opaque freeByte : Nat → Nat → Byte

/-- The capture of the boundary cells of an X-die TAP (R524): pin levels are the board's; free. -/
opaque pinCapture : Nat → List Bool

/-- HST_LINK_STATUS rate and width while the link is up (R454): the host and board choose them. -/
opaque linkStatus : Nat → Nat

/-- Rail telemetry: mV and 0.1 A of rail r (R514): free, by the free-value counter. -/
opaque railTelemetry : Nat → Nat → Nat

/-- Whether the events that a rule counts within an hour, a day or a second (0: R315, 1: R318, 2: R390, 3: R483) fall within it: time is not
modelled (assumption entry 1); free, by the free-value counter. -/
opaque within : Nat → Nat → Bool

/-- The signature of a run of a vector line or of an update shard, which R387 does not define and COLL_TRANSIENT names (R392, R403): free,
by the free-value counter. -/
opaque runSig : Nat → Nat

/-- The tc at which a mismatch that an injection causes first shows (R391, R405): time is not modelled; free, by the free-value counter. -/
opaque injectTc : Nat → Nat

/-- Slip-free hops between two parts of the package under the routes of a configuration record's tag 0x0009 (R20, R466), whose entry format
the manual does not give: record bytes, from, to. -/
opaque routeHops : List Byte → Nat → Nat → Nat

end Sys2Proof.Config
end

