-- ==== Sys2Proof/Machine/Tables.lean ====
section
/-! DEFINITION. Sparse tables keyed by numbers, list updates and bit-field helpers. -/

namespace Sys2Proof.Machine

/-- A sparse table: the entries that differ from their reset value, by key. -/
abbrev Tbl (α : Type) := List (Nat × α)

/-- The entry at `k`, or `d` where the table lists none. -/
def Tbl.get {α : Type} (d : α) (k : Nat) : Tbl α → α
  | [] => d
  | (k', v) :: t => if k = k' then v else Tbl.get d k t

/-- The table with `v` at `k`; keys stay in rising order. -/
def Tbl.set {α : Type} (k : Nat) (v : α) : Tbl α → Tbl α
  | [] => [(k, v)]
  | (k', v') :: t =>
    if k = k' then (k, v) :: t
    else if k < k' then (k, v) :: (k', v') :: t
    else (k', v') :: Tbl.set k v t

/-- The table without the keys that `p` selects (they read as their reset value again). -/
def Tbl.drop {α : Type} (p : Nat → Bool) (t : Tbl α) : Tbl α :=
  t.filter (fun e => !p e.1)

/-- Bits [lo+w-1:lo] of `x` (R4). -/
def field (x lo w : Nat) : Nat := (x >>> lo) % 2 ^ w

/-- Bit `n` of `x`. -/
def bitAt (x n : Nat) : Bool := x.testBit n

/-- `x` with bits [lo+w-1:lo] replaced by the low `w` bits of `v`. -/
def putField (x lo w v : Nat) : Nat :=
  x - (field x lo w) * 2 ^ lo + (v % 2 ^ w) * 2 ^ lo

/-- Smallest integer at or above a/b. -/
def ceilDiv (a b : Nat) : Nat := if b = 0 then 0 else (a + b - 1) / b

/-- `x` rounded up to a multiple of `m`. -/
def alignUp (x m : Nat) : Nat := ceilDiv x m * m

/-- The `n` low bytes of `x`, lowest first (R5). -/
def bytesLE : Nat → Nat → List Byte
  | 0, _ => []
  | n + 1, x => BitVec.ofNat 8 x :: bytesLE n (x / 256)

/-- The number whose bytes, lowest first, are `bs` (R5). -/
def ofBytesLE : List Byte → Nat
  | [] => 0
  | b :: bs => b.toNat + 256 * ofBytesLE bs

/-- `w`-bit two's complement read of `x`. -/
def signed (w x : Nat) : Int := if x % 2 ^ w < 2 ^ (w - 1) then (x % 2 ^ w : Nat) else (x % 2 ^ w : Nat) - (2 ^ w : Nat)

/-- The low `w` bits of the two's complement form of `x`. -/
def unsigned (w : Nat) (x : Int) : Nat := (x % (2 ^ w : Nat)).toNat

/-- `l` with element `i` changed by `f`. -/
def modAt {α : Type} (f : α → α) : Nat → List α → List α
  | _, [] => []
  | 0, a :: t => f a :: t
  | i + 1, a :: t => a :: modAt f i t

/-- Element `i` of `l`, or `d`. -/
def nth {α : Type} (d : α) : Nat → List α → α
  | _, [] => d
  | 0, a :: _ => a
  | i + 1, _ :: t => nth d i t

/-- The first `n` elements of `l`, filled up with `d`. -/
def takeD {α : Type} (d : α) : Nat → List α → List α
  | 0, _ => []
  | n + 1, [] => d :: takeD d n []
  | n + 1, a :: t => a :: takeD d n t

/-- `l` cut into pieces of `n` (the last piece holds the remainder); `fuel` bounds the pieces. -/
def chunksOf {α : Type} (n : Nat) : Nat → List α → List (List α)
  | 0, _ => []
  | _ + 1, [] => []
  | fuel + 1, l => l.take n :: chunksOf n fuel (l.drop n)

/-- Insertion into a list kept in rising order, without repeats. -/
def insertNat (k : Nat) : List Nat → List Nat
  | [] => [k]
  | a :: t => if k = a then a :: t else if k < a then k :: a :: t else a :: insertNat k t

/-- `l` without `k`. -/
def eraseNat (k : Nat) (l : List Nat) : List Nat := l.filter (· != k)

/-- The list in rising order without repeats. -/
def sortNat (l : List Nat) : List Nat := l.foldl (fun acc k => insertNat k acc) []

/-- The least element of `l` by key `f`, first one of equals. -/
def minBy {α : Type} (f : α → Nat) : List α → Option α
  | [] => none
  | a :: t =>
    match minBy f t with
    | none => some a
    | some b => if f b < f a then some b else some a

/-- The bits set in a mask of `n` bits, rising. -/
def maskBits (n m : Nat) : List Nat := (List.range n).filter (fun i => m.testBit i)

/-- The mask with the bits of `l` set. -/
def toMask (l : List Nat) : Nat := l.foldl (fun m i => m ||| 2 ^ i) 0

/-- 1 for true, 0 for false. -/
def b2n (b : Bool) : Nat := if b then 1 else 0

end Sys2Proof.Machine
end

