-- ==== Sys2Proof/Machine/Hash.lean ====
section
/-! DEFINITION. Cyclic redundancy checks (R423, R432), SHA3-256 of FIPS 202 (R46, R474) and Philox-4x32-10 (R55). -/

namespace Sys2Proof.Machine

/-- The low `w` bits of `x` in reverse order. -/
def revBits : Nat → Nat → Nat
  | 0, _ => 0
  | w + 1, x => (x % 2) * 2 ^ w + revBits w (x / 2)

/-- A CRC configuration (R423). -/
structure CrcCfg where
  width : Nat
  poly : Nat
  init : Nat
  refin : Bool
  refout : Bool
  inv : Bool
  deriving DecidableEq, Repr

/-- Shifts of one byte, from bit b - 1 down to bit 0 (R423). -/
def crcBits (c : CrcCfg) (d : Nat) : Nat → Nat → Nat
  | 0, reg => reg
  | b + 1, reg =>
    let top := (reg / 2 ^ (c.width - 1) + d / 2 ^ b) % 2
    let sh := (2 * reg) % 2 ^ c.width
    crcBits c d b (if top = 1 then sh ^^^ (c.poly % 2 ^ c.width) else sh)

/-- One byte fed into the register (R423). -/
def crcByte (c : CrcCfg) (reg : Nat) (d : Byte) : Nat :=
  let d := if c.refin then revBits 8 d.toNat else d.toNat
  crcBits c d 8 reg

/-- Bytes fed in order. -/
def crcFeed (c : CrcCfg) (reg : Nat) (bs : List Byte) : Nat := bs.foldl (crcByte c) reg

/-- The FINISH output of a register value (R423). -/
def crcOut (c : CrcCfg) (reg : Nat) : Nat :=
  let out := if c.refout then revBits c.width reg else reg
  if c.inv then out ^^^ (2 ^ c.width - 1) else out

def crc32cCfg : CrcCfg := ⟨32, 0x1EDC6F41, 0xFFFFFFFF, true, true, true⟩
def crc64Cfg : CrcCfg := ⟨64, 0x42F0E1EBA9EA3693, 0, false, false, false⟩

/-- CRC-32C over a byte string (R422, R432). -/
def crc32c (bs : List Byte) : Nat := crcOut crc32cCfg (crcFeed crc32cCfg crc32cCfg.init bs)

/-- CRC-64 (ECMA-182) over a byte string (R422, R432). -/
def crc64 (bs : List Byte) : Nat := crcOut crc64Cfg (crcFeed crc64Cfg crc64Cfg.init bs)

/-! SHA3-256. The state is 25 lanes of 64 bits, lane x + 5y. -/

/-- Rotation of a 64-bit lane to the left. -/
def rotl64 (x n : Nat) : Nat := (x * 2 ^ (n % 64)) % 2 ^ 64 ||| x / 2 ^ (64 - n % 64)

def lane (a : List Nat) (x y : Nat) : Nat := nth 0 (x % 5 + 5 * (y % 5)) a

/-- Rotation offsets of rho, by lane x + 5y. -/
def keccakRot : List Nat :=
  [0, 1, 62, 28, 27, 36, 44, 6, 55, 20, 3, 10, 43, 25, 39, 41, 45, 15, 21, 8, 18, 2, 61, 56, 14]

/-- Round constants of iota. -/
def keccakRC : List Nat :=
  [0x0000000000000001, 0x0000000000008082, 0x800000000000808A, 0x8000000080008000,
   0x000000000000808B, 0x0000000080000001, 0x8000000080008081, 0x8000000000008009,
   0x000000000000008A, 0x0000000000000088, 0x0000000080008009, 0x000000008000000A] ++
  [0x000000008000808B, 0x800000000000008B, 0x8000000000008089, 0x8000000000008003,
   0x8000000000008002, 0x8000000000000080, 0x000000000000800A, 0x800000008000000A,
   0x8000000080008081, 0x8000000000008080, 0x0000000080000001, 0x8000000080008008]

/-- One round of Keccak-f[1600]: theta, rho, pi, chi, iota. -/
def keccakRound (a : List Nat) (rc : Nat) : List Nat :=
  let c := (List.range 5).map fun x => lane a x 0 ^^^ lane a x 1 ^^^ lane a x 2 ^^^ lane a x 3 ^^^ lane a x 4
  let d := (List.range 5).map fun x => nth 0 ((x + 4) % 5) c ^^^ rotl64 (nth 0 ((x + 1) % 5) c) 1
  let t := (List.range 25).map fun i => nth 0 i a ^^^ nth 0 (i % 5) d
  -- pi: B[y, 2x+3y] = rot(A[x, y]); lane (X, Y) of B comes from x = X + 3Y, y = X
  let b := (List.range 25).map fun i =>
    let X := i % 5
    let Y := i / 5
    let src := (X + 3 * Y) % 5 + 5 * X
    rotl64 (nth 0 src t) (nth 0 src keccakRot)
  let e := (List.range 25).map fun i =>
    let X := i % 5
    let Y := i / 5
    lane b X Y ^^^ ((2 ^ 64 - 1 - lane b (X + 1) Y) &&& lane b (X + 2) Y)
  modAt (fun v => v ^^^ rc) 0 e

def keccakF (a : List Nat) : List Nat := keccakRC.foldl keccakRound a

/-- Lanes of a block of bytes. -/
def lanesOf (bs : List Byte) : List Nat := (chunksOf 8 (bs.length + 1) bs).map ofBytesLE

def absorb (a : List Nat) (blk : List Byte) : List Nat :=
  let l := lanesOf blk
  keccakF ((List.range 25).map fun i => nth 0 i a ^^^ nth 0 i l)

/-- SHA3-256 padding to blocks of 136 bytes. -/
def sha3Pad (bs : List Byte) : List Byte :=
  let r := bs.length % 136
  if r = 135 then bs ++ [0x86#8] else bs ++ [0x06#8] ++ List.replicate (134 - r) 0#8 ++ [0x80#8]

/-- SHA3-256 over a byte string. -/
def sha3 (bs : List Byte) : Digest :=
  let p := sha3Pad bs
  let a := (chunksOf 136 (p.length + 1) p).foldl absorb (List.replicate 25 0)
  (a.take 4).flatMap (bytesLE 8)

/-- Keccak-f[1600] permutations that SHA3-256 of n bytes takes (SHA_PERMS, R513). -/
def sha3Perms (n : Nat) : Nat := n / 136 + 1

/-- Philox-4x32-10 rounds (R55); `first` is true in round 0, whose key is not bumped. -/
def philoxRounds : Nat → Bool → Nat → Nat → List Nat → List Nat
  | 0, _, _, _, c => c
  | r + 1, first, k0, k1, c =>
    let k0 := if first then k0 else (k0 + 0x9E3779B9) % 2 ^ 32
    let k1 := if first then k1 else (k1 + 0xBB67AE85) % 2 ^ 32
    let p0 := 0xD2511F53 * nth 0 0 c
    let p1 := 0xCD9E8D57 * nth 0 2 c
    let c' := [p1 / 2 ^ 32 ^^^ nth 0 1 c ^^^ k0, p1 % 2 ^ 32, p0 / 2 ^ 32 ^^^ nth 0 3 c ^^^ k1, p0 % 2 ^ 32]
    philoxRounds r false k0 k1 c'

/-- The random word of element e in step n with seed s and stream identifier (R56). -/
def philoxWord (seed n stream e : Nat) : Nat :=
  let k0 := seed % 2 ^ 32
  let k1 := (seed / 2 ^ 32) % 2 ^ 32 ^^^ (n / 2 ^ 32) % 2 ^ 32
  let q := e / 4
  nth 0 (e % 4) (philoxRounds 10 true k0 k1 [q % 2 ^ 32, (q / 2 ^ 32) % 2 ^ 32, stream % 2 ^ 32, n % 2 ^ 32])

end Sys2Proof.Machine
end

