-- ==== Sys2Proof/Machine/Mem.lean ====
section
/-! DEFINITION. Byte memories as canonical lists of (address, byte): addresses strictly rising, no entry equal to what an
unlisted address reads as (0: R493 step 6 for the stacks, R300 for the Reserve; assumption entry 5 elsewhere). -/

namespace Sys2Proof.Machine

/-- A byte memory. -/
abbrev Mem := List Host.Cell

/-- What an unlisted address reads as. -/
def Mem.unlisted : Byte := 0#8

/-- One byte. -/
def Mem.read (a : Nat) : Mem → Byte
  | [] => Mem.unlisted
  | (k, v) :: t => if a = k then v else if a < k then Mem.unlisted else Mem.read a t

/-- Byte `a` removed from the list. -/
def Mem.erase (a : Nat) : Mem → Mem
  | [] => []
  | (k, v) :: t => if a = k then t else if a < k then (k, v) :: t else (k, v) :: Mem.erase a t

/-- A listed byte put in its place. -/
def Mem.insert (a : Nat) (b : Byte) : Mem → Mem
  | [] => [(a, b)]
  | (k, v) :: t =>
    if a = k then (a, b) :: t
    else if a < k then (a, b) :: (k, v) :: t
    else (k, v) :: Mem.insert a b t

/-- One byte written; the form stays canonical. -/
def Mem.write (a : Nat) (b : Byte) (m : Mem) : Mem := if b = Mem.unlisted then m.erase a else m.insert a b

/-- Consecutive bytes from `a`. -/
def Mem.readN (m : Mem) (a : Nat) : Nat → List Byte
  | 0 => []
  | n + 1 => m.read a :: Mem.readN m (a + 1) n

/-- Consecutive bytes written from `a`. -/
def Mem.writeN (m : Mem) (a : Nat) : List Byte → Mem
  | [] => m
  | b :: bs => Mem.writeN (m.write a b) (a + 1) bs

/-- Little-endian number of `n` bytes at `a` (R5). -/
def Mem.num (m : Mem) (a n : Nat) : Nat := ofBytesLE (m.readN a n)

/-- The bytes from `lo` to `hi - 1` back to the unlisted reading. -/
def Mem.clear (lo hi : Nat) (m : Mem) : Mem := m.filter (fun e => e.1 < lo || hi ≤ e.1)

/-- The canonical form holds: addresses strictly rising, no entry equal to the unlisted reading. -/
def Mem.wf : Mem → Bool
  | [] => true
  | [(_, v)] => v != Mem.unlisted
  | (k, v) :: (k', v') :: t => v != Mem.unlisted && decide (k < k') && Mem.wf ((k', v') :: t)

end Sys2Proof.Machine
end

