-- ==== Sys2Proof/Machine/State.lean ====
section
/-! DEFINITION. The state of the block: every register, memory, buffer, counter, mode and pin that the spec gives the device,
the queue of waiting commands, and the model's own two fields (the free-value counter and the record of what the device
sent). INVENTORY.md lists each with its rule and reset value. -/

namespace Sys2Proof.Machine

/-- Why the machine can stop with a fault. No meaning of this model raises one: what the manual calls a fault is a record
and a next state (R39, R291). -/
inductive Fault where
  /-- Raised by no meaning; safe. The type must be inhabited for the host's interface. -/
  | none
  deriving DecidableEq, Repr

/-- Why a command can be refused. -/
inductive Refusal where
  /-- An arm of exec that has no meaning yet, by its mnemonic; safe. -/
  | notModelled (mnemonic : String)
  deriving DecidableEq, Repr

/-- The step state of a context (R185). -/
inductive StepState where
  | idle | ready | loading | running | attesting | committing | aborting
  deriving DecidableEq, Repr

def StepState.code : StepState → Nat
  | .idle => 0 | .ready => 1 | .loading => 2 | .running => 3 | .attesting => 4 | .committing => 5 | .aborting => 6

/-- A loop frame of a tile's sequencer (R255): first and last local line of the body, iterations done and to do, index step. -/
structure LoopFrame where
  first : Nat
  last : Nat
  done : Nat
  count : Nat
  step : Nat
  deriving DecidableEq, Repr

/-- The tag of a weight bank (R107), with the physical tile whose line loaded it: a bank that a tile filled as helper or peer of
another tile names that tile's load (R118, R264, R389). -/
structure BankTag where
  ctx : Ctx
  tile : Nat
  cat : Nat
  form : Nat
  slab : Nat
  nbase : Nat
  transpose : Bool
  scale : Nat
  kcount : Nat
  deriving DecidableEq, Repr

/-- A weight bank (R106): its tag and, by column of the array, its weights in ascending k; for MX the E8M0 scales of the
column's blocks; and its format code and the checksum column (R138). -/
structure Bank where
  tag : Option BankTag
  fmt : Nat
  cols : List (List Nat)
  scales : List (List Nat)
  wsum : List Int
  deriving DecidableEq, Repr

/-- Units a line can occupy (R245 item 4). -/
inductive Unit' where
  | seq | pass | ald | aosp | vec | porter | hand
  deriving DecidableEq, Repr

/-- A sticky-flag event of a running line: Catalogue index, element, line. -/
structure FlagEv where
  cat : Nat
  elem : Nat
  line : Nat
  deriving DecidableEq, Repr

/-- Flags that a line raises when it completes (R99, R159, R169, R388). -/
structure Flags where
  nonfinite : List FlagEv
  saturated : List Nat
  empty : List Nat
  deriving DecidableEq, Repr

/-- A pass or vector line whose check has failed and whose runs the Collimator compares (R388, R392). -/
structure Arb where
  code : Nat
  peer : Option Nat      -- next run is the peer run, on this physical tile; none: the rerun (R388, R389)
  s1 : Nat
  s2 : Nat
  runs : Nat
  suspectStart : Bool
  deriving DecidableEq, Repr

/-- A line in flight on a tile (R245, R246): what the interlocks hold, what its completion posts, and its power charge. -/
structure Running where
  ctx : Ctx
  line : Nat
  iter : Nat
  no : Nat               -- issue number on the tile and context
  unit : Unit'
  opcode : Nat
  d : List Nat           -- D0 to D3 after ADVANCE
  reads : List Nat       -- byte keys
  writes : List Nat
  wbits : List Nat       -- marks of the bits written: 256 * byte key + mask (R233)
  posts : List Nat       -- token references
  remote : Option (Nat × Nat)  -- logical tile key and token (R257)
  pcost : Nat
  lclass : Nat
  arrays : Nat           -- mask of arrays taking part
  banks : List Nat       -- bank keys used or filled
  release : Bool
  flags : Flags
  arb : Option Arb
  blocks : List Nat      -- row blocks not yet committed (R262)
  trim : List Nat        -- row blocks not yet taken
  waitPlan : Option Nat  -- plan whose staging or result the line waits on
  sent : List (Nat × Nat) -- ports, and the flits of this device up to which each must be acknowledged (R352)
  deriving DecidableEq, Repr

/-- Per-context sequencer and register state of a tile. -/
structure TileCtx where
  line : Nat             -- head local line
  loops : List LoopFrame -- innermost first
  ended : Bool           -- STEPEND has issued
  issued : Nat
  executed : Nat
  tokens : Tbl Nat
  barriers : Tbl Nat
  posted : Tbl Nat       -- times this tile has posted barrier NUM
  heldPosts : List (Nat × Nat)        -- posts that wait for earlier ones (R248): issue number, post key
  openPosts : List (Nat × Nat)        -- posting lines not yet complete: issue number, post key
  vregs : Tbl (BitVec 4096)
  profiles : Tbl (BitVec 256)
  loaded : Tbl BankTag   -- by bank key: the ALD of this step that last filled the bank (R118)
  held : List (Nat × Nat)  -- bank key, Catalogue index held until release (R118)
  copies : List (Nat × Nat × Nat)  -- PMOV copies between equal formats whose source no line has written since (R398): local
                                   -- indices of source and destination, destination's physical tile
  deriving DecidableEq, Repr

/-- One physical tile (R10, R106, R240). -/
structure TileSt where
  mem : Mem
  poison : List Nat      -- 64-byte lines, rising (R295)
  eph : Tbl (BitVec 256)
  cx : List TileCtx      -- by context number
  banks : Tbl Bank       -- key array * 4 + bank
  acc : Tbl (List (BitVec 80)) -- accumulator file of each array: 4,096 accumulators (R106)
  rowBuf : List (List Nat) -- activation row buffer: 16 rows of 64 elements (R106)
  running : List Running
  last : Option Ctx      -- context whose lines the tile runs or ran last (R506)
  helping : Option (Nat × Nat) -- donor physical tile and row block (R262)
  settle : Bool          -- settling pause in effect (R32)
  deriving DecidableEq, Repr

/-- Role of a physical tile (R414, R420). -/
structure Role where
  state : Nat            -- 0 scheduled, 1 spare, 2 under test, 3 unusable
  lt : Nat               -- logical tile, 0x3F unless scheduled
  suspect : Bool
  quarantine : Bool
  due : Bool
  ageH : Nat
  transients : Nat       -- COLL_TRANSIENT records within 24 h (R390)
  deriving DecidableEq, Repr

/-- C-die state: Collimator queue (R391), power requests blocked (R283), ceilings (R482), rotation (R417). -/
structure DieSt where
  collQ : List (Nat × Nat × Ctx × Nat) -- tc of the first mismatch, physical tile, context, issue number
  runOn : Bool                      -- the first pass's run was under way when a stack halt began (R401)
  powerQ : List (Nat × Ctx)         -- logical tile, context
  ceilPwr : Nat
  ceilThm : Nat
  windows : Nat                     -- consecutive windows without overrun
  cool : Nat                        -- consecutive readouts below JTHROTTLE - 3
  migrating : Option (Nat × Nat)    -- from and to physical position
  deriving DecidableEq, Repr

/-- The program of a context (R46, R529, R530). -/
structure Program where
  n : Nat
  rank : Nat
  gate : Bool
  trim : Bool
  digest : Digest
  rankTab : List Nat
  ncat : Nat
  buckets : List (Nat × Nat)        -- LENGTH, NEED
  barriers : List (Nat × Nat × Nat) -- NUM, TILES mask, ENGINES mask
  lines : Tbl Nat                   -- key die * 64 + logical tile: LINES
  records : List Nat                -- local indices of update records (D1 of CUPD lines)
  plans : List Nat                  -- local indices of the plans that lines name
  names : Tbl (List Nat)            -- local indices that each tile's image names, key die * 64 + logical tile (R530)
  copies : Tbl Nat                  -- descriptors that each tile holds copies of, same keys (R219)
  deriving DecidableEq, Repr

/-- Committed state of a context (R182). -/
structure Committed where
  counter : Nat
  sealD : Digest
  seed : Nat
  deriving DecidableEq, Repr

/-- A STEP or other command in progress: what its completion carries (R444). -/
structure CmdTag where
  tag : Nat
  opcode : Nat
  deriving DecidableEq, Repr

/-- A micro-batch entry of the batch manifest (R449). -/
structure Micro where
  length : Nat
  bucket : Nat
  addr : Nat
  bytes : Nat
  deriving DecidableEq, Repr

/-- The running attempt of a step (R186, R207, R345, R394). -/
structure StepRun where
  n : Nat
  seed : Nat
  expect : Option Digest
  micro : List Micro
  tag : Nat
  attempt : Nat
  ownShard : Option Digest
  refusal : Option RefusalMark      -- this device's refusal (R188)
  batch : Digest
  sealD : Digest
  matched : Bool
  marker : Bool                     -- this device's step-fault marker (R208)
  faultCode : Nat                   -- code of this device's own fault, 0 for none
  faultSeq : Nat
  gateKids : Tbl (Option AttKey × Bool)
  gateOwn : Bool
  gateDone : Bool
  stepKids : Tbl (Option AttKey × Bool) -- by 2 * port + ATTEMPT bit (R331, R394)
  stepOwn : Bool
  outcome : Option (Option AttKey × Bool)   -- attestation result: key and marker
  timedOut : Bool
  replaying : Bool                  -- first attempt abandoned (R394)
  deriving DecidableEq, Repr

/-- One program context (R36, R185, R446). -/
structure CtxSt where
  state : StepState
  loaded : Bool
  armed : Bool
  paused : Bool
  cmdTail : Nat
  cmdHead : Nat
  cplHead : Nat
  cplTail : Nat
  almHead : Nat
  almTail : Nat
  fltHead : Nat
  fltTail : Nat
  cplWait : List (List Byte)        -- completion entries that wait for a slot (R448)
  attestMs : Nat
  stallMs : Nat
  pltWaitMs : Nat
  prog : Option Program
  bankB : Bool                      -- bank pointer: false A, true B
  committed : Option Committed
  prev : Option (Committed × Digest) -- kept for REVERT with the reverted step's batch digest (R211, R214)
  almFlags : Nat                    -- FLAGS of the last commit's record
  run : Option StepRun
  fg : Option CmdTag                -- foreground command that runs over several events
  nonfinite : List FlagEv
  saturated : List Nat
  empty : List Nat
  newest : Option Nat               -- host slot of the newest complete plate
  plates : List Nat                 -- host slots that hold a complete plate (R365)
  completed : Nat
  staged : Option Committed         -- staged load that awaits SWITCH (R376)
  kidShards : Tbl (List (Nat × Digest) × Option RefusalMark)  -- SHARD messages by 65,536 * child port + STEP_LO (R331, R345)
  phases : Tbl Nat                  -- completed phases of each barrier in this attempt (R250)
  engBars : Tbl Nat                 -- each barrier's counter on every engine of the package (R250); no engine consumes
  owner : Option (Digest × Nat)     -- program digest and N to which the committed state belongs (R374)
  deriving DecidableEq, Repr

/-- A drain or copy that reads a bank (R368, R377). -/
structure Reader where
  id : Nat
  ctx : Ctx
  bank : Bool
  copyTo : Option Ctx               -- pair copy: the destination
  list : List (Nat × Nat)           -- pair copy: source and destination index
  snap : Committed
  pdigest : Digest
  rank : Nat
  devices : Nat
  host : Option Nat                 -- host slot
  buddy : Bool
  digest : Bool                     -- full weight digest wanted
  weight : Option Digest
  chunks : List (Nat × Nat × Nat)   -- chunk table: pair, byte offset in the bank, bytes
  unread : List Nat
  got : Tbl (List Byte)
  poisoned : Bool
  waiting : Option Nat              -- chunk on which a write waits
  late : List Nat                   -- chunks read that the host target has not taken
  lateB : List Nat                  -- chunks read that the buddy's port has not taken
  short : Bool                      -- the buddy half ended without success
  tag : Option CmdTag
  deriving DecidableEq, Repr

/-- A RESTORE in progress (R371 to R376). -/
structure Restoring where
  stage : Bool
  check : Bool
  buddy : Bool
  holder : Nat                      -- HOLDER and PORTS of a buddy restore (R371)
  ports : List Nat
  addr : Nat
  header : List Byte
  chunks : List (Nat × Nat × Nat)
  missing : List Nat
  tries : Tbl Nat
  data : Tbl (List Byte)
  tag : CmdTag
  weightOk : Option Bool
  failed : Nat
  deriving DecidableEq, Repr

/-- A buddy plate being received (R367). -/
structure BuddyRx where
  sender : Nat
  slot : Nat
  header : List Byte
  missing : List Nat
  tries : Tbl Nat
  deriving DecidableEq, Repr

/-- A contribution of a member in a plan's staging region (R351): its attempt (0 first, 1 second) and STEP_LO of R331, its bytes,
its poisoned 64-byte units, and the update record of this device's own contribution under CUPD (R352). -/
structure Part where
  member : Nat
  attempt : Nat
  stepLo : Nat
  data : List Byte
  poison : List Nat
  record : Option Nat
  deriving DecidableEq, Repr

/-- Staging of a plan in the collective engine (R351): the contributions of the use that runs, those of later uses, attempts and
steps, and a result that its line has not written yet, with its poisoned elements; and the engine that runs the plan. -/
structure PlanSt where
  engine : Nat
  parts : List Part
  later : List Part
  result : Option (List Byte × List Nat)
  deriving DecidableEq, Repr

/-- A reduced shard at its update engine (R198, R203). -/
structure Grad where
  ctx : Ctx
  record : Nat
  engine : Nat                      -- 8 * M-die + engine
  grad : List Nat                   -- FP32 encodings
  poisoned : Bool
  deriving DecidableEq, Repr

/-- What holds a channel (R322), in the order in which due holds start. -/
inductive Hold where
  | retrain | refresh | ppr | sweep
  deriving DecidableEq, Repr

/-- A stack channel, keyed 16 * stack + logical channel (R310, R314, R322). -/
structure Chan where
  post : Int
  hold : Option Hold
  due : List Hold                   -- retraining or refresh that waits for a hold
  fails : Nat                       -- consecutive failed retrainings
  trainTemp : Nat
  inst : Nat                        -- physical channel that serves it, 0 to 16
  fenced : Bool                     -- permanently (R316)
  outOfService : Bool               -- physical channel left after sparing
  failing : List Nat                -- rows that became failing within 1 h (R315)
  deriving DecidableEq, Repr

/-- A repair row use of a bank group of a physical channel (R319, R320): row, repairs done. -/
structure GroupRep where
  row : Nat
  bank : Nat
  done : Nat
  deriving DecidableEq, Repr

/-- A PPR in progress (R319). -/
structure Ppr where
  ch : Nat
  inst : Nat                        -- physical channel of the row, 0 to 16
  group : Nat
  bank : Nat
  row : Nat
  phase : Nat
  bad : List Nat
  deriving DecidableEq, Repr

/-- Stack state (R312, R315). -/
structure StackSt where
  windows : Int                     -- OPEN declarations less CLOSE declarations (R256)
  sweep : Option (Nat × Nat)        -- channel being spared, next row
  sweepLost : Nat                   -- sectors that the sweep has written poisoned (R325)
  spareUsed : Bool
  warn : Bool
  throttle : Bool
  halt : Bool
  deriving DecidableEq, Repr

/-- A repair-map entry (R324). -/
structure RepairEnt where
  action : Nat
  stack : Nat
  channel : Nat
  bank : Nat
  row : Nat
  pool : Nat
  deriving DecidableEq, Repr

/-- A fabric port (R334 to R338). -/
structure PortSt where
  state : Nat                       -- 0 untrained, 1 training, 2 up, 3 down
  txSeq : Nat                       -- next SEQ to send
  rxSeq : Nat                       -- next SEQ expected
  replay : List (Nat × List Byte)   -- unacknowledged flits, oldest first, each with the port that received it, 12 for this device's own
  ackedIn : Nat                     -- flits accepted since the last ACK sent
  retryOpen : Bool                  -- a retry request is outstanding
  reqSeq : Nat                      -- SEQ last requested by the neighbour
  reqCount : Nat
  rxBuf : List (List Byte)          -- flits in the receive buffer
  used : List Nat                   -- receive credits lent, by virtual channel
  owed : List Nat                   -- credits to return, by virtual channel
  asks : List Nat                   -- virtual channels that ask for a shared credit, in their order
  fails : Nat
  heldFlit : Option (List Byte)     -- reorder injection (R357)
  rot : Nat                         -- rotation of R333
  txQueue : List (Nat × List Byte)  -- flits waiting for a credit or buffer, with the port that received them, 12 for this device's own
  lock : Tbl Nat                    -- by virtual channel: the source whose message is being sent (R331)
  parts : Tbl (List (List Byte))    -- by virtual channel: flits of the message for this device that is being received
  ownPut : Nat                      -- flits of this device queued so far
  ownAck : Nat                      -- flits of this device acknowledged so far
  credit : List Nat                 -- credits held toward the neighbour, by virtual channel
  injSeen : Nat                     -- eligible flits seen in rate mode
  deriving DecidableEq, Repr

/-- A Coelostat transfer (R353 to R355). -/
structure Coel where
  ctx : Ctx
  root : Bool
  addr : Nat
  len : Nat
  crc : Nat
  parent : Nat
  children : List Nat
  written : Nat
  ownOk : Option Bool
  kids : List Nat                   -- children that reported
  failed : List Nat                 -- devices that failed
  failSeq : Nat                     -- SEQ of this device's COEL_FAIL, 0 for none
  tag : CmdTag
  saved : List (Nat × W32)          -- saved registers of check unit 15 (R431)
  deriving DecidableEq, Repr

/-- A check unit (R424, R426): whether a scan runs, whether FINISH follows it, and the width now in effect. -/
structure ChkSt where
  scan : Bool
  finish : Bool
  width : Nat
  deriving DecidableEq, Repr

/-- Power-up and power-down of the rails (R477 to R479). Rail r is the position in the table of R477, 2 to 12. -/
structure Rails where
  enabled : List Nat                -- rails whose enable is high
  good : List Nat
  seqDown : Bool                    -- power-down sequence runs
  seqUp : Bool
  deriving DecidableEq, Repr

/-- The security island (R456 to R476). -/
structure Sec where
  meas : List Digest                -- M0 to M7
  events : List (Nat × Nat × Digest)
  logFull : Bool
  identity : Bool
  owner : Bool
  config : Bool
  booted : Option Nat               -- slot 0 A, 1 B
  svn : Nat
  build : Nat
  trial : Bool
  recovery : Bool
  imageReason : List Nat
  ownerPk : List Byte
  eid : Nat
  transcript : List Byte
  routes : List Byte
  deriving DecidableEq, Repr

/-- The two X-die TAPs (R524). -/
structure Tap where
  ir : Nat
  update : List Bool
  deriving DecidableEq, Repr

/-- What the device sends out of the package: the model's record of its outputs. -/
inductive Out where
  | msix (vector : Nat)
  | readData (bytes : List Byte) (poisoned : Bool)     -- completion of a BAR read
  | retryStatus                                        -- configuration request, Request Retry Status
  | configDone
  | shardUp (c : Ctx) (stepLo : Nat) (digests : List (Nat × Digest)) (refusal : Option RefusalMark)
  | batchDown (c : Ctx) (digest : Digest) (refusal : Option RefusalMark)
  | gateUp (c : Ctx) (attempt : Nat) (key : Option AttKey) (marker : Bool)
  | stepUp (c : Ctx) (attempt : Nat) (key : Option AttKey) (marker : Bool)
  | resultDown (c : Ctx) (gate : Bool) (key : Option AttKey) (marker : Bool)
  | faultUp (c : Ctx) (kind rank attempt stepLo : Nat)
  | faultDown (c : Ctx) (kind rank attempt stepLo : Nat)
  | digestUp (c : Ctx) (stepNo : Nat) (digests : List (Nat × Digest))
  | flit (port : Nat) (bytes : List Byte)
  | coelData (port offset : Nat) (data : List Byte) (poison : List Nat)
  | coelReport (failed : List Nat)
  | buddyHeader (dev : Nat) (bytes : List Byte)
  | buddyChunk (port chunk : Nat) (data : List Byte)
  | buddyAsk (chunk : Nat)
  | buddyAck (ok : Bool)
  | chunkAsk (port holder rank : Nat) (c : Ctx) (stepNo chunk : Nat)
  | chunkSend (port chunk : Nat) (data : List Byte)
  | spdm (code : Nat) (payload : List Byte)
  | spdmError (code : Nat)
  | pldm (kind : Nat) (payload : List Byte)
  | mctpEid (eid : Nat)
  | tdo (x : Nat) (bits : List Bool)
  | tapPins (x : Nat) (mode : Nat)
  deriving DecidableEq, Repr

/-- Host side: the host's memory (R439), its units that the device knows as poisoned and the failed reads of each (R438), the
PCIe link (R435), the event ring (R440), the record sequence number (R291) and the MSI-X vectors in hold-off, held and
pending (R450). -/
structure HostSt where
  mem : Mem
  poison : List Nat
  fails : Tbl Nat
  linkUp : Bool
  evtHead : Nat
  evtTail : Nat
  seq : Nat
  msixHold : List Nat
  msixDue : List Nat
  msixPend : List Nat
  early : List (List Byte)          -- event records held until the host has set the ring (R476)
  deriving DecidableEq, Repr

/-- Stack memory and its maintenance (R294, R307 to R324). -/
structure StkSt where
  mem : Mem
  poison : List Nat
  dead : List Nat                   -- sectors that stay poisoned for good (R308)
  ue : List Nat                     -- sectors that a read has found uncorrectable (R320)
  chans : Tbl Chan
  st : Tbl StackSt
  groups : Tbl GroupRep
  ppr : Tbl (List Ppr)
  rowCE : Tbl (List Nat)
  rows : List Nat                   -- retired rows: channel * 2^21 + row of R305 (R320)
  retired : List Nat
  remap : Tbl Nat
  poolNext : Nat
  repair : List RepairEnt
  deriving DecidableEq, Repr

/-- The Reserve (R294 to R300): contents and poison, granules excluded and acting as scratchpad, write-backs that run, the cache's tags and
replacement trees. -/
structure RsvSt where
  mem : Mem
  poison : List Nat
  excluded : List Nat
  acting : Tbl Nat
  flush : Tbl Nat
  cache : Tbl (List (Nat × Bool))
  tree : Tbl Nat                    -- pseudo-LRU tree bits of each set (R298)
  deriving DecidableEq, Repr

/-- Fabric ports, collective engines, update engines' waiting shards, the Coelostat, the forwarding tables (R325 to R357). -/
structure FabSt where
  ports : Tbl PortSt
  plans : Tbl PlanSt
  grads : List Grad
  coel : Option Coel
  fwd0 : Tbl Nat
  fwd1 : Tbl Nat
  deriving DecidableEq, Repr

/-- The plate engine (R364 to R377). -/
structure PltSt where
  readers : List Reader
  readerNo : Nat
  restoring : Tbl Restoring
  rx : Option BuddyRx
  rxEnded : Option (Nat × Nat × Nat) -- sender, context and step of the buddy plate that ended last without success (R367)
  rxComplete : List Nat
  rxNewest : Nat
  deriving DecidableEq, Repr

/-- Package ceiling and its conditions, the package pause, and the rotation request (R265, R482). -/
structure ThrSt where
  ceilPkg : Nat
  pkgCool : Nat
  dieCool : Tbl Nat
  pkgPause : Bool
  rotWanted : Bool
  deriving DecidableEq, Repr

/-- Power states, bring-up, rails, pins, self-test results and the TAPs (18, 20). -/
structure SysSt where
  pstate : Nat                      -- 0 A0, 1 A1, 2 A2, 3 A3
  parking : Bool
  unparking : Bool
  bringup : Nat                     -- last bring-up step completed, 8 when complete
  failed : Bool
  rails : Rails
  tripLatch : Option (Nat × Nat)    -- 1 thermal trip with its die, 2 rail fault with its rail
  tripNew : Bool
  stopped : Bool
  mrstLow : Bool
  thermTrip : Bool
  bstDone : Bool
  capacity : Bool
  hdrReady : Bool
  hdrOff : List Nat                 -- pages whose STATUS.READY was restored to 0 since bring-up
  injSeen : Tbl Nat
  taps : List Tap
  deriving DecidableEq, Repr

/-- The Logbook: its 64 MiB and the writes that wait (R494 to R496). -/
structure LogSt where
  flash : Mem
  queue : List (Nat × List Byte)
  tries : Nat
  deriving DecidableEq, Repr

/-- The block. -/
structure State where
  pending : List Instr
  free : Nat
  out : List Out
  regs : Tbl W32
  latch : Tbl W32
  shadow : Tbl (Nat × W32)
  cx : List CtxSt
  catalogue : Tbl (BitVec 512)
  tiles : Tbl TileSt
  roles : Tbl Role
  dies : Tbl DieSt
  host : HostSt
  stk : StkSt
  rsv : RsvSt
  fab : FabSt
  plt : PltSt
  thr : ThrSt
  chk : Tbl ChkSt
  sys : SysSt
  sec : Sec
  log : LogSt
  deriving DecidableEq, Repr

/-- Reset value of a tile's per-context state (R247, R253, R491). -/
def TileCtx.reset : TileCtx :=
  ⟨0, [], false, 0, 0, [], [], [], [], [], [], [], [], [], []⟩

/-- Reset value of a tile. -/
def TileSt.reset : TileSt :=
  ⟨[], [], [], List.replicate 4 TileCtx.reset, [], [], List.replicate 16 (List.replicate 64 0), [], none, none, false⟩

/-- An unloaded bank (R107). -/
def Bank.empty : Bank := ⟨none, 0, [], [], []⟩

/-- The start-up role of a new device's physical tile, keyed 48 * die + position (R414). -/
def Role.start (k : Nat) : Role :=
  if k % 48 < 46 then ⟨0, k % 48, false, false, false, 0, 0⟩ else ⟨1, 0x3F, false, false, false, 0, 0⟩

/-- Reset value of a C-die (R482: ceilings 16). -/
def DieSt.reset : DieSt := ⟨[], false, [], 16, 16, 0, 0, none⟩

/-- Reset value of a context (R185, R270, R370, R491). -/
def CtxSt.reset : CtxSt :=
  { state := .idle, loaded := false, armed := false, paused := false, cmdTail := 0, cmdHead := 0,
    cplHead := 0, cplTail := 0, almHead := 0, almTail := 0, fltHead := 0, fltTail := 0, cplWait := [],
    attestMs := 1000, stallMs := 1000, pltWaitMs := 1000, prog := none, bankB := false, committed := none,
    prev := none, almFlags := 0, run := none, fg := none, nonfinite := [], saturated := [], empty := [],
    newest := none, plates := [], completed := 0, staged := none, kidShards := [], phases := [], engBars := [], owner := none }

/-- Reset value of the channel keyed 16 * stack + logical channel (R310). -/
def Chan.reset (k : Nat) : Chan := ⟨0, none, [], 0, 0, k % 16, false, false, []⟩

def StackSt.reset : StackSt := ⟨0, none, 0, false, false, false, false⟩

def PortSt.reset : PortSt :=
  ⟨0, 0, 0, [], 0, false, 0, 0, [], [0, 0, 0, 0], [0, 0, 0, 0], [], 0, none, 0, [], [], [], 0, 0, [0, 0, 0, 0], 0⟩

def PlanSt.reset : PlanSt := ⟨0, [], [], none⟩

def Sec.reset : Sec :=
  ⟨List.replicate 8 (List.replicate 32 0#8), [], false, false, false, false, none, 0, 0, false, false, [0, 0], [], 0, [], []⟩

/-- Reset value of check unit u (R432). -/
def ChkSt.reset (u : Nat) : ChkSt := ⟨false, false, if u < 8 then 32 else 64⟩

def HostSt.reset : HostSt := ⟨[], [], [], false, 0, 0, 0, [], [], [], []⟩
def StkSt.reset : StkSt := ⟨[], [], [], [], [], [], [], [], [], [], [], [], 0, []⟩
def RsvSt.reset : RsvSt := ⟨[], [], [], [], [], [], []⟩
def FabSt.reset : FabSt := ⟨[], [], [], none, [], []⟩
def PltSt.reset : PltSt := ⟨[], 0, [], none, none, [], 0⟩
def ThrSt.reset : ThrSt := ⟨16, 0, [], false, false⟩
def SysSt.reset : SysSt :=
  { pstate := 0, parking := false, unparking := false, bringup := 1, failed := false, rails := ⟨[], [], false, false⟩,
    tripLatch := none, tripNew := false, stopped := false, mrstLow := false, thermTrip := false,
    bstDone := false, capacity := false, hdrReady := false, hdrOff := [], injSeen := [],
    taps := [⟨0x01, []⟩, ⟨0x01, []⟩] }

/-- The device right after its power-on reset, VDD_AON and VDD_LOG up and nothing booted yet (R489, R491, R493 step 1). Every
value the spec states for reset is that value; the others are named in the assumption log. -/
def State.reset : State :=
  { pending := [], free := 0, out := [], regs := [], latch := [], shadow := [], cx := List.replicate 4 CtxSt.reset,
    catalogue := [], tiles := [], roles := [], dies := [], host := HostSt.reset, stk := StkSt.reset,
    rsv := RsvSt.reset, fab := FabSt.reset, plt := PltSt.reset, thr := ThrSt.reset, chk := [], sys := SysSt.reset,
    sec := Sec.reset, log := ⟨[], [], 0⟩ }

end Sys2Proof.Machine
end

