-- ==== Sys2Proof/Machine/Regs.lean ====
section
/-! DEFINITION. The register pages of BAR0: page map (R498), the header (R500), the field maps' access codes, owners, reset
values and reset kinds (R13, R501, R503 to R515 and the chapters they name), as one table over BAR0 offsets. -/

namespace Sys2Proof.Machine

/-- Byte offset in BAR0 of a register (R12). -/
def regAddr (die page off : Nat) : Nat := die * 0x400000 + page * 0x1000 + off

def addrDie (a : Nat) : Nat := a / 0x400000
def addrPage (a : Nat) : Nat := a % 0x400000 / 0x1000
def addrOff (a : Nat) : Nat := a % 0x1000
/-- The base of the page of a BAR0 offset. -/
def pageBase (a : Nat) : Nat := a - a % 0x1000

/-! Block codes of R500. -/
def bkTIL : Nat := 0x01
def bkARY : Nat := 0x02
def bkVEC : Nat := 0x03
def bkPOR : Nat := 0x04
def bkEPH : Nat := 0x05
def bkMER : Nat := 0x06
def bkRSV : Nat := 0x07
def bkSTK : Nat := 0x08
def bkUPD : Nat := 0x09
def bkLNK : Nat := 0x0A
def bkCOL : Nat := 0x0B
def bkPLT : Nat := 0x0C
def bkCHK : Nat := 0x0D
def bkSHA : Nat := 0x0E
def bkSEC : Nat := 0x0F
def bkKPR : Nat := 0x10
def bkPWR : Nat := 0x11
def bkTHM : Nat := 0x12
def bkRST : Nat := 0x13
def bkLOG : Nat := 0x14
def bkHST : Nat := 0x15
def bkBST : Nat := 0x16

/-- Block and instance of page `p` of a die; block 0 for a reserved page (R498, R499). -/
def pageBlock (die p : Nat) : Nat × Nat :=
  if die < 4 then
    if p < 0x30 then (bkTIL, p)
    else if 0x40 ≤ p ∧ p < 0x70 then (bkARY, p - 0x40)
    else if 0x80 ≤ p ∧ p < 0xB0 then (bkVEC, p - 0x80)
    else if 0xC0 ≤ p ∧ p < 0xF0 then (bkPOR, p - 0xC0)
    else if p = 0x100 then (bkEPH, die)
    else if p = 0x101 then (bkMER, die)
    else if p = 0x102 then (bkPWR, die)
    else if p = 0x103 then (bkTHM, die)
    else if p = 0x104 then (bkBST, die)
    else (0, 0)
  else if die < 8 then
    let m := die - 4
    if p < 2 then (bkSTK, 2 * m + p)
    else if p = 2 then (bkRSV, m)
    else if 3 ≤ p ∧ p < 0xB then (bkUPD, 8 * m + (p - 3))
    else if p = 0xB then (bkTHM, die)
    else if p = 0xC then (bkBST, die)
    else (0, 0)
  else if die < 10 then
    let x := die - 8
    if 1 ≤ p ∧ p < 7 then (bkLNK, 6 * x + (p - 1))
    else if p = 7 then (bkCOL, x)
    else if 8 ≤ p ∧ p < 0x10 then (bkCHK, 8 * x + (p - 8))
    else if p = 0x10 ∨ p = 0x11 then (bkSHA, 2 * x + (p - 0x10))
    else if p = 0x17 then (bkTHM, die)
    else if p = 0x18 then (bkBST, die)
    else if x = 0 then
      if p = 0 then (bkHST, 0)
      else if p = 0x12 then (bkSEC, 0)
      else if p = 0x13 then (bkKPR, 0)
      else if p = 0x14 then (bkRST, 0)
      else if p = 0x15 then (bkLOG, 0)
      else if p = 0x16 then (bkPWR, 8)
      else (0, 0)
    else if p = 0x19 then (bkPLT, 0)
    else (0, 0)
  else (0, 0)

/-! Page bases. -/
def pgTIL (die pos : Nat) : Nat := regAddr die pos 0
def pgARY (die pos : Nat) : Nat := regAddr die (0x40 + pos) 0
def pgVEC (die pos : Nat) : Nat := regAddr die (0x80 + pos) 0
def pgPOR (die pos : Nat) : Nat := regAddr die (0xC0 + pos) 0
def pgEPH (die : Nat) : Nat := regAddr die 0x100 0
def pgMER (die : Nat) : Nat := regAddr die 0x101 0
def pgPWR (die : Nat) : Nat := regAddr die 0x102 0
/-- THM page of dies 0 to 9. -/
def pgTHM (die : Nat) : Nat := regAddr die (if die < 4 then 0x103 else if die < 8 then 0xB else 0x17) 0
/-- BST page of dies 0 to 9. -/
def pgBST (die : Nat) : Nat := regAddr die (if die < 4 then 0x104 else if die < 8 then 0xC else 0x18) 0
def pgSTK (s : Nat) : Nat := regAddr (4 + s / 2) (s % 2) 0
def pgRSV (m : Nat) : Nat := regAddr (4 + m) 2 0
def pgUPD (e : Nat) : Nat := regAddr (4 + e / 8) (3 + e % 8) 0
def pgLNK (p : Nat) : Nat := regAddr (8 + p / 6) (1 + p % 6) 0
def pgCOL (x : Nat) : Nat := regAddr (8 + x) 7 0
def pgCHK (u : Nat) : Nat := regAddr (8 + u / 8) (8 + u % 8) 0
def pgSHA (e : Nat) : Nat := regAddr (8 + e / 2) (0x10 + e % 2) 0
def pgHST : Nat := regAddr 8 0 0
def pgSEC : Nat := regAddr 8 0x12 0
def pgKPR : Nat := regAddr 8 0x13 0
def pgRST : Nat := regAddr 8 0x14 0
def pgLOG : Nat := regAddr 8 0x15 0
def pgPKGP : Nat := regAddr 8 0x16 0
def pgPLT : Nat := regAddr 9 0x19 0

/-- HST register of context c at block offset `o` (R452). -/
def hstCtx (c : Ctx) (o : Nat) : Nat := pgHST + 0x100 + 0x80 * c.num + o
/-- PLT register of context c at block offset `o` (R515). -/
def pltCtx (c : Ctx) (o : Nat) : Nat := pgPLT + 0x40 + 0x20 * c.num + o
/-- Counter block of context c in a tile's TIL page (R506). -/
def tilCtx (die pos : Nat) (c : Ctx) (o : Nat) : Nat := pgTIL die pos + 0x100 + 0x80 * c.num + o

/-- One register: its masks by access code, the context that owns it (none: device-wide), its reset value and which resets
restore it besides POR and PKG; `pair` 1 for a low word and 2 for a high word of a 64-bit pair; `own` for a register whose
write has a command of its own. -/
structure RegRow where
  rw : Nat := 0
  rwl : Nat := 0
  w1c : Nat := 0
  owner : Option Nat := none
  reset : Nat := 0
  flr : Bool := false
  ctx : Bool := false
  tile : Bool := false
  pair : Nat := 0
  own : Bool := false
  deriving DecidableEq, Repr

def full32 : Nat := 0xFFFFFFFF
/-- Mask of a low word whose bits [11:0] are RO 0. -/
def pg4k : Nat := 0xFFFFF000

/-- The common header (R500); W1C bits DB_RANGE and OWNED exist on HST and CHK pages only. -/
def headerRow (blk off : Nat) : Option RegRow :=
  let t := decide (blk ≤ bkPOR)
  if off = 0x000 ∨ off = 0x004 then some { }
  else if off = 0x008 then some { rw := 2, reset := 2, flr := true, tile := t }
  else if off = 0x00C then some { flr := true, tile := t }
  else if off = 0x010 then
    some { w1c := 0x27 + (if blk = bkHST then 8 else 0) + (if blk = bkCHK then 16 else 0), flr := true, tile := t }
  else if off = 0x014 then some { rw := 0x1F, flr := true, tile := t }
  else if off = 0x018 then some { own := true, reset := 0x1000, flr := true }
  else if off = 0x01C then some { flr := true, tile := t }
  else none

/-- A RO word or pair. -/
def roRow (flr ctx tile : Bool) (pair : Nat := 0) (owner : Option Nat := none) : Option RegRow :=
  some { flr := flr, ctx := ctx, tile := tile, pair := pair, owner := owner }

/-- The two words of a pair at `lo`: 1 at the low word, 2 at the high word, else 0. -/
def pairAt (off lo : Nat) : Nat := if off = lo then 1 else if off = lo + 4 then 2 else 0

def tilRow (off : Nat) : Option RegRow :=
  if off = 0x040 then some { own := true, rw := 0x1F, reset := 0x10, flr := true, tile := true }
  else if off = 0x044 then roRow true false true
  else if off = 0x048 then some { own := true }
  else if 0x100 ≤ off ∧ off < 0x300 then
    let o := (off - 0x100) % 0x80
    let c := (off - 0x100) / 0x80
    if o < 0x38 then roRow true true true (if o % 8 = 0 then 1 else 2) (some c)
    else if o = 0x38 ∨ o = 0x3C ∨ o = 0x40 then roRow true true true 0 (some c)
    else none
  else none

def hstRow (off : Nat) : Option RegRow :=
  if off = 0x040 then roRow true false false
  else if off = 0x044 then some { flr := true, pair := 1 }
  else if off = 0x048 then some { rw := 0xFFFFFFFC, flr := true, pair := 2 }
  else if off = 0x04C then some { rw := pg4k, flr := true, pair := 1 }
  else if off = 0x050 then some { rw := full32, flr := true, pair := 2 }
  else if off = 0x054 then some { rw := 0xF, flr := true, reset := 4 }
  else if off = 0x058 then roRow true false false
  else if 0x100 ≤ off ∧ off < 0x300 then
    let o := (off - 0x100) % 0x80
    let c := some ((off - 0x100) / 0x80)
    if o = 0x00 then roRow true true false 0 c
    else if o = 0x04 then some { own := true, owner := c }
    else if o = 0x08 then some { rwl := 0x00FFFFFF, owner := c, reset := 0x00006664, flr := true }
    else if o = 0x0C then roRow true true false 0 c
    else if 0x10 ≤ o ∧ o < 0x60 then
      if o % 8 = 0 then some { rwl := pg4k, owner := c, flr := true, pair := 1 }
      else some { rwl := full32, owner := c, flr := true, pair := 2 }
    else if o = 0x60 ∨ o = 0x64 then some { rwl := 0xFFFF, owner := c, flr := true }
    else if o = 0x68 then roRow true false false 0 c
    else none
  else none

/-- Reset value of CHK_CFG of unit u (R433). -/
def chkCfgReset (u : Nat) : Nat := (if u < 8 then 0x3A0 else 0x040) + (if u = 0 then 4 else 2) * 0x1000

def chkRow (u off : Nat) : Option RegRow :=
  let f := u != 0
  if off = 0x040 then some { rw := 0x7FFF, reset := chkCfgReset u, flr := f }
  else if off = 0x044 then some { own := true }
  else if off = 0x048 then some { w1c := 0xE, flr := f }
  else if off = 0x04C then some { rw := 0xFFFF, flr := f }
  else if off = 0x050 then some { rw := full32, reset := if u < 8 then 0x1EDC6F41 else 0xA9EA3693, flr := f, pair := 1 }
  else if off = 0x054 then some { rw := full32, reset := if u < 8 then 0 else 0x42F0E1EB, flr := f, pair := 2 }
  else if off = 0x058 then some { rw := full32, reset := if u < 8 then full32 else 0, flr := f, pair := 1 }
  else if off = 0x05C then some { rw := full32, flr := f, pair := 2 }
  else if off = 0x060 ∨ off = 0x070 then some { rw := full32, flr := f, pair := 1 }
  else if off = 0x064 ∨ off = 0x074 then some { rw := full32, flr := f, pair := 2 }
  else if off = 0x068 then roRow f false false 1
  else if off = 0x06C then roRow f false false 2
  else if off = 0x078 then some { rw := full32, flr := f, pair := 1 }
  else if off = 0x07C then some { rw := 0xFF, flr := f, pair := 2 }
  else if off = 0x080 ∨ off = 0x084 then some { own := true }
  else none

def pltRow (off : Nat) : Option RegRow :=
  if 0x040 ≤ off ∧ off < 0x0C0 then
    let o := (off - 0x40) % 0x20
    let c := some ((off - 0x40) / 0x20)
    if o = 0 then some { rwl := 0x1FFFF, owner := c, flr := true, ctx := true }
    else if o = 4 then roRow true true false 0 c
    else if o = 8 ∨ o = 0x10 then some { rwl := pg4k, owner := c, flr := true, ctx := true, pair := 1 }
    else if o = 0xC ∨ o = 0x14 then some { rwl := full32, owner := c, flr := true, ctx := true, pair := 2 }
    else none
  else if off = 0x0C0 then some { rwl := 0x0FFFFFFF, reset := 0xFFFF }
  else if off = 0x0C4 then some { rwl := 0xFFFF, reset := 0xFFFF }
  else if off = 0x0C8 ∨ off = 0x0D0 then some { rwl := pg4k, pair := 1 }
  else if off = 0x0CC ∨ off = 0x0D4 then some { rwl := 0xFF, pair := 2 }
  else if off = 0x0D8 then roRow false false false
  else none

/-- Block registers by block code, instance and offset (R506 to R515 and the chapters they name). -/
def blockRow (blk inst off : Nat) : Option RegRow :=
  if blk = bkTIL then tilRow off
  else if blk = bkARY ∨ blk = bkVEC then (if off = 0x040 ∨ off = 0x044 then roRow true false true else none)
  else if blk = bkPOR then
    if off = 0x040 ∨ off = 0x04C then roRow true false true
    else if off = 0x044 ∨ off = 0x048 then roRow true false true (pairAt off 0x044)
    else none
  else if blk = bkEPH then
    if 0x040 ≤ off ∧ off < 0x060 then
      some { rwl := if off % 8 = 0 then 0x3FFF else 0x7FFF, owner := some ((off - 0x040) / 8), flr := true }
    else none
  else if blk = bkMER then
    if 0x040 ≤ off ∧ off < 0x050 then roRow true true false 0 (some ((off - 0x040) / 4)) else none
  else if blk = bkPWR ∧ inst < 4 then
    if off = 0x040 then some { rwl := 0xFFFF, reset := 0x0744 }
    else if off = 0x048 then roRow true false false
    else if off = 0x044 ∨ off = 0x04C ∨ off = 0x050 then roRow false false false
    else none
  else if blk = bkPWR then
    if 0x040 ≤ off ∧ off < 0x080 then
      some { reset := if off = 0x048 then 1500 else 0 }
    else none
  else if blk = bkTHM then (if off = 0x040 then some { reset := 0x645F0000 } else none)
  else if blk = bkBST then
    if off = 0x040 ∧ inst = 8 then some { rwl := 0xFFFFFF01, reset := 0x01180700 }
    else if off = 0x044 then roRow false false false
    else if inst < 4 ∧ 0x080 ≤ off ∧ off < 0x140 then roRow false false false
    else none
  else if blk = bkSTK then
    if off = 0x040 then some { reset := 0xFF00 }
    else if off = 0x044 ∨ off = 0x048 ∨ off = 0x04C then roRow false false false
    else if 0x100 ≤ off ∧ off < 0x210 then roRow false false false
    else none
  else if blk = bkRSV then
    if off = 0x040 then some { own := true, rwl := 0xFF }
    else if off = 0x044 then roRow false false false
    else if off = 0x048 ∨ off = 0x04C then roRow false false false (pairAt off 0x048)
    else if off = 0x050 ∨ off = 0x054 then roRow false false false (pairAt off 0x050)
    else none
  else if blk = bkUPD then
    if off = 0x040 ∨ off = 0x04C then roRow false false false
    else if off = 0x044 ∨ off = 0x048 then roRow false false false (pairAt off 0x044)
    else none
  else if blk = bkLNK then
    if off = 0x044 then some { own := true, reset := 0x400, flr := true }
    else if off = 0x048 then some { reset := 0xFFFF }
    else if off = 0x050 ∨ off = 0x054 then roRow false false false (pairAt off 0x050)
    else if off = 0x058 ∨ off = 0x05C then roRow false false false (pairAt off 0x058)
    else if off = 0x040 ∨ off = 0x04C ∨ off = 0x060 ∨ off = 0x064 ∨ off = 0x068 then roRow false false false
    else if 0x070 ≤ off ∧ off < 0x080 then roRow false false false
    else none
  else if blk = bkCOL then
    if off = 0x040 then roRow false false false
    else if off = 0x044 ∧ inst = 0 then some { rwl := 0xFFFF, reset := 0x000F, flr := true }
    else if off = 0x050 then some { rw := 0x1FFF }
    else if off = 0x054 then some { own := true }
    else none
  else if blk = bkCHK then chkRow inst off
  else if blk = bkSHA then
    if off = 0x040 then roRow false false false
    else if off = 0x044 ∨ off = 0x048 then roRow false false false (pairAt off 0x044)
    else none
  else if blk = bkSEC then
    if 0x040 ≤ off ∧ off < 0x050 then roRow false false false
    else if 0x060 ≤ off ∧ off < 0x080 then roRow false false false
    else none
  else if blk = bkKPR then
    if off = 0x040 ∨ off = 0x048 then roRow false false false
    else if off = 0x044 then some { w1c := 0x7F }
    else none
  else if blk = bkRST then
    if off = 0x040 then some { own := true }
    else if off = 0x044 then some { w1c := 0x308, reset := 0x10 }
    else if off = 0x048 then some { rw := 0x1FFFF, reset := 0x10064 }
    else none
  else if blk = bkLOG then (if off = 0x040 ∨ off = 0x044 then roRow false false false else none)
  else if blk = bkHST then hstRow off
  else if blk = bkPLT then pltRow off
  else none

/-- MSI-X table (R436, R450): entries of 16 bytes, 512 of them; the mask bit of the vector control word is 1 at reset, as the
MSI-X capability of PCI Express has it (PRESUMED, assumption entry 16). -/
def msixTable : Nat := 0x3FF0000

/-- The row of a BAR0 offset (4-byte aligned); none for a reserved offset (R14). -/
def regRow (a : Nat) : Option RegRow :=
  if msixTable ≤ a ∧ a < msixTable + 0x2000 then
    some { rw := if a % 16 = 0 then 0xFFFFFFFC else if a % 16 = 12 then 1 else full32,
           reset := if a % 16 = 12 then 1 else 0, flr := true }
  else if 0x2800000 ≤ a then none
  else
    let (blk, inst) := pageBlock (addrDie a) (addrPage a)
    if blk = 0 then none
    else if addrOff a < 0x040 then headerRow blk (addrOff a)
    else blockRow blk inst (addrOff a)

/-- Reset value of a register; 0 for a reserved offset (R14). -/
def regReset (a : Nat) : Nat :=
  match regRow a with
  | some r => r.reset
  | none => 0

/-- The stored word of a register. -/
def State.reg (s : State) (a : Nat) : Nat := (s.regs.get (BitVec.ofNat 32 (regReset a)) a).toNat

/-- A register word stored. -/
def State.setReg (s : State) (a v : Nat) : State := { s with regs := s.regs.set a (BitVec.ofNat 32 v) }

/-- A counter one up, modulo 2^32. -/
def State.incReg (s : State) (a : Nat) (n : Nat := 1) : State := s.setReg a ((s.reg a + n) % 2 ^ 32)

/-- A 64-bit pair. -/
def State.reg64 (s : State) (a : Nat) : Nat := s.reg a + 2 ^ 32 * s.reg (a + 4)

/-- A 64-bit pair stored. -/
def State.setReg64 (s : State) (a v : Nat) : State := (s.setReg a (v % 2 ^ 32)).setReg (a + 4) (v / 2 ^ 32 % 2 ^ 32)

/-- A 64-bit pair counted up, modulo 2^64. -/
def State.incReg64 (s : State) (a n : Nat) : State := s.setReg64 a ((s.reg64 a + n) % 2 ^ 64)

/-- A 48-bit counter one up; it stops at 2^48 - 1 (R280). -/
def State.inc48 (s : State) (a : Nat) : State := s.setReg64 a (min (s.reg64 a + 1) (2 ^ 48 - 1))

/-- The page's EVENT_COUNT one up (R500). -/
def State.countEvent (s : State) (page : Nat) : State := s.incReg (page + 0x1C)

/-- A field of a register. -/
def State.regField (s : State) (a lo w : Nat) : Nat := field (s.reg a) lo w

/-- A field of a register stored. -/
def State.setRegField (s : State) (a lo w v : Nat) : State := s.setReg a (putField (s.reg a) lo w v)

end Sys2Proof.Machine
end

