-- ==== Sys2Proof/Machine/Ops.lean ====
section
/-! DEFINITION. The named operations over the state: contexts, tiles and roles, messages and MSI-X, error bits, rings,
fault records and completions (R291, R436 to R451, R500 to R502), and memory by space (R294 to R308, R321). -/

namespace Sys2Proof.Machine

/-! Contexts, tiles, dies. -/

def State.cxt (s : State) (c : Ctx) : CtxSt := nth CtxSt.reset c.num s.cx
def State.modCx (s : State) (c : Ctx) (f : CtxSt → CtxSt) : State := { s with cx := modAt f c.num s.cx }
/-- The physical tile 48 * die + position. -/
def State.tile (s : State) (k : Nat) : TileSt := s.tiles.get TileSt.reset k
def State.modTile (s : State) (k : Nat) (f : TileSt → TileSt) : State := { s with tiles := s.tiles.set k (f (s.tile k)) }
def State.role (s : State) (k : Nat) : Role := s.roles.get (Role.start k) k
def State.modRole (s : State) (k : Nat) (f : Role → Role) : State := { s with roles := s.roles.set k (f (s.role k)) }
def State.die (s : State) (d : Nat) : DieSt := s.dies.get DieSt.reset d
def State.modDie (s : State) (d : Nat) (f : DieSt → DieSt) : State := { s with dies := s.dies.set d (f (s.die d)) }
def State.tctx (s : State) (k : Nat) (c : Ctx) : TileCtx := nth TileCtx.reset c.num (s.tile k).cx
def State.modTctx (s : State) (k : Nat) (c : Ctx) (f : TileCtx → TileCtx) : State :=
  s.modTile k fun t => { t with cx := modAt f c.num t.cx }
def State.chan (s : State) (k : Nat) : Chan := s.stk.chans.get (Chan.reset k) k
def State.modChan (s : State) (k : Nat) (f : Chan → Chan) : State :=
  { s with stk.chans := s.stk.chans.set k (f (s.chan k)) }
def State.stackSt (s : State) (k : Nat) : StackSt := s.stk.st.get StackSt.reset k
def State.modStack (s : State) (k : Nat) (f : StackSt → StackSt) : State :=
  { s with stk.st := s.stk.st.set k (f (s.stackSt k)) }
def State.port (s : State) (p : Nat) : PortSt := s.fab.ports.get PortSt.reset p
def State.modPort (s : State) (p : Nat) (f : PortSt → PortSt) : State :=
  { s with fab.ports := s.fab.ports.set p (f (s.port p)) }

/-- All contexts. -/
def allCtx : List Ctx := [.train, .eval, .aux, .service]

/-- Some context of the device is armed (R501). -/
def State.anyArmed (s : State) : Bool := s.cx.any (·.armed)

/-- The context is in a step state: LOADING, RUNNING, ATTESTING, COMMITTING or ABORTING (R265). -/
def StepState.inStep : StepState → Bool
  | .idle => false
  | .ready => false
  | _ => true

def State.anyStep (s : State) : Bool := s.cx.any (·.state.inStep)

/-- Physical tiles of a die. -/
def dieTiles (d : Nat) : List Nat := (List.range 48).map (48 * d + ·)

def allTiles : List Nat := List.range 192

/-- The physical tile that carries a logical tile (R10). -/
def State.physOf (s : State) (t : TileId) : Option Nat :=
  (dieTiles t.die).find? fun k => (s.role k).state = 0 ∧ (s.role k).lt = t.lt

/-- Key of a logical tile: die * 64 + number. -/
def tileKey (t : TileId) : Nat := t.die * 64 + t.lt

/-- The device takes accesses of the host: the endpoint's link is up and power is on (R435, R477). -/
def State.busUp (s : State) : Bool := s.host.linkUp && decide (s.sys.pstate < 3) && !s.sys.stopped && !s.sys.mrstLow

/-- RST_STATUS.READY: bring-up is complete (R493). -/
def State.ready (s : State) : Bool := decide (s.sys.bringup = 8) && !s.sys.failed

/-- The C-dies are power-gated (R486). -/
def State.cGated (s : State) : Bool := decide (2 ≤ s.sys.pstate)

/-! Output record and free values. -/

def State.emit (s : State) (o : Out) : State := { s with out := s.out ++ [o] }

/-- The next free value is taken. -/
def State.tick (s : State) : State := { s with free := s.free + 1 }

/-! MSI-X (R450). -/

/-- HRING_CFG.HOLDOFF of the context that owns the vector; the other vectors have none (assumption entry 16). -/
def State.holdoff (s : State) (v : Nat) : Nat :=
  if 64 ≤ v ∧ v < 128 then s.regField (hstCtx (ctxOfNat ((v - 64) / 16)) 8) 16 8 else 0

/-- The vector's message goes out, or waits in the pending-bit array while its table entry is masked. -/
def State.msixSend (s : State) (v : Nat) : State :=
  if bitAt (s.reg (msixTable + 16 * v + 12)) 0 then { s with host.msixPend := insertNat v s.host.msixPend }
  else s.emit (.msix v)

/-- A tail write or event signals its vector (R450). -/
def State.signal (s : State) (v : Nat) : State :=
  if s.host.msixHold.contains v then { s with host.msixDue := insertNat v s.host.msixDue }
  else
    let s := s.msixSend v
    if s.holdoff v = 0 then s else { s with host.msixHold := insertNat v s.host.msixHold }

/-! Host memory as the device reads and writes it. -/

def State.hostRead (s : State) (a n : Nat) : List Byte := s.host.mem.readN a n
def State.hostNum (s : State) (a n : Nat) : Nat := s.host.mem.num a n
/-- 64-byte units that a write covers whole. -/
def wholeUnits (a n : Nat) : List Nat :=
  let lo := ceilDiv a 64
  (List.range ((a + n) / 64 - lo)).map (lo + ·)
/-- 64-byte units that a range touches. -/
def unitsOf (a n : Nat) : List Nat :=
  if n = 0 then [] else (List.range ((a + n - 1) / 64 - a / 64 + 1)).map (a / 64 + ·)

def State.hostWrite (s : State) (a : Nat) (bs : List Byte) : State :=
  { s with host.mem := s.host.mem.writeN a bs,
           host.poison := s.host.poison.filter fun u => !(wholeUnits a bs.length).contains u }

/-! Records (R291). -/

/-- The fields of a fault record that vary; the rest is filled in when it is written. -/
structure FRec where
  code : Nat
  ctx : Nat := 0
  source : Nat := 5
  die : Nat := 0xFF
  tile : Nat := 0xFF
  ltile : Nat := 0xFF
  unit : Nat := 0xFF
  line : Nat := 0xFFFF
  cat : Nat := 0xFFFF
  iter : Nat := 0
  c0 : Nat := 0
  c1 : Nat := 0
  c2 : Nat := 0
  c3 : Nat := 0
  c4 : Nat := 0
  check : Nat := 0
  step : Nat := 0
  deriving DecidableEq, Repr

/-- The 64 bytes of a record with its sequence number and time stamp (R291). -/
def FRec.bytes (r : FRec) (seq time : Nat) : List Byte :=
  let b := bytesLE 2 r.code ++ bytesLE 1 (r.ctx % 4) ++ bytesLE 1 r.source ++ bytesLE 1 r.die ++ bytesLE 1 r.tile ++
    bytesLE 1 r.ltile ++ bytesLE 1 r.unit ++ bytesLE 2 r.line ++ bytesLE 2 r.cat ++ bytesLE 4 r.iter ++
    bytesLE 4 r.c0 ++ bytesLE 4 r.c1 ++ bytesLE 4 r.c2 ++ bytesLE 4 r.c3 ++ bytesLE 4 r.c4 ++ bytesLE 2 r.check ++
    bytesLE 2 0 ++ bytesLE 8 r.step ++ bytesLE 8 time ++ bytesLE 4 seq
  b ++ bytesLE 4 (crc32c b)

/-- TILE of R291 for a position row * 8 + column: the same number. -/
def FRec.at (r : FRec) (k : Nat) (lt : Nat) : FRec := { r with die := k / 48, tile := k % 48, ltile := lt }

/-- Size of a ring of context c: 2 to the LOG2 field at bit `lo` of HST_RING_CFG (R454). -/
def State.ringSize (s : State) (c : Ctx) (lo : Nat) : Nat := 2 ^ s.regField (hstCtx c 8) lo 4

/-- Entries between head and tail, indices modulo 2^32 (R441). -/
def ringUsed (head tail : Nat) : Nat := (tail + 2 ^ 32 - head) % 2 ^ 32

def idxNext (i : Nat) : Nat := (i + 1) % 2 ^ 32

/-- A base register pair of context c: its block offset in the HST page. -/
def State.hstBase (s : State) (c : Ctx) (o : Nat) : Nat := s.reg64 (hstCtx c o)

def State.ringBase (s : State) (c : Ctx) : Nat := s.hstBase c 0x10
def State.cplBase (s : State) (c : Ctx) : Nat := s.hstBase c 0x18
def State.almBase (s : State) (c : Ctx) : Nat := s.hstBase c 0x20
def State.fltBase (s : State) (c : Ctx) : Nat := s.hstBase c 0x28
def State.winBase (s : State) (c : Ctx) : Nat := s.hstBase c 0x30
def State.winSize (s : State) (c : Ctx) : Nat := s.hstBase c 0x38
def State.pltBase (s : State) (c : Ctx) : Nat := s.hstBase c 0x40
def State.pltSize (s : State) (c : Ctx) : Nat := s.hstBase c 0x48
def State.inBase (s : State) (c : Ctx) : Nat := s.hstBase c 0x50
def State.inSize (s : State) (c : Ctx) : Nat := s.hstBase c 0x58

/-- The tail block of a context (R442). -/
def State.writeTails (s : State) (c : Ctx) : State :=
  let x := s.cxt c
  s.hostWrite (s.cplBase c) (bytesLE 4 x.cplTail ++ bytesLE 4 x.almTail ++ bytesLE 4 x.fltTail ++ List.replicate 52 0#8)

/-- SEQ and TIME of the record about to be written: the sequence counts records from 1 (R291, R444). -/
def State.nextRec (s : State) (r : FRec) : List Byte := r.bytes (s.host.seq + 1) (Config.timeNs s.free)

/-- The record number taken. -/
def State.tookRec (s : State) : State := { s with host.seq := (s.host.seq + 1) % 2 ^ 32, free := s.free + 1 }

/-- A record with SOURCE 0 to 4 into its context's fault ring; dropped and counted when the ring is full (R439, R451). -/
def State.ctxRecord (s : State) (c : Ctx) (r : FRec) : State :=
  let r := { r with ctx := c.num }
  let bs := s.nextRec r
  let x := s.cxt c
  let n := s.ringSize c 12
  let s := s.tookRec
  if n ≤ ringUsed x.fltHead x.fltTail then s.incReg (hstCtx c 0x68)
  else
    let s := s.hostWrite (s.fltBase c + x.fltTail % n * 64) bs
    let s := s.modCx c fun x => { x with fltTail := idxNext x.fltTail }
    (s.writeTails c).signal (66 + 16 * c.num)

/-- HST_EVT_BASE and the event ring's size (R440). -/
def State.evtBase (s : State) : Nat := s.reg64 (pgHST + 0x4C)
def State.evtSize (s : State) : Nat := 2 ^ s.regField (pgHST + 0x54) 0 4

/-- A record into its slot of the event ring, its tail and message; dropped and counted when the ring is full (R440, R451). -/
def State.evtPush (s : State) (bs : List Byte) : State :=
  let n := s.evtSize
  let t := s.host.evtTail
  if n ≤ ringUsed s.host.evtHead t then s.incReg (pgHST + 0x58)
  else
    let s := s.hostWrite (s.evtBase + 0x40 + t % n * 64) bs
    let s := { s with host.evtTail := idxNext t }
    (s.hostWrite s.evtBase (bytesLE 4 s.host.evtTail ++ List.replicate 60 0#8)).signal 0

/-- A record with SOURCE 5. Until the device is ready and the host has set HST_EVT_BASE it is held (R476; assumption entry
26). -/
def State.evtRecord (s : State) (r : FRec) : State :=
  let bs := s.nextRec { r with source := 5 }
  let s := s.tookRec
  if s.ready && decide (s.evtBase ≠ 0) then s.evtPush bs else { s with host.early := s.host.early ++ [bs] }

/-- The held records go out once the ring is set. -/
def State.flushEarly (s : State) : State :=
  if s.ready && decide (s.evtBase ≠ 0) then s.host.early.foldl State.evtPush { s with host.early := [] } else s

/-- A bit of KPR_ALERT; its change from 0 to 1 signals vector 1 (R514). -/
def State.alert (s : State) (b : Nat) : State :=
  let a := pgKPR + 0x44
  if bitAt (s.reg a) b then s else (s.setReg a (s.reg a ||| 2 ^ b)).signal 1

/-- The KPR_ALERT bit that a record raises (R514). -/
def alertOf (code : Nat) : Option Nat :=
  if code / 256 = 7 then some 6
  else if code = 0x0610 then some 0
  else if code = 0x0620 then some 1
  else if code = 0x0602 then some 2
  else if code = 0x0807 then some 3
  else if code = 0x0305 ∨ code = 0x0306 then some 4
  else if code = 0x0402 then some 5
  else none

/-- A SOURCE 5 record that the block of `page` raises: the record, ERR_STATUS.UNIT of the page (R500) and the alert. -/
def State.event (s : State) (page : Nat) (r : FRec) : State :=
  let s := s.setReg (page + 0x10) (s.reg (page + 0x10) ||| 0x20)
  let s := s.evtRecord r
  match alertOf r.code with
  | some b => s.alert b
  | none => s

/-- A bit of a page's ERR_STATUS set by hardware; a change from 0 to 1 with REPORT_EN set and its mask clear writes REG_ERROR
(R502). -/
def State.errBit (s : State) (page b : Nat) : State :=
  let st := s.reg (page + 0x10)
  if bitAt st b then s
  else
    let rep := bitAt (s.reg (page + 0x08)) 1 && !bitAt (s.reg (page + 0x14)) b
    let s := s.setReg (page + 0x10) (st ||| 2 ^ b)
    if rep then
      s.evtRecord { code := 0x020A, die := addrDie page, c0 := addrDie page, c1 := addrPage page, c2 := 2 ^ b }
    else s

/-! Completions (R444, R448). -/

/-- Free completion slots: one slot is reserved for a STEP that runs (R448). -/
def State.cplFree (s : State) (c : Ctx) : Nat :=
  let x := s.cxt c
  s.ringSize c 4 - ringUsed x.cplHead x.cplTail - b2n x.run.isSome

/-- Free Almanac slots, the reserved one of a running STEP apart (R448). -/
def State.almFree (s : State) (c : Ctx) : Nat :=
  let x := s.cxt c
  s.ringSize c 8 - ringUsed x.almHead x.almTail - b2n x.run.isSome

/-- A completion entry (R444). -/
def cplEntry (tag op status code step alm seq : Nat) : List Byte :=
  bytesLE 4 tag ++ bytesLE 1 op ++ bytesLE 1 status ++ bytesLE 2 code ++ bytesLE 8 step ++ bytesLE 4 alm ++
    bytesLE 4 seq ++ List.replicate 8 0#8

/-- An entry into its slot, the tail, the message (R442, R450). -/
def State.cplPush (s : State) (c : Ctx) (e : List Byte) : State :=
  let x := s.cxt c
  let s := s.hostWrite (s.cplBase c + 0x40 + x.cplTail % s.ringSize c 4 * 32) e
  let s := s.modCx c fun x => { x with cplTail := idxNext x.cplTail }
  (s.writeTails c).signal (64 + 16 * c.num)

/-- The context's step counter: that of its committed state, 0 without one. -/
def CtxSt.counter (x : CtxSt) : Nat :=
  match x.committed with
  | some k => k.counter
  | none => 0

/-- The completion of a command: written at once, or waiting for a slot (R448). -/
def State.complete (s : State) (c : Ctx) (t : CmdTag) (status code alm seq : Nat) : State :=
  let e := cplEntry t.tag t.opcode status code (s.cxt c).counter alm seq
  if s.cplFree c = 0 ∨ (s.cxt c).cplWait ≠ [] then s.modCx c fun x => { x with cplWait := x.cplWait ++ [e] }
  else s.cplPush c e

/-- No Almanac record. -/
def noAlm : Nat := 0xFFFFFFFF

/-- A command completed (STATUS 0). -/
def State.done (s : State) (c : Ctx) (t : CmdTag) : State := s.complete c t 0 0 noAlm 0

/-- A command refused: its record with SOURCE 3 into the context's fault ring, then STATUS 1 with its CODE and SEQ (R445,
R447, R451). -/
def State.refuse (s : State) (c : Ctx) (t : CmdTag) (r : FRec) : State :=
  let s := s.ctxRecord c { r with step := if r.step = 0 then (s.cxt c).counter else r.step }
  s.complete c t 1 r.code noAlm s.host.seq

/-- Waiting completion entries take the slots that are free (R448). -/
def State.flushCpl (c : Ctx) : Nat → State → State
  | 0, s => s
  | n + 1, s =>
    match (s.cxt c).cplWait with
    | [] => s
    | e :: rest =>
      if s.cplFree c = 0 then s
      else State.flushCpl c n ((s.modCx c fun x => { x with cplWait := rest }).cplPush c e)

/-! Stack addresses (R302 to R305, R321). -/

/-- STK_MAP_CFG, equal in all eight pages, held by that of stack 0. -/
def stkMapCfg : Nat := pgSTK 0 + 0x40
def State.mapMode (s : State) : Nat := s.regField stkMapCfg 0 1
def State.mapStacks (s : State) : List Nat := maskBits 8 (s.regField stkMapCfg 8 8)

/-- Bytes of the map: 48 GiB a stack (R301, R303); in contiguous mode the stacks' ranges keep their places (R304). -/
def State.mapTop (s : State) : Nat :=
  if s.mapMode = 0 then s.mapStacks.length * 0xC00000000
  else match s.mapStacks.reverse with
    | [] => 0
    | k :: _ => (k + 1) * 0xC00000000

/-- The private base: the highest GiB (R302). -/
def State.privBase (s : State) : Nat := s.mapTop - 0x40000000

/-- The address lies in the device stack address space. -/
def State.stkHas (s : State) (a : Nat) : Bool :=
  decide (a < s.mapTop) && (s.mapMode = 0 || s.mapStacks.contains (a / 0xC00000000))

/-- XOR of `n` fields of `w` bits (R303, R304). -/
def foldBits (w : Nat) : Nat → Nat → Nat
  | 0, _ => 0
  | n + 1, q => (q % 2 ^ w) ^^^ foldBits w n (q / 2 ^ w)

/-- Channel (16 * stack + logical channel) and channel-local granule L of a stack address (R303, R304). -/
def State.stkDecode (s : State) (a : Nat) : Nat × Nat :=
  if s.mapMode = 0 then
    let n := 16 * s.mapStacks.length
    let g := a / 256
    let q := g / n
    let slot := (g % n + foldBits 7 4 q) % n
    (16 * nth 0 (slot / 16) s.mapStacks + slot % 16, q)
  else
    let st := a / 0xC00000000
    let g := a % 0xC00000000 / 256
    let q := g / 16
    (16 * st + (g % 16 + foldBits 4 6 q) % 16, q)

/-- The stack address of byte 0 of granule L of a channel: the inverse of the map. -/
def State.stkEncode (s : State) (ch l : Nat) : Nat :=
  if s.mapMode = 0 then
    let n := 16 * s.mapStacks.length
    let slot := 16 * (s.mapStacks.findIdx (· = ch / 16)) + ch % 16
    let r := (slot + n * 128 - foldBits 7 4 l) % n
    (l * n + r) * 256
  else
    let r := (ch % 16 + 16 - foldBits 4 6 l) % 16
    ch / 16 * 0xC00000000 + (l * 16 + r) * 256

/-- The remap pool region's address (R302). -/
def State.poolAddr (s : State) (i : Nat) : Nat := s.privBase + 0x400000 + i * 4096

/-- The address after the region remap (R321). -/
def State.stkPhys (s : State) (a : Nat) : Nat :=
  match s.stk.remap.find? (·.1 = a / 4096) with
  | some (_, i) => s.poolAddr i + a % 4096
  | none => a

/-- The channel of the address is fenced permanently (R316). -/
def State.stkFenced (s : State) (a : Nat) : Bool := (s.chan (s.stkDecode a).1).fenced

/-! The memory-side cache: tags, hits and misses (R298, R299). -/

/-- Cache granules of an M-die: neither scratchpad nor excluded (R298, R413). -/
def State.cacheGranules (s : State) (m : Nat) : Nat :=
  ((List.range 8).filter fun j => !bitAt (s.rsv.acting.get 0 m) j && !s.rsv.excluded.contains (8 * m + j)).length

/-- Tree pseudo-LRU over 2^n ways (R298): node 1 is the root, node i has the children 2i and 2i + 1, and a set bit sends the search for a
victim to the upper half. -/
def plruVictim : Nat → Nat → Nat → Nat
  | 0, _, node => node
  | n + 1, tree, node => plruVictim n tree (2 * node + b2n (bitAt tree node))

/-- An access of a way turns the bits on its path away from it. -/
def plruTouch : Nat → Nat → Nat → Nat → Nat
  | 0, _, _, tree => tree
  | n + 1, way, node, tree =>
    let up := bitAt way n
    plruTouch n way (2 * node + b2n up) (putField tree node 1 (b2n (!up)))

/-- The way that a full set of `ways` ways replaces: its tree's where the ways are a power of two; over another number the manual gives no
tree, and the victim is free. -/
def State.cacheVictim (s : State) (ways tree : Nat) : Nat :=
  if 2 ^ ways.log2 = ways then plruVictim ways.log2 tree 1 - ways else Config.cacheVictim s.free ways % ways

/-- One 256-byte line of the cache is accessed. -/
def State.cacheTouch (s : State) (a : Nat) (write : Bool) : State :=
  let (ch, l) := s.stkDecode a
  let m := ch / 32
  let ways := 16 * s.cacheGranules m
  if ways = 0 then s
  else
    let set := ((l % 2 ^ 13) ^^^ (l / 2 ^ 13 % 2 ^ 11 * 4) ^^^ (ch % 32 * 256)) % 2 ^ 13
    let key := m * 8192 + set
    let ws := s.rsv.cache.get [] key
    let tree := s.rsv.tree.get 0 key
    let tag := a / 256
    let hit := ws.any (·.1 = tag)
    let way := if hit then ws.findIdx (·.1 = tag) else if ws.length < ways then ws.length else s.cacheVictim ways tree
    let ws := if hit then ws.map fun w => if w.1 = tag then (tag, w.2 || write) else w
      else if ws.length < ways then ws ++ [(tag, write)] else modAt (fun _ => (tag, write)) way ws
    let s := { s with rsv.cache := s.rsv.cache.set key ws, rsv.tree := s.rsv.tree.set key (plruTouch ways.log2 way 1 tree) }
    if hit then s.incReg64 (pgRSV m + 0x48) 1 else s.tick.incReg64 (pgRSV m + 0x50) 1

/-- The lines of a range of stack bytes are accessed. -/
def State.cacheRange (s : State) (a n : Nat) (write : Bool) : State :=
  if n = 0 then s
  else ((List.range ((a + n - 1) / 256 - a / 256 + 1)).map fun i => (a / 256 + i) * 256).foldl
    (fun s b => s.cacheTouch (s.stkPhys b) write) s

/-! Stack, Reserve, tile-store and host-window bytes. -/

/-- The address lies in the Catalogue master copy, the first 4 MiB of the private range (R219, R302). -/
def State.catHas (s : State) (a : Nat) : Bool := decide (s.privBase ≤ a) && decide (a < s.privBase + 0x400000)
/-- Byte of the master copy: descriptor e lies at the private base + 64 * e, byte 0 first (R5, R217). -/
def State.catByte (s : State) (a : Nat) : Byte :=
  let o := a - s.privBase
  BitVec.ofNat 8 ((s.catalogue.get 0#512 (o / 64)).toNat / 2 ^ (8 * (o % 64)))
/-- A byte of a stack address: the Catalogue's where the address lies in its master copy. -/
def State.stkByte (s : State) (a : Nat) : Byte := if s.catHas a then s.catByte a else s.stk.mem.read (s.stkPhys a)
def State.stkRead (s : State) (a n : Nat) : List Byte := (List.range n).map fun i => s.stkByte (a + i)
/-- The 64-byte unit of address a is read as poisoned (R308, R316). -/
def State.stkPoisoned (s : State) (a : Nat) : Bool :=
  s.stk.poison.contains (s.stkPhys a / 64) || s.stkFenced (s.stkPhys a)

/-- One byte stored, unless its channel is fenced permanently (R316). -/
def State.stkPut (s : State) (a : Nat) (b : Byte) : State :=
  if s.stkFenced (s.stkPhys a) then s else { s with stk.mem := s.stk.mem.write (s.stkPhys a) b }

/-- Bytes stored one after another. -/
def State.stkPuts (s : State) (a : Nat) : List Byte → State
  | [] => s
  | b :: bs => State.stkPuts (s.stkPut a b) (a + 1) bs

/-- Units whose every byte was written lose their poison, but for the sectors kept poisoned for good (R308, R320). -/
def State.stkClean (s : State) (units : List Nat) : State :=
  let clean := units.map fun u => s.stkPhys (u * 64) / 64
  { s with stk.poison := s.stk.poison.filter fun u => !(clean.contains u && !s.stk.dead.contains u) }

/-- A byte stored into the Catalogue master copy. -/
def State.catPut (s : State) (a : Nat) (b : Byte) : State :=
  let o := a - s.privBase
  let e := (s.catalogue.get 0#512 (o / 64)).toNat
  { s with catalogue := s.catalogue.set (o / 64) (BitVec.ofNat 512 (putField e (8 * (o % 64)) 8 b.toNat)) }
/-- The bytes of a write that fall into the master copy (R302); only a host access of BAR2 reaches it (R437). -/
def State.catPuts (s : State) (a : Nat) : List Byte → State
  | [] => s
  | b :: bs => State.catPuts (if s.catHas a && !s.stkFenced (s.stkPhys a) then s.catPut a b else s) (a + 1) bs

/-- Unpoisoned bytes written (R308). -/
def State.stkWrite (s : State) (a : Nat) (bs : List Byte) : State :=
  ((s.stkPuts a bs).catPuts a bs).stkClean (wholeUnits a bs.length)

/-- Units written as poisoned (R308). -/
def State.stkPoison (s : State) (units : List Nat) : State :=
  { s with stk.poison := units.foldl (fun l u => insertNat (s.stkPhys (u * 64) / 64) l) s.stk.poison }

/-- The spaces of R221: 0 the tile store of a physical tile, 1 the Reserve, 2 the stacks, 3 the window of a context. -/
structure Space where
  sp : Nat
  tile : Nat
  ctx : Ctx
  deriving DecidableEq, Repr

def State.spRead (s : State) (p : Space) (a n : Nat) : List Byte :=
  match p.sp with
  | 0 => (s.tile p.tile).mem.readN a n
  | 1 => s.rsv.mem.readN a n
  | 2 => s.stkRead a n
  | _ => s.hostRead (s.winBase p.ctx + a) n

/-- Bytes stored; the poison bits stay. -/
def State.spPut (s : State) (p : Space) (a : Nat) (bs : List Byte) : State :=
  match p.sp with
  | 0 => s.modTile p.tile fun t => { t with mem := t.mem.writeN a bs }
  | 1 => { s with rsv.mem := s.rsv.mem.writeN a bs }
  | 2 => (s.stkPuts a bs).cacheRange a bs.length true
  | _ => { s with host.mem := s.host.mem.writeN (s.winBase p.ctx + a) bs }

/-- Units whose every byte was written lose their poison (R295, R308). -/
def State.spClean (s : State) (p : Space) (units : List Nat) : State :=
  match p.sp with
  | 0 => s.modTile p.tile fun t => { t with poison := t.poison.filter fun u => !units.contains u }
  | 1 => { s with rsv.poison := s.rsv.poison.filter fun u => !units.contains u }
  | 2 => s.stkClean units
  | _ => { s with host.poison := s.host.poison.filter fun u => !(units.map fun v => (s.winBase p.ctx + v * 64) / 64).contains u }

/-- Unpoisoned bytes written to a range. -/
def State.spWrite (s : State) (p : Space) (a : Nat) (bs : List Byte) : State :=
  (s.spPut p a bs).spClean p (wholeUnits a bs.length)

/-- Poisoned 64-byte units of a range (R294). -/
def State.spPoison (s : State) (p : Space) (a n : Nat) : List Nat :=
  (unitsOf a n).filter fun u =>
    match p.sp with
    | 0 => (s.tile p.tile).poison.contains u
    | 1 => s.rsv.poison.contains u
    | 2 => s.stkPoisoned (u * 64)
    | _ => s.host.poison.contains ((s.winBase p.ctx + u * 64) / 64)

/-- Units marked as poisoned. -/
def State.spMark (s : State) (p : Space) (units : List Nat) : State :=
  match p.sp with
  | 0 => s.modTile p.tile fun t => { t with poison := units.foldl (fun l u => insertNat u l) t.poison }
  | 1 => { s with rsv.poison := units.foldl (fun l u => insertNat u l) s.rsv.poison }
  | 2 => s.stkPoison units
  | _ => { s with host.poison := units.foldl (fun l u => insertNat ((s.winBase p.ctx + u * 64) / 64) l) s.host.poison }

/-- A key of one byte of memory, for the interlocks (R238): tile stores by tile, then the shared spaces. -/
def Space.byteKey (p : Space) (a : Nat) : Nat :=
  match p.sp with
  | 0 => p.tile * 2 ^ 24 + a
  | 1 => 2 ^ 40 + a
  | 2 => 2 ^ 48 + a
  | _ => 2 ^ 64 + p.ctx.num * 2 ^ 64 + a

/-! Bytes that the manual leaves unspecified. -/

/-- The byte of a key (`Space.byteKey`) becomes unspecified: it holds a free byte; poison and cache stay. Keys of vector registers name
no byte. -/
def State.loseKey (s : State) (k : Nat) : State :=
  let b := Config.freeByte s.free k
  if k < 2 ^ 40 then s.modTile (k / 2 ^ 24) fun t => { t with mem := t.mem.write (k % 2 ^ 24) b }
  else if k < 2 ^ 48 then { s with rsv.mem := s.rsv.mem.write (k - 2 ^ 40) b }
  else if k < 2 ^ 64 then s.stkPut (k - 2 ^ 48) b
  else if k < 2 ^ 70 then { s with host.mem := s.host.mem.write (s.winBase (ctxOfNat (k / 2 ^ 64 - 1)) + k % 2 ^ 64) b }
  else s

/-- The bytes of a list of keys hold unspecified values (R135, R179, R208, R355). -/
def State.loseKeys (s : State) (ks : List Nat) : State :=
  if ks = [] then s else (ks.foldl (fun s k => s.loseKey k) s).tick

/-! Error injection (R404, R405). -/

/-- Point `p` of a page fires at this occurrence: the state with COUNT one up and a one-shot disarmed, and whether it fired. -/
def State.injectFires (s : State) (page p : Nat) : State × Bool :=
  let a := page + 0x18
  let w := s.reg a
  if bitAt w 8 && field w 0 8 = p then
    if bitAt w 9 then
      let n := s.sys.injSeen.get 0 page + 1
      if n % 2 ^ field w 10 5 = 0 then
        (({ s with sys.injSeen := s.sys.injSeen.set page n }).setRegField a 16 16 (field w 16 16 + 1), true)
      else ({ s with sys.injSeen := s.sys.injSeen.set page n }, false)
    else ((s.setReg a (putField w 8 1 0)).setRegField a 16 16 (field w 16 16 + 1), true)
  else (s, false)

/-- Point `p` of a page meets `n` occurrences one after another (R404): the numbers of those at which it fires, each with COUNT before it. -/
def State.injectAt (s : State) (page p n : Nat) : State × List (Nat × Nat) :=
  let a := page + 0x18
  let w := s.reg a
  if n = 0 then (s, [])
  else if bitAt w 8 && field w 0 8 = p then
    let cnt := field w 16 16
    if bitAt w 9 then
      let seen := s.sys.injSeen.get 0 page
      let hits := (List.range n).filter fun i => (seen + i + 1) % 2 ^ field w 10 5 = 0
      (({ s with sys.injSeen := s.sys.injSeen.set page (seen + n) }).setRegField a 16 16 (cnt + hits.length),
       (hits.zip (List.range hits.length)).map fun e => (e.1, (cnt + e.2) % 65536))
    else ((s.setReg a (putField w 8 1 0)).setRegField a 16 16 (cnt + 1), [(0, cnt)])
  else (s, [])

/-! Folding a change over a list. -/

def foldS {α : Type} (f : State → α → State) (s : State) (l : List α) : State := l.foldl f s

end Sys2Proof.Machine
end

