-- ==== Sys2Proof/Machine/Registers.lean ====
section
/-! DEFINITION. Register accesses: the value each register reads (R13, R500 to R515), writes by access code and lock (R13,
R501), 64-bit pairs (R503), and the registers with behaviour of their own (R280, R300, R356, R404, R480, R513). -/

namespace Sys2Proof.Machine

/-- A host access ends A1 (R486, R504). -/
def State.wake (s : State) : State := if s.sys.pstate = 1 then { s with sys.pstate := 0 } else s

/-- An access that reaches the device. -/
def State.access (s : State) (f : State → State) : State := if s.busUp then f s.wake else s

/-- The register is locked: its context is armed, or any context for a device-wide field (R501). -/
def State.lockedBy (s : State) : Option Nat → Bool
  | some c => (nth CtxSt.reset c s.cx).armed
  | none => s.anyArmed

/-- The instance of a page is out of service (R500 STATUS.FENCED). -/
def State.outOfService (s : State) (a : Nat) : Bool :=
  let (blk, inst) := pageBlock (addrDie a) (addrPage a)
  if blk = 0 then false
  else if blk ≤ bkPOR then decide ((s.role (48 * addrDie a + inst)).state = 3)
  else if blk = bkLNK then decide ((s.port inst).state = 3)
  else if blk = bkSTK then bitAt (s.reg stkMapCfg) 31 && !s.mapStacks.contains inst
  else if blk = bkRSV then (List.range 8).all fun j => s.rsv.excluded.contains (8 * inst + j)
  else false

/-- Block registers of such a page read 0 and take no write (R504: tiles, ports and stacks). -/
def State.pageShut (s : State) (a : Nat) : Bool :=
  decide (0x40 ≤ addrOff a) && decide ((pageBlock (addrDie a) (addrPage a)).1 ≠ bkRSV) && s.outOfService a

/-- Setting in force of a tile island (R480). -/
def State.tilEff (s : State) (k : Nat) : Nat :=
  min (min (s.regField (pgTIL (k / 48) (k % 48) + 0x40) 0 5) s.thr.ceilPkg)
    (min (s.die (k / 48)).ceilPwr (s.die (k / 48)).ceilThm)

/-- Tokens held by the lines of a die (R283, R509). -/
def State.ledger (s : State) (d : Nat) : Nat :=
  ((dieTiles d).flatMap fun k => (s.tile k).running.map (·.pcost)).sum

/-- The physical channel (0 to 16) of a stack: the logical channel that it serves, 16 for none. -/
def State.serves (s : State) (st p : Nat) : Nat :=
  match (List.range 16).find? fun l => (s.chan (16 * st + l)).inst = p with
  | some l => l
  | none => 16

/-- STK_CH_STATUS of physical channel p (R510). -/
def State.chStatus (s : State) (st p : Nat) : Nat :=
  let l := s.serves st p
  let swept := match (s.stackSt st).sweep with
    | some (c, _) => decide (p = 16) || decide ((s.chan (16 * st + c)).inst = p)
    | none => false
  let state :=
    if l = 16 then (if p < 16 ∧ (s.chan (16 * st + p)).outOfService then 2 else 0)
    else if (s.chan (16 * st + l)).fenced then 3
    else if (s.chan (16 * st + l)).hold = some .retrain then 1
    else 0
  state + 4 * b2n swept + 256 * (if l = 16 then 0xF else l)

/-- A pixel of a tile's running lines. -/
def State.runs (s : State) (k : Nat) (u : List Unit') : List Running := (s.tile k).running.filter fun r => u.contains r.unit

/-- A drain of the context in progress. -/
def State.drainsOf (s : State) (c : Ctx) : List Reader := s.plt.readers.filter fun r => r.ctx = c ∧ r.copyTo = none

/-- The Logbook slots of a record type: base and size of each slot, slot count (R494). -/
def logSlots (t : Nat) : Option (Nat × Nat × Nat) :=
  if t = 0x0001 then some (0x1900000, 0x10000, 2)
  else if t = 0x0002 then some (0x1920000, 0x10000, 2)
  else if t = 0x0003 then some (0x1940000, 0x10000, 2)
  else if t = 0x0004 then some (0x1960000, 0x10000, 2)
  else if t = 0x0005 then some (0x1980000, 0x10000, 2)
  else if t = 0x0006 then some (0x19A0000, 0x80000, 2)
  else if t = 0x0010 then some (0x0000000, 0xC00000, 1)
  else if t = 0x0011 then some (0x0C00000, 0xC00000, 1)
  else none

/-- A Logbook slot is valid: TYPE, VERSION, fit, CRC (R495). -/
def State.logSlotOk (s : State) (t base size : Nat) : Bool :=
  let f := s.log.flash
  let len := f.num (base + 4) 4
  decide (f.num base 2 = t) && decide (f.num (base + 2) 2 = 1) && decide (len + 0x14 ≤ size) &&
    decide (f.num (base + 0x10 + len) 4 = crc32c (f.readN base (0x10 + len)))

/-- Valid slots of a type: SEQ and base. -/
def State.logValid (s : State) (t : Nat) : List (Nat × Nat) :=
  match logSlots t with
  | none => []
  | some (base, size, n) =>
    ((List.range n).filter fun i => s.logSlotOk t (base + i * size) size).map fun i =>
      (s.log.flash.num (base + i * size + 8) 8, base + i * size)

/-- The winning slot: SEQ and base (R495). -/
def State.logWin (s : State) (t : Nat) : Option (Nat × Nat) :=
  (s.logValid t).foldl (fun w e => match w with
    | none => some e
    | some b => if b.1 < e.1 then some e else some b) none

/-- Payload of the record in force. -/
def State.logRecord (s : State) (t : Nat) : Option (List Byte) :=
  match s.logWin t with
  | none => none
  | some (_, base) => some (s.log.flash.readN (base + 0x10) (s.log.flash.num (base + 4) 4))

/-- Anti-rollback counter i of COUNTERS: 0 firmware, 1 owner, 2 configuration (R463). -/
def State.arb (s : State) (i : Nat) : Nat :=
  match s.logRecord 1 with
  | none => 0
  | some bs => ofBytesLE ((bs.drop (4 * i)).take 4)

/-- PLT_STATUS (R515). -/
def State.pltStatus (s : State) (c : Ctx) : Nat :=
  let x := s.cxt c
  let waiting := s.plt.readers.any fun r => r.ctx = c ∧ r.waiting.isSome
  let copy := s.plt.readers.any fun r => r.ctx = c ∧ r.copyTo.isSome
  let stage := (s.plt.restoring.find? (·.1 = c.num)).any fun r => r.2.stage
  (s.drainsOf c).length % 4 + 4 * b2n waiting + 8 * b2n copy + 16 * b2n stage + 32 * b2n x.staged.isSome +
    256 * (x.newest.getD 0) + 512 * b2n x.newest.isSome + 65536 * (x.completed % 65536)

/-- The entry at the head of a context's command ring, 128 bytes (R441, R444). -/
def State.headEntry (s : State) (c : Ctx) : Option (List Byte) :=
  let x := s.cxt c
  if x.cmdHead = x.cmdTail then none
  else some (s.hostRead (s.ringBase c + x.cmdHead % s.ringSize c 0 * 128) 128)

/-- Opcode of an entry. -/
def entryOp (e : List Byte) : Nat := ofBytesLE (e.take 1)

/-- The ring head waits for slots, on a rotation or in A2 (HST_CTX_STATUS.HELD, R448, R265, R487). -/
def State.held (s : State) (c : Ctx) : Bool :=
  match s.headEntry c with
  | none => false
  | some e =>
    s.sys.pstate = 2 || decide ((s.cxt c).cplWait ≠ []) ||
    ((entryOp e = 0x10 || entryOp e = 0x11) && decide ((s.cxt c).state = .ready) &&
      (decide (s.almFree c = 0) || decide (s.cplFree c = 0))) ||
    (decide (entryOp e = 0x10) && s.thr.rotWanted)

/-- HST_CTX_STATUS (R452). -/
def State.ctxStatus (s : State) (c : Ctx) : Nat :=
  let x := s.cxt c
  x.state.code + 8 * b2n x.loaded + 16 * b2n x.armed + 32 * b2n (s.held c) + 64 * b2n x.paused

/-- Value of a register that is not a stored word, by block, instance and offset; none: the stored word. -/
def State.computed (s : State) (a : Nat) : Option Nat :=
  let die := addrDie a
  let off := addrOff a
  let (blk, inst) := pageBlock die (addrPage a)
  let k := 48 * die + inst
  if off = 0x000 then some (blk + 256 * inst + 65536 * die)
  else if off = 0x004 then some 1
  else if off = 0x00C then
    some (b2n (s.sys.hdrReady && !s.sys.hdrOff.contains (pageBase a)) + 2 * b2n (s.outOfService a))
  else if off < 0x040 then none
  else if blk = bkTIL ∧ off = 0x040 then
    some (s.regField a 0 5 + 256 * s.tilEff k + 8192 * b2n s.thr.pkgPause)
  else if blk = bkTIL ∧ off = 0x044 then
    let r := s.role k
    let t := s.tile k
    some ((if r.state = 0 then r.lt else 0x3F) + 64 * (match t.last with
        | some c => c.num
        | none => 0) +
      256 * b2n (t.running ≠ []) + 512 * b2n t.helping.isSome +
      1024 * b2n (t.running.any fun r => r.arb.isSome))
  else if blk = bkARY ∧ off = 0x040 then
    some (((s.runs k [.pass]).foldl (fun m r => m ||| r.arrays) 0) + 16 * b2n (s.runs k [.ald] ≠ []))
  else if blk = bkVEC ∧ off = 0x040 then
    some (match s.runs k [.vec] with
      | [] => 0
      | r :: _ => 1 + 2 * r.ctx.num)
  else if blk = bkPOR ∧ off = 0x040 then some (b2n (s.runs k [.porter, .ald, .hand] ≠ []))
  else if blk = bkPWR ∧ inst < 4 ∧ off = 0x044 then some (s.ledger inst)
  else if blk = bkPWR ∧ inst < 4 ∧ off = 0x04C then
    some ((s.die inst).ceilPwr + 256 * (s.die inst).ceilThm + 65536 * s.thr.ceilPkg)
  else if blk = bkPWR ∧ 4 ≤ inst ∧ 0x04C ≤ off then some (Config.railTelemetry s.free ((off - 0x4C) / 4) % 2 ^ 32)
  else if blk = bkBST ∧ off = 0x044 then
    some (b2n s.sys.bstDone + 2 * s.regField a 1 1 + 4 * b2n s.sys.capacity)
  else if blk = bkBST ∧ 0x080 ≤ off then
    let r := s.role (48 * die + (off - 0x80) / 4)
    some (r.state + 4 * (if r.state = 0 then r.lt else 0x3F) + 256 * b2n r.suspect + 512 * b2n r.quarantine +
      1024 * b2n r.due + 65536 * min r.ageH 0xFFFF)
  else if blk = bkSTK ∧ off = 0x040 then some (s.reg stkMapCfg)
  else if blk = bkSTK ∧ off = 0x048 then
    let ppr := (List.range 16).any fun l => (s.stk.ppr.get [] (16 * inst + l)) ≠ []
    some ((match (s.stackSt inst).sweep with
      | some (c, _) => 1 + 2 * c
      | none => 0) + 32 * b2n ppr)
  else if blk = bkSTK ∧ 0x100 ≤ off ∧ off % 16 = 0 then some (s.chStatus inst ((off - 0x100) / 16))
  else if blk = bkRSV ∧ off = 0x044 then
    let ex := toMask ((List.range 8).filter fun j => s.rsv.excluded.contains (8 * inst + j))
    let sc := s.rsv.acting.get 0 inst
    some (ex + 256 * (sc - (sc &&& ex)) + 65536 * (0xFF - (sc ||| ex)) +
      2 ^ 24 * b2n (s.rsv.flush.any (·.1 = inst)))
  else if blk = bkLNK ∧ off = 0x040 then
    let p := s.port inst
    some (p.state + 4 * b2n (s.sys.pstate = 2 && decide (p.state = 2)) + (s.reg a &&& 0xFFFF0018) + 256 * (p.fails % 256))
  else if blk = bkLNK ∧ off = 0x048 then some (s.reg (pgLNK 0 + 0x48))
  else if blk = bkLNK ∧ 0x070 ≤ off then some (nth 0 ((off - 0x70) / 4) (s.port inst).credit)
  else if blk = bkCOL ∧ off = 0x040 then
    some (match s.fab.plans.find? fun e => e.2.parts ≠ [] ∧ e.2.engine = inst with
      | some e => 1 + 2 * (e.1 / 65536)
      | none => 0)
  else if blk = bkUPD ∧ off = 0x040 then
    some (match s.fab.grads.find? fun g => g.engine = inst, s.plt.readers.find? fun r => r.copyTo.isSome with
      | some g, _ => 1 + 2 * g.ctx.num
      | none, some r => 9 + 2 * r.ctx.num
      | none, none => 0)
  else if blk = bkCOL ∧ off = 0x054 then
    some ((if inst = 0 then s.fab.fwd0 else s.fab.fwd1).get full32 (s.regField (pgCOL inst + 0x50) 0 13))
  else if blk = bkCHK ∧ off = 0x048 then some (b2n (s.chk.get (ChkSt.reset inst) inst).scan + s.reg a)
  else if blk = bkSEC ∧ off = 0x040 then
    some ((s.sec.booted.getD 0) + 2 * b2n s.sec.trial + 4 * b2n s.sec.identity + 8 * b2n s.sec.owner +
      16 * b2n s.sec.config + 32 * b2n s.sec.logFull)
  else if blk = bkSEC ∧ off = 0x044 then some s.sec.svn
  else if blk = bkSEC ∧ off = 0x048 then some (s.arb 0)
  else if blk = bkSEC ∧ off = 0x04C then some (s.arb 2)
  else if blk = bkKPR ∧ off = 0x040 then some (b2n (decide (2 ≤ s.sys.bringup)))
  else if blk = bkKPR ∧ off = 0x048 then some (Config.timeNs s.free / 1000000000 % 2 ^ 32)
  else if blk = bkRST ∧ off = 0x044 then
    some (s.sys.pstate + 4 * b2n s.ready + (s.reg a &&& 0x3F8) + 1024 * b2n s.sys.failed)
  else if blk = bkLOG ∧ off = 0x040 then
    some (match s.log.queue with
      | [] => 0
      | (t, _) :: r => 1 + 256 * (t % 256) + 65536 * (r.length % 65536))
  else if blk = bkLOG ∧ off = 0x044 then
    some (toMask ((List.range 6).filter fun t => (s.logWin (t + 1)).isSome) + 256 * b2n (s.logWin 0x10).isSome +
      512 * b2n (s.logWin 0x11).isSome)
  else if blk = bkHST ∧ off = 0x040 then some (if s.host.linkUp then Config.linkStatus s.free % 2 ^ 10 else 0)
  else if blk = bkHST ∧ 0x100 ≤ off ∧ (off - 0x100) % 0x80 = 0 then some (s.ctxStatus (ctxOfNat ((off - 0x100) / 0x80)))
  else if blk = bkHST ∧ 0x100 ≤ off ∧ (off - 0x100) % 0x80 = 0x0C then some (s.cxt (ctxOfNat ((off - 0x100) / 0x80))).cmdHead
  else if blk = bkPLT ∧ off < 0x0C0 ∧ (off - 0x40) % 0x20 = 4 then some (s.pltStatus (ctxOfNat ((off - 0x40) / 0x20)))
  else if blk = bkPLT ∧ off = 0x0D8 then
    some (b2n s.plt.rx.isSome + 2 * s.plt.rxNewest + 4 * b2n (s.plt.rxComplete.contains 0) +
      8 * b2n (s.plt.rxComplete.contains 1))
  else none

/-- What a register access reads (R13, R14, R493, R504). -/
def State.readReg (s : State) (a : Nat) : Nat :=
  if !s.ready then full32
  else if s.cGated && decide (a < 0x1000000) then full32
  else match regRow a with
    | none => 0
    | some _ => if s.pageShut a then 0 else (s.computed a).getD (s.reg a)

/-- A write of a register without behaviour of its own, by its masks: RWL bits while unlocked, else LOCK_VIOL (R13). -/
def State.storeReg (s : State) (a v : Nat) (r : RegRow) : State :=
  let locked := r.rwl ≠ 0 ∧ s.lockedBy r.owner = true
  let old := s.reg a
  let m := r.rw + (if locked then 0 else r.rwl)
  let new := (old - (old &&& m)) + (v &&& m)
  let s := s.setReg a (new - (new &&& (v &&& r.w1c)))
  if locked then s.errBit (pageBase a) 1 else s

/-- The check unit that owns the page of an address, if it is a CHK page's block register. -/
def chkOf (a : Nat) : Option Nat :=
  let (blk, inst) := pageBlock (addrDie a) (addrPage a)
  if blk = bkCHK ∧ 0x40 ≤ addrOff a ∧ a < 0x2800000 then some inst else none

def State.chkSt (s : State) (u : Nat) : ChkSt := s.chk.get (ChkSt.reset u) u

/-- A write to the page of a check unit that host software may not make now: OWNED for unit 0 and for unit 15 during a
COELOSTAT (R431), else counted while BUSY (R427); none: the write goes on. -/
def State.chkShut (s : State) (u : Nat) (stat : Bool) : Option State :=
  if u = 0 ∨ (u = 15 ∧ s.fab.coel.isSome = true) then some (s.errBit (pgCHK u) 4)
  else if (s.chkSt u).scan && !stat then some (s.countEvent (pgCHK u))
  else none

/-- The address lies in the page of a check unit whose every host write is ignored: unit 0, and unit 15 while a COELOSTAT owns it (R431). -/
def State.ownedPage (s : State) (a : Nat) : Bool :=
  let (blk, inst) := pageBlock (addrDie a) (addrPage a)
  decide (blk = bkCHK) && decide (a < 0x2800000) && (decide (inst = 0) || (decide (inst = 15) && s.fab.coel.isSome))

/-- WIDTH of a unit's CHK_CFG. -/
def State.chkWidth (s : State) (u : Nat) : Nat := s.regField (pgCHK u + 0x40) 0 7

/-- A write of CHK_CFG: ignored with WIDTH outside 8 to 64 or ALIVE 3; a new WIDTH masks reg at once (R424, R433). -/
def State.writeChkCfg (s : State) (u v : Nat) : State :=
  let w := field v 0 7
  if w < 8 ∨ 64 < w ∨ field v 10 2 = 3 then s
  else
    let s := s.setReg (pgCHK u + 0x40) (v % 2 ^ 15)
    s.setReg64 (pgCHK u + 0x60) (s.reg64 (pgCHK u + 0x60) % 2 ^ w)

/-- The pending message of a vector whose table entry is no longer masked goes out (R450). -/
def State.msixUnmask (s : State) (a : Nat) : State :=
  let v := (a - msixTable) / 16
  if a % 16 = 12 ∧ s.host.msixPend.contains v ∧ bitAt (s.reg a) 0 = false then
    { s with host.msixPend := eraseNat v s.host.msixPend }.emit (.msix v)
  else s

/-- A C-die page access while the C-dies are power-gated: counted in the HST page (R504). -/
def State.gatedAccess (s : State) : State := s.countEvent pgHST

/-- A register write (R13, R14, R501, R504, R427, R431, R454). -/
def State.regWrite (s : State) (a v : Nat) : State :=
  if s.cGated && decide (a < 0x1000000) then s.gatedAccess
  else match regRow a with
    | none => s
    | some r =>
      if r.own || decide (r.pair ≠ 0) || s.pageShut a then s
      else if msixTable ≤ a then (s.storeReg a v r).msixUnmask a
      else if addrOff a = 0x008 ∧ bitAt v 0 then s
      else if s.ownedPage a then s.errBit (pageBase a) 4
      else if decide (a = hstCtx .train 8 ∨ a = hstCtx .eval 8 ∨ a = hstCtx .aux 8 ∨ a = hstCtx .service 8) &&
          !s.lockedBy r.owner && (List.range 4).any fun i => field v (4 * i) 4 < 4 || decide (12 < field v (4 * i) 4) then s
      else if a = pgRST + 0x44 ∧ (bitAt v 8 ∨ bitAt v 9) then
        let s := s.storeReg a v r
        match s.sys.tripLatch with
        | some (k, _) => if bitAt v (7 + min k 2) then { s with sys.tripLatch := none } else s
        | none => s
      else match chkOf a with
        | some u =>
          match s.chkShut u (addrOff a = 0x48) with
          | some s => s
          | none => if addrOff a = 0x40 then s.writeChkCfg u v else s.storeReg a v r
        | none => s.storeReg a v r

def execRegWrite (offset : Nat) (v : W32) (s : State) : Host.Outcome State Fault Refusal :=
  .next (s.access fun s => s.regWrite offset v.toNat)

/-! 64-bit pairs (R503). -/

/-- The read of a low word: the current high word goes into the latch. -/
def State.pairRead (s : State) (a : Nat) : State :=
  match regRow a with
  | some r =>
    if r.pair = 1 then
      let v := s.readReg a
      let s' := if s.ready && !(s.cGated && decide (a < 0x1000000))
        then { s with latch := s.latch.set a (BitVec.ofNat 32 (s.readReg (a + 4))) } else s
      s'.emit (.readData (bytesLE 4 v) false)
    else s
  | none => s

def execPairLowRead (offset : Nat) (s : State) : Host.Outcome State Fault Refusal :=
  .next (s.access fun s => if s.cGated && decide (offset < 0x1000000) then s.gatedAccess.pairRead offset else s.pairRead offset)

/-- What the read of a pair's high word returns: the latch of the most recent low read of the pair, else the current word. -/
def State.readHigh (s : State) (a : Nat) : Nat :=
  match s.latch.find? (·.1 = a - 4) with
  | some (_, v) => v.toNat
  | none => s.readReg a

/-- A write may reach the pair at low address `lo`: none where it is refused, with the state after. -/
def State.pairShut (s : State) (lo : Nat) : Option State :=
  match regRow lo, regRow (lo + 4) with
  | some l, some h =>
    if l.pair ≠ 1 ∨ s.pageShut lo ∨ (l.rw ||| l.rwl ||| h.rw ||| h.rwl) = 0 then some s
    else if l.rwl ≠ 0 ∧ s.lockedBy l.owner = true then some (s.errBit (pageBase lo) 1)
    else match chkOf lo with
      | some u => s.chkShut u false
      | none => none
  | _, _ => some s

/-- A low word into the page's shadow. -/
def State.pairLow (s : State) (a v : Nat) : State :=
  if s.cGated && decide (a < 0x1000000) then s.gatedAccess
  else match s.pairShut a with
    | some s => s
    | none => { s with shadow := s.shadow.set (pageBase a) (a, BitVec.ofNat 32 v) }

def execPairLowWrite (offset : Nat) (v : W32) (s : State) : Host.Outcome State Fault Refusal :=
  .next (s.access fun s => s.pairLow offset v.toNat)

/-- The width in bits that a 64-bit register of a check unit keeps: POLY, INIT and VALUE keep W (R424). -/
def State.pairBits (s : State) (lo : Nat) : Nat :=
  match chkOf lo with
  | some u => if addrOff lo = 0x50 ∨ addrOff lo = 0x58 ∨ addrOff lo = 0x60 then s.chkWidth u else 64
  | none => 64

/-- Both words of the pair stored, by their masks. -/
def State.storePair (s : State) (lo low high : Nat) : State :=
  match regRow lo, regRow (lo + 4) with
  | some l, some h =>
    let ml := l.rw + l.rwl
    let mh := h.rw + h.rwl
    let old := s.reg64 lo
    let v := ((old % 2 ^ 32 - (old % 2 ^ 32 &&& ml)) + (low &&& ml)) + 2 ^ 32 * ((old / 2 ^ 32 - (old / 2 ^ 32 &&& mh)) + (high &&& mh))
    s.setReg64 lo (v % 2 ^ s.pairBits lo)
  | _, _ => s

/-- A high word: it stores both words, the low one from the page's shadow where that pair was written last, else 0. -/
def State.pairHigh (s : State) (a v : Nat) : State :=
  if s.cGated && decide (a < 0x1000000) then s.gatedAccess
  else if a < 4 then s
  else match s.pairShut (a - 4) with
    | some s => s
    | none =>
      match s.shadow.find? (·.1 = pageBase a) with
      | some (_, lo, w) =>
        if lo = a - 4 then { s with shadow := s.shadow.drop (· = pageBase a) }.storePair (a - 4) w.toNat v |>.flushEarly
        else (s.storePair (a - 4) 0 v).flushEarly
      | none => (s.storePair (a - 4) 0 v).flushEarly

def execPairHighWrite (offset : Nat) (v : W32) (s : State) : Host.Outcome State Fault Refusal :=
  .next (s.access fun s => s.pairHigh offset v.toNat)

/-! Accesses that do not reach a register. -/

/-- An access of `size` bytes of wrong size or alignment: a read completes with all ones of its own width (R15, R436). -/
def State.badAccess (s : State) (offset size : Nat) (write : Bool) : State :=
  let s := if write then s else s.emit (.readData (List.replicate size 0xFF#8) false)
  if s.cGated && decide (offset < 0x1000000) then s.gatedAccess
  else if 0x2800000 ≤ offset ∧ offset < 0x2805000 then s.errBit pgHST 0
  else if offset < 0x2800000 ∧ (pageBlock (addrDie offset) (addrPage offset)).1 ≠ 0 then s.errBit (pageBase offset) 0
  else s

def execBar0BadAccess (offset : Nat) (write : Bool) (s : State) (size : Nat := 4) : Host.Outcome State Fault Refusal :=
  .next (s.access fun s => s.badAccess offset size write)

/-- Reads return all ones, writes are discarded, and the HST page counts the access (R504). -/
def execPowerGatedPageAccess (offset : Nat) (write : Bool) (s : State) : Host.Outcome State Fault Refusal :=
  .next (if s.busUp && s.cGated && decide (offset < 0x1000000) then
    let s := if write then s else s.emit (.readData (List.replicate 4 0xFF#8) false)
    s.gatedAccess
  else s)

/-! Header registers. -/

/-- A write of CTRL with EVT_CLR: EVENT_COUNT becomes 0, REPORT_EN is stored (R500); an owned unit's page takes no write (R431). -/
def State.evtClr (s : State) (page v : Nat) : State :=
  if s.cGated && decide (page < 0x1000000) then s.gatedAccess
  else match regRow (page + 8) with
    | some r =>
      if bitAt v 0 then
        if s.ownedPage page then s.errBit page 4 else (s.storeReg (page + 8) v r).setReg (page + 0x1C) 0
      else s
    | none => s

def execEvtClr (page : Nat) (v : W32) (s : State) : Host.Outcome State Fault Refusal :=
  .next (s.access fun s => s.evtClr page v.toNat)

/-- Injection points of a block (R405); 0x00 exists in every page. -/
def injPoints (blk : Nat) : Nat :=
  if blk = bkARY then 6
  else if blk = bkVEC ∨ blk = bkUPD ∨ blk = bkCOL ∨ blk = bkPLT then 1
  else if blk = bkTIL ∨ blk = bkRSV then 2
  else if blk = bkSTK then 4
  else 0

/-- A write of ERR_INJECT (R404): ignored with an unlisted POINT or RATE_EXP outside 4 to 20. Point 0x00, armed, sets INJ and
its report at once. -/
def State.writeInject (s : State) (page v : Nat) : State :=
  let blk := (pageBlock (addrDie page) (addrPage page)).1
  let a := page + 0x18
  if s.cGated && decide (page < 0x1000000) then s.gatedAccess
  else if s.ownedPage page then s.errBit page 4
  else if blk = 0 ∨ injPoints blk < field v 0 8 ∨ field v 10 5 < 4 ∨ 20 < field v 10 5 then s
  else
    let s := { s with sys.injSeen := s.sys.injSeen.drop (· = page) }
    let s := s.setRegField a 0 15 (v % 2 ^ 15)
    if bitAt v 8 ∧ field v 0 8 = 0 then
      let s := s.setRegField a 16 16 (s.regField a 16 16 + 1)
      let s := if bitAt v 9 then s else s.setRegField a 8 1 0
      s.errBit page 2
    else s

def execErrInject (page : Nat) (v : W32) (s : State) : Host.Outcome State Fault Refusal :=
  .next (s.access fun s => s.writeInject page v.toNat)

/-- A write of LNK_INJECT: ignored with KIND 3 or RATE_EXP outside 4 to 20 (R356). -/
def State.writeLnkInject (s : State) (port v : Nat) : State :=
  let a := pgLNK port + 0x44
  if s.pageShut a ∨ field v 1 2 = 3 ∨ field v 8 5 < 4 ∨ 20 < field v 8 5 then s
  else (s.setRegField a 0 13 (v % 2 ^ 13)).modPort port fun p => { p with injSeen := 0 }

def execLnkInject (port : Nat) (v : W32) (s : State) : Host.Outcome State Fault Refusal :=
  .next (s.access fun s => s.writeLnkInject port v.toNat)

/-- The counter block of a context in a tile's TIL page back to 0 (R280, R506). -/
def State.clearStall (s : State) (die pos : Nat) (c : Nat) : State :=
  let base := pgTIL die pos + 0x100 + 0x80 * c
  { s with regs := s.regs.drop fun a => decide (base ≤ a) && decide (a < base + 0x80),
           latch := s.latch.drop fun a => decide (base ≤ a) && decide (a < base + 0x80) }

def State.tilStallClr (s : State) (die pos v : Nat) : State :=
  if s.cGated then s.gatedAccess
  else if s.pageShut (pgTIL die pos + 0x48) then s
  else (maskBits 4 v).foldl (fun s c => s.clearStall die pos c) s

def execTilStallClr (die pos : Nat) (v : W32) (s : State) : Host.Outcome State Fault Refusal :=
  .next (s.access fun s => s.tilStallClr die pos v.toNat)

/-! The forwarding table (R341, R513). -/

def State.fwdTable (s : State) (x : Nat) : Tbl Nat := if x = 0 then s.fab.fwd0 else s.fab.fwd1
def State.setFwd (s : State) (x w v : Nat) : State :=
  if x = 0 then { s with fab.fwd0 := s.fab.fwd0.set w v } else { s with fab.fwd1 := s.fab.fwd1.set w v }
/-- WORD advances by 1 modulo 8,192. -/
def State.fwdAdvance (s : State) (x : Nat) : State :=
  s.setReg (pgCOL x + 0x50) ((s.regField (pgCOL x + 0x50) 0 13 + 1) % 8192)

/-- Entry of a destination: 0 to 11 a port, 0xE local, 0xF unreachable. -/
def State.fwdEntry (s : State) (x dest : Nat) : Nat := field ((s.fwdTable x).get full32 (dest / 8)) (4 * (dest % 8)) 4

def execColFwdDataRead (x : Nat) (s : State) : Host.Outcome State Fault Refusal :=
  .next (s.access fun s =>
    let v := s.readReg (pgCOL x + 0x54)
    if s.ready then (s.fwdAdvance x).emit (.readData (bytesLE 4 v) false)
    else s.emit (.readData (bytesLE 4 v) false))

def execColFwdDataWrite (x : Nat) (v : W32) (s : State) : Host.Outcome State Fault Refusal :=
  .next (s.access fun s =>
    if s.anyArmed then s.errBit (pgCOL x) 1
    else (s.setFwd x (s.regField (pgCOL x + 0x50) 0 13) v.toNat).fwdAdvance x)

/-! TIL_CLK (R31, R32, R480). -/

/-- The settling pause of the tiles whose setting in force differs from before (R32). -/
def State.settle (s old : State) (ks : List Nat) : State :=
  ks.foldl (fun s k => if s.tilEff k = old.tilEff k then s else s.modTile k fun t => { t with settle := true }) s

def State.writeTilClk (s : State) (die pos v : Nat) : State :=
  let a := pgTIL die pos + 0x40
  if s.cGated then s.gatedAccess
  else if s.pageShut a then s
  else if field v 0 5 < 4 ∨ 16 < field v 0 5 then s.countEvent (pgTIL die pos)
  else (s.setReg a (field v 0 5)).settle s [48 * die + pos]

def execTilClk (die pos : Nat) (v : W32) (s : State) : Host.Outcome State Fault Refusal :=
  .next (s.access fun s => s.writeTilClk die pos v.toNat)

end Sys2Proof.Machine
end

