-- ==== Sys2Proof/Machine/Checks.lean ====
section
/-! DEFINITION. The check-value units (R422 to R434) and the Reserve's granule configuration (R296 to R300). -/

namespace Sys2Proof.Machine

def State.modChk (s : State) (u : Nat) (f : ChkSt → ChkSt) : State := { s with chk := s.chk.set u (f (s.chkSt u)) }

/-- The computation that a unit now performs: the width in effect, the bits of POLY and INIT inside it (R423, R424). -/
def State.crcOf (s : State) (u : Nat) : CrcCfg :=
  let p := pgCHK u
  let w := (s.chkSt u).width
  ⟨w, s.reg64 (p + 0x50) % 2 ^ w, s.reg64 (p + 0x58) % 2 ^ w, bitAt (s.reg (p + 0x40)) 7, bitAt (s.reg (p + 0x40)) 8,
   bitAt (s.reg (p + 0x40)) 9⟩

/-- Bytes fed into reg, which is CHK_VALUE (R423, R425). -/
def State.chkFeed (s : State) (u : Nat) (bs : List Byte) : State :=
  s.setReg64 (pgCHK u + 0x60) (crcFeed (s.crcOf u) (s.reg64 (pgCHK u + 0x60)) bs)

/-- INIT: the width of CHK_CFG takes effect and reg = INIT & mask (R423, R424). -/
def State.chkInit (s : State) (u : Nat) : State :=
  let s := s.modChk u fun c => { c with width := s.chkWidth u }
  s.setReg64 (pgCHK u + 0x60) (s.crcOf u).init

/-- FINISH: the alive counter is mixed in and counts, and RESULT takes the output form of reg (R423, R428). -/
def State.chkFinish (s : State) (u : Nat) : State :=
  let p := pgCHK u
  let n := s.regField (p + 0x40) 10 2
  let count := s.regField (p + 0x4C) 0 16
  let s := s.chkFeed u (bytesLE n count)
  let s := if n = 0 then s else s.setReg (p + 0x4C) ((count + 1) % 2 ^ (8 * n))
  s.setReg64 (p + 0x68) (crcOut (s.crcOf u) (s.reg64 (p + 0x60)))

/-- The last action completes: BUSY falls, DONE sets, vector 16 + u signals (R426, R450). -/
def State.chkDone (s : State) (u : Nat) : State :=
  let s := s.modChk u fun c => { c with scan := false, finish := false }
  (s.setReg (pgCHK u + 0x48) (s.reg (pgCHK u + 0x48) ||| 2)).signal (16 + u)

/-- A range of the space that CHK_CFG.SPACE names may be scanned by unit u (R429). -/
def State.scanOk (s : State) (u sp a n : Nat) : Bool :=
  if sp = 1 then decide (a + n ≤ 0x40000000) &&
    (n == 0 || (List.range ((a + n - 1) / 0x2000000 - a / 0x2000000 + 1)).all fun i =>
      let g := a / 0x2000000 + i
      bitAt (s.rsv.acting.get 0 (g / 8)) (g % 8) && !s.rsv.excluded.contains g)
  else if sp = 2 then decide (a + n ≤ s.mapTop) &&
    (n == 0 || (List.range ((a + n - 1) / 0xC00000000 - a / 0xC00000000 + 1)).all fun i =>
      s.stkHas (max a ((a / 0xC00000000 + i) * 0xC00000000)))
  else if sp = 3 then decide (a + n ≤ 2 ^ 64)
  else if sp = 4 then decide (u = 0) && decide (a + n ≤ 0x4000000)
  else false

/-- The bytes of a scan as they are stored (R430). -/
def State.scanBytes (s : State) (sp a n : Nat) : List Byte :=
  if sp = 1 then s.rsv.mem.readN a n
  else if sp = 2 then s.stkRead a n
  else if sp = 3 then s.hostRead a n
  else s.log.flash.readN a n

/-- A poisoned unit lies in the range. -/
def State.scanPoison (s : State) (sp a n : Nat) : Bool :=
  (unitsOf a n).any fun k =>
    if sp = 1 then s.rsv.poison.contains k
    else if sp = 2 then s.stkPoisoned (k * 64)
    else if sp = 3 then s.host.poison.contains k
    else false

def State.scanSpace (s : State) (u : Nat) : Nat := s.regField (pgCHK u + 0x40) 12 3
def State.scanAddr (s : State) (u : Nat) : Nat := s.reg64 (pgCHK u + 0x70)
def State.scanLen (s : State) (u : Nat) : Nat := s.reg64 (pgCHK u + 0x78)

/-- CHK_SCAN_RANGE (R434). -/
def State.scanRefused (s : State) (u : Nat) : State :=
  let a := s.scanAddr u
  let r : FRec := { code := 0x0510, die := 8 + u / 8, c0 := u, c1 := a % 2 ^ 32, c2 := a / 2 ^ 32, c3 := s.scanLen u % 2 ^ 32,
                    c4 := s.scanSpace u }
  (s.setReg (pgCHK u + 0x48) (s.reg (pgCHK u + 0x48) ||| 8)).event (pgCHK u) r

/-- A write of CHK_CMD: the actions of its bits in the order INIT, SCAN, FINISH (R426, R429). -/
def State.chkCmd (s : State) (u v : Nat) : State :=
  match s.chkShut u false with
  | some s => s
  | none =>
    let s := if bitAt v 0 then s.chkInit u else s
    let fin (s : State) : State := (if bitAt v 2 then s.chkFinish u else s).chkDone u
    if bitAt v 1 then
      if s.scanOk u (s.scanSpace u) (s.scanAddr u) (s.scanLen u) then
        s.modChk u fun c => { c with scan := true, finish := bitAt v 2 }
      else fin (s.scanRefused u)
    else fin s

/-- A write of CHK_CMD that carries bit b. -/
def State.chkWrite (s : State) (u v b : Nat) : State := if bitAt v b then s.access fun s => s.chkCmd u v else s

def execInit (u : Nat) (v : W32) (s : State) : Host.Outcome State Fault Refusal := .next (s.chkWrite u v.toNat 0)

def execScan (u : Nat) (v : W32) (s : State) : Host.Outcome State Fault Refusal := .next (s.chkWrite u v.toNat 1)

def execFinish (u : Nat) (v : W32) (s : State) : Host.Outcome State Fault Refusal := .next (s.chkWrite u v.toNat 2)

/-- The bytes of the range are fed, FINISH runs if it was requested, DONE sets (R429, R430). -/
def State.scanEnd (s : State) (u : Nat) : State :=
  let sp := s.scanSpace u
  let a := s.scanAddr u
  let n := s.scanLen u
  let fin := (s.chkSt u).finish
  let s := if s.scanPoison sp a n then s.setReg (pgCHK u + 0x48) (s.reg (pgCHK u + 0x48) ||| 4) else s
  let s := s.chkFeed u (s.scanBytes sp a n)
  let s := if sp = 2 then s.cacheRange a n false else s
  (if fin then s.chkFinish u else s).chkDone u

def execScanComplete (u : Nat) (s : State) : Host.Outcome State Fault Refusal :=
  .next (if (s.chkSt u).scan && (s.host.linkUp || decide (s.scanSpace u ≠ 3)) then s.scanEnd u else s)

/-- A write of a feed register (R426, R427, R431). -/
def State.chkData (s : State) (u : Nat) (bs : List Byte) : State :=
  s.access fun s => match s.chkShut u false with
    | some s => s
    | none => s.chkFeed u bs

def execChkData32 (u : Nat) (v : W32) (s : State) : Host.Outcome State Fault Refusal :=
  .next (s.chkData u (bytesLE 4 v.toNat))

def execChkData8 (u : Nat) (v : W32) (s : State) : Host.Outcome State Fault Refusal :=
  .next (s.chkData u (bytesLE 1 v.toNat))

/-! Reserve granules. -/

/-- A write of RSV_GRANULE_CFG: the new SCRATCH waits for the cache's write-back (R297, R300). -/
def State.writeGranules (s : State) (m v : Nat) : State :=
  if s.anyArmed then s.errBit (pgRSV m) 1
  else
    let s := s.setReg (pgRSV m + 0x40) (v % 256)
    if v % 256 = s.rsv.acting.get 0 m then { s with rsv.flush := s.rsv.flush.drop (· = m) }
    else { s with rsv.flush := s.rsv.flush.set m 1 }

def execRsvGranuleCfg (m : Nat) (v : W32) (s : State) : Host.Outcome State Fault Refusal :=
  .next (s.access fun s => s.writeGranules m v.toNat)

/-- The cache of an M-die invalidates itself after its write-back (R300). -/
def State.cacheClear (s : State) (m : Nat) : State :=
  { s with rsv.cache := s.rsv.cache.drop fun k => decide (k / 8192 = m) }

/-- The new configuration takes effect: a granule that changes role reads as zero with its poison clear (R300). -/
def State.applyGranules (s : State) (m : Nat) : State :=
  let old := s.rsv.acting.get 0 m
  let new := s.regField (pgRSV m + 0x40) 0 8
  let changed := (List.range 8).filter fun j => bitAt old j != bitAt new j
  let s := s.cacheClear m
  let s := { s with rsv.flush := s.rsv.flush.drop (· = m), rsv.acting := s.rsv.acting.set m new }
  changed.foldl (fun s j =>
    let lo := (8 * m + j) * 0x2000000
    { s with rsv.mem := s.rsv.mem.clear lo (lo + 0x2000000),
             rsv.poison := s.rsv.poison.filter fun u => !(decide (lo / 64 ≤ u) && decide (u < (lo + 0x2000000) / 64)) }) s

def execGranuleCfgApply (m : Nat) (s : State) : Host.Outcome State Fault Refusal :=
  .next (if s.rsv.flush.any (·.1 = m) then s.applyGranules m else s)

end Sys2Proof.Machine
end

