-- ==== Sys2Proof/Machine/Logbook.lean ====
section
/-! DEFINITION. Writes of the Logbook (R463, R494 to R497) and the repair map (R324, R496). -/

namespace Sys2Proof.Machine

/-- A record to be written, in arrival order (R496). -/
def State.logQueue (s : State) (type : Nat) (payload : List Byte) : State :=
  { s with log.queue := s.log.queue ++ [(type, payload)] }

/-- LOGBOOK_WRITE: the security island takes a record; in A3 and under MRST# it is in reset (R488, R520). -/
def execLogbookWrite (type : Nat) (payload : List Byte) (s : State) : Host.Outcome State Fault Refusal :=
  .next (if (logSlots type).isSome && decide (s.sys.pstate < 3) && !s.sys.mrstLow then s.logQueue type payload else s)

/-- The slot that a write goes to: its number, base and size; of a pair, the one that does not win (R495). -/
def State.logTarget (s : State) (type : Nat) : Nat × Nat × Nat := match logSlots type with
  | none => (0, 0, 0)
  | some (base, size, n) =>
    if n = 1 then (if type = 0x11 then 1 else 0, base, size)
    else match s.logWin type with
      | some (_, b) => if b = base then (1, base + size, size) else (0, base, size)
      | none => (0, base, size)

/-- The bytes of a record with sequence number `seq` (R495). -/
def logBytes (type seq : Nat) (payload : List Byte) : List Byte :=
  let b := bytesLE 2 type ++ bytesLE 2 1 ++ bytesLE 4 payload.length ++ bytesLE 8 seq ++ payload
  b ++ bytesLE 4 (crc32c b)

/-- LOG_WRITE_FAIL (R495, R497). -/
def State.logFail (s : State) (type slot : Nat) : State :=
  s.event pgLOG { code := 0x0311, die := 8, c0 := type, c1 := slot }

/-- The write at the front ends: on a good read-back the slot holds the record; a bad one is written again, up to twice, and
the third failure leaves the winner in force (R495). An erased byte reads as an unlisted one (assumption entry 5). -/
def State.logEnd (s : State) (readback : Bool) : State :=
  match s.log.queue with
  | [] => s
  | (type, payload) :: rest =>
    let (slot, base, size) := s.logTarget type
    let seq := match s.logWin type with
      | some (n, _) => n + 1
      | none => 1
    let erased := s.log.flash.clear base (base + size)
    if size < payload.length + 0x14 then
      { s with log.queue := rest, log.tries := 0 }.logFail type slot
    else if readback then
      { s with log.flash := erased.writeN base (logBytes type seq payload), log.queue := rest, log.tries := 0 }
    else if s.log.tries < 2 then { s with log.flash := erased, log.tries := s.log.tries + 1 }
    else { s with log.flash := erased, log.queue := rest, log.tries := 0 }.logFail type slot

def execLogbookWriteComplete (readback : Bool) (s : State) : Host.Outcome State Fault Refusal := .next (s.logEnd readback)

/-! The repair map (R324). Entries of self-test repairs (R412) use ACTION 0x41, 0x42 and 0x43 (assumption entry 27). -/

def RepairEnt.bytes (e : RepairEnt) : List Byte :=
  bytesLE 1 e.action ++ bytesLE 1 e.stack ++ bytesLE 1 e.channel ++ bytesLE 1 e.bank ++ bytesLE 4 e.row ++ bytesLE 2 e.pool ++
    bytesLE 6 0

def RepairEnt.parse (bs : List Byte) : RepairEnt :=
  let f (o n : Nat) := ofBytesLE ((bs.drop o).take n)
  ⟨f 0 1, f 1 1, f 2 1, f 3 1, f 4 4, f 8 2⟩

/-- Entries that a REPAIR_MAP record may hold (R496). -/
def repairMax : Nat := 32764

/-- The entry is a row repair of the channel that `f` names. -/
def rowRepairOf (f e : RepairEnt) : Bool := (e.action = 1 || e.action = 2) && f.stack = e.stack && f.channel = e.channel

/-- The map without the repairs that have lapsed: those of a channel's rows recorded before the channel was spared (R315). -/
def liveRepairs : List RepairEnt → List RepairEnt
  | [] => []
  | e :: t => if t.any fun f => f.action = 4 && rowRepairOf f e then liveRepairs t else e :: liveRepairs t

/-- The map goes to the Logbook. -/
def State.repairWrite (s : State) : State := s.logQueue 6 (s.stk.repair.flatMap RepairEnt.bytes)

/-- An entry joins the map; a full map first drops lapsed entries, and without room the action is not recorded:
LOG_MAP_FULL (R496). -/
def State.repairAdd (s : State) (e : RepairEnt) : State :=
  let l := s.stk.repair
  let l := if repairMax ≤ l.length then liveRepairs l else l
  if repairMax ≤ l.length then
    s.event pgLOG { code := 0x0310, die := 8, c0 := l.length, c1 := e.action }
  else { s with stk.repair := l ++ [e] }.repairWrite

end Sys2Proof.Machine
end

