-- ==== Sys2Proof/Machine/Stacks.lean ====
section
/-! DEFINITION. Stack maintenance: refresh and quiet windows (R310, R311), temperature (R312, R313), retraining, sparing and
fencing (R314 to R317), row repair, retirement and remap (R318 to R321), holds (R322), scrub (R307 to R309), initialization
(R306, R317, R323). A channel is named by 16 * stack + logical channel. -/

namespace Sys2Proof.Machine

/-- Memory initialization has built the map and the stack is in it (R306). -/
def State.stackUp (s : State) (st : Nat) : Bool := bitAt (s.reg stkMapCfg) 31 && s.mapStacks.contains st

/-- The block of the physical channel that serves a channel, in its STK page (R510). -/
def State.chBlock (s : State) (ch : Nat) : Nat := pgSTK (ch / 16) + 0x100 + 0x10 * (s.chan ch).inst

/-- The physical channel that serves row `row` of a channel: the spare for the rows that a sweep has copied (R315). -/
def State.rowInst (s : State) (ch row : Nat) : Nat :=
  match (s.stackSt (ch / 16)).sweep with
  | some (l, next) => if l = ch % 16 ∧ row < next then 16 else (s.chan ch).inst
  | none => (s.chan ch).inst

/-- The block of the physical channel that serves a row, in its STK page. -/
def State.rowBlock (s : State) (ch row : Nat) : Nat := pgSTK (ch / 16) + 0x100 + 0x10 * s.rowInst ch row

/-- Key of a bank group of a physical channel. -/
def grpKey (st inst g : Nat) : Nat := 4 * (17 * st + inst) + g

/-- Key of a row of a channel. -/
def rowKey (ch lrow : Nat) : Nat := ch * 2 ^ 21 + lrow

/-- COORD2 of R325. -/
def memCoord (ch bank : Nat) : Nat := ch / 16 * 2 ^ 24 + ch % 16 * 2 ^ 16 + bank

/-! Holds. -/

/-- A refresh starts: it holds the channel and lowers the postponement (R310). -/
def State.refreshStart (s : State) (ch : Nat) : State :=
  (s.modChan ch fun c => { c with hold := some .refresh, post := c.post - 1 }).countEvent (pgSTK (ch / 16))

/-- A retraining starts (R314). -/
def State.retrainStart (s : State) (ch : Nat) : State :=
  (s.modChan ch fun c => { c with hold := some .retrain }).countEvent (pgSTK (ch / 16))

/-- A due hold of a free channel starts, retraining first (R322). -/
def State.holdNext (s : State) (ch : Nat) : State :=
  let c := s.chan ch
  if c.hold.isSome then s
  else if c.due.contains .retrain then (s.modChan ch fun c => { c with due := c.due.filter (· != .retrain) }).retrainStart ch
  else if c.due.contains .refresh then (s.modChan ch fun c => { c with due := c.due.filter (· != .refresh) }).refreshStart ch
  else s

/-- A hold falls due. -/
def State.holdDue (s : State) (ch : Nat) (h : Hold) : State :=
  (s.modChan ch fun c => { c with due := if c.due.contains h then c.due else c.due ++ [h] }).holdNext ch

/-- REFRESH_INTERVAL: the postponement rises; at 8 a refresh is due (R310). -/
def execRefreshInterval (ch : Nat) (s : State) : Host.Outcome State Fault Refusal :=
  .next (if s.stackUp (ch / 16) then
    let s := s.modChan ch fun c => { c with post := c.post + 1 }
    if 8 ≤ (s.chan ch).post then s.holdDue ch .refresh else s
  else s)

/-- A channel that a quiet window may refresh: not 8 intervals ahead and free (R311). -/
def State.mayPull (s : State) (ch : Nat) : Bool := decide (-8 < (s.chan ch).post) && (s.chan ch).hold.isNone

/-- REFRESH_ISSUE: in a quiet window, at most 4 channels of the stack at a time, in ascending order (R311). -/
def execRefreshIssue (ch : Nat) (s : State) : Host.Outcome State Fault Refusal :=
  .next (
    let st := ch / 16
    let busy := (List.range 16).filter fun l => (s.chan (16 * st + l)).hold = some .refresh
    if s.stackUp st && decide (0 < (s.stackSt st).windows) && s.mayPull ch && decide (busy.length < 4) &&
        (List.range (ch % 16)).all fun l => !s.mayPull (16 * st + l)
    then s.refreshStart ch else s)

/-- CHANNEL_HOLD_END: the next due hold starts (R322). -/
def execChannelHoldEnd (ch : Nat) (s : State) : Host.Outcome State Fault Refusal :=
  .next (if (s.chan ch).hold.isSome then (s.modChan ch fun c => { c with hold := none }).holdNext ch else s)

/-! Rows. -/

/-- Sector addresses of a channel's row `lrow` (row * 16 + bank group * 4 + bank): 8 granules of 4 sectors (R305). -/
def State.rowSectors (s : State) (ch lrow : Nat) : List Nat :=
  (List.range 8).flatMap fun i => (List.range 4).map fun j => s.stkEncode ch (8 * lrow + i) + 64 * j

/-- The regions that hold bytes of a row (R320). -/
def State.rowRegions (s : State) (ch lrow : Nat) : List Nat :=
  ((List.range 8).map fun i => s.stkEncode ch (8 * lrow + i) / 4096).eraseDups

/-- BANK of R324 of a row: bank in [1:0], bank group in [3:2]. -/
def bankOf (lrow : Nat) : Nat := lrow % 16

/-- A sector is poisoned by a read: its poison bit, the count, MEM_UNCORRECTABLE (R308, R325, R510); on a retired row it stays
poisoned (R320). `addr` is where the sector lies, behind the remap (R321). -/
def State.sectorLost (s : State) (addr : Nat) : State :=
  let (ch, l) := s.stkDecode addr
  let u := addr / 64
  let s := { s with stk.poison := insertNat u s.stk.poison, stk.ue := insertNat u s.stk.ue,
                    stk.dead := if s.stk.rows.contains (rowKey ch (l / 8)) then insertNat u s.stk.dead else s.stk.dead }
  let s := s.incReg (s.rowBlock ch (l / 128) + 8)
  s.event (pgSTK (ch / 16)) { code := 0x0301, die := 4 + ch / 32, c0 := addr % 2 ^ 32, c1 := addr / 2 ^ 32,
                               c2 := memCoord ch (bankOf (l / 8)), c3 := l / 128, c4 := 1 }

/-! Failing channels. -/

/-- Sectors of a channel (R301, R305). -/
def chanSectors : Nat := 98304 * 16 * 32

/-- A channel that is lost for good: STACK_DEGRADED, with every sector of the channel affected (R316, R325). -/
def State.fence (s : State) (ch : Nat) : State :=
  if (s.chan ch).fenced then s
  else
    let s := s.modChan ch fun c => { c with fenced := true, due := [] }
    let s := s.event (pgSTK (ch / 16)) { code := 0x0305, die := 4 + ch / 32, c2 := memCoord ch 0, c3 := 0xFFFFFFFF, c4 := chanSectors }
    s.repairAdd ⟨5, ch / 16, ch % 16, 0, 0xFFFFFFFF, 0xFFFF⟩

/-- A channel fails: its sweep onto the spare starts, or it is fenced when the spare is in use or being filled (R315, R316). -/
def State.channelFail (s : State) (ch : Nat) : State :=
  let st := s.stackSt (ch / 16)
  let s := s.modChan ch fun c => { c with failing := [] }
  match st.sweep with
  | some (c, _) => if c = ch % 16 then s else s.fence ch
  | none => if st.spareUsed then s.fence ch else s.modStack (ch / 16) fun t => { t with sweep := some (ch % 16, 0), sweepLost := 0 }

/-- PREDICTIVE_POLICY_SPARING (R315). -/
def execPredictivePolicySparing (ch : Nat) (s : State) : Host.Outcome State Fault Refusal :=
  .next (if s.stackUp (ch / 16) && !(s.chan ch).fenced then s.channelFail ch else s)

/-- The stack's last readout. -/
def State.stackTemp (s : State) (st : Nat) : Nat := s.regField (pgSTK st + 0x44) 0 8

/-- CHANNEL_RETRAIN: 16 interface errors, or 10 degrees since the last training; `ok` says whether the attempt trained the
channel (R314, R315, R405). -/
def execChannelRetrain (ch : Nat) (interfaceErrors ok : Bool) (s : State) : Host.Outcome State Fault Refusal :=
  .next (
    let st := ch / 16
    let t := s.stackTemp st
    let c := s.chan ch
    if s.stackUp st && !c.fenced && (interfaceErrors || decide (c.trainTemp + 10 ≤ t) || decide (t + 10 ≤ c.trainTemp)) then
      let (s, hit) := s.injectFires (pgSTK st) 4
      let s := s.incReg (s.chBlock ch + 0xC)
      let s := s.holdDue ch .retrain
      if ok && !hit then s.modChan ch fun c => { c with fails := 0, trainTemp := t }
      else
        let s := s.modChan ch fun c => { c with fails := c.fails + 1 }
        if 3 ≤ (s.chan ch).fails then s.channelFail ch else s
    else s)

/-- One row number of the sweep: unreadable sectors, or all of a channel that no longer trains, go to the spare poisoned
(R315). -/
def State.sweepRow (s : State) (ch row : Nat) (unreadable : List Nat) : State :=
  let sectors := (List.range 16).flatMap fun b => s.rowSectors ch (16 * row + b)
  let bad := if 3 ≤ (s.chan ch).fails then sectors else sectors.filter fun a => unreadable.contains a
  let s := s.modStack (ch / 16) fun t => { t with sweepLost := t.sweepLost + bad.length }
  bad.foldl (fun s a => if s.stk.poison.contains (a / 64) then s else s.sectorLost a) s

/-- ACTION 4 joins the map: repairs of the old channel's rows lapse, those made on the spare while the sweep ran stand behind it (R315). -/
def State.recordSpared (s : State) (ch : Nat) : State :=
  let e4 : RepairEnt := ⟨4, ch / 16, ch % 16, 0, 0xFFFFFFFF, 0xFFFF⟩
  let mine (e : RepairEnt) : Bool := rowRepairOf e4 e &&
    (s.stk.groups.find? (·.1 = grpKey (ch / 16) 16 (e.bank / 4))).any fun g => g.2.row = e.row ∧ g.2.bank = e.bank % 4
  let kept := s.stk.repair.filter mine
  let s := { s with stk.repair := s.stk.repair.filter fun e => !mine e }.repairAdd e4
  if kept = [] then s else { s with stk.repair := s.stk.repair ++ kept }.repairWrite

/-- The sweep has copied its last row: the spare serves the channel (R315). -/
def State.sweepEnd (s : State) (ch : Nat) : State :=
  let st := ch / 16
  let old := (s.chan ch).inst
  let lost := (s.stackSt st).sweepLost
  let s := s.modChan ch fun c => { c with inst := 16, fails := 0, failing := [] }
  let s := s.modChan (16 * st + old) fun c => { c with outOfService := true }
  let s := s.modStack st fun t => { t with sweep := none, spareUsed := true }
  let s := s.setReg stkMapCfg (s.reg stkMapCfg ||| 2 ^ (16 + st))
  let s := s.event (pgSTK st) { code := 0x0304, die := 4 + st / 2, c2 := memCoord ch 0, c3 := 0xFFFFFFFF, c4 := lost }
  s.recordSpared ch

/-- Rows of a bank (R301). -/
def bankRows : Nat := 98304

/-- Repairs of a channel in progress. -/
def State.pprOf (s : State) (ch : Nat) : List Ppr := s.stk.ppr.get [] ch

/-- SPARE_SWEEP_STEP: `unreadable` are the sectors of the row that the old channel does not return; a due step of a row repair goes first
(R315, R322). -/
def execSpareSweepStep (stack : Nat) (unreadable : List Nat) (s : State) : Host.Outcome State Fault Refusal :=
  .next (match (s.stackSt stack).sweep with
  | none => s
  | some (l, row) =>
    let ch := 16 * stack + l
    if s.stk.st.any (·.2.halt) ∨ (s.chan ch).hold.isSome = true ∨ s.pprOf ch ≠ [] then s
    else
      let s := (s.sweepRow ch row unreadable).modChan ch fun c => { c with hold := some .sweep }
      if row + 1 = bankRows then s.sweepEnd ch
      else s.modStack stack fun t => { t with sweep := some (l, row + 1) })

/-! Failing rows. -/

/-- The row is retired (R320). -/
def State.retireRow (s : State) (ch lrow addr : Nat) : State :=
  let units := (s.rowSectors ch lrow).map (· / 64)
  let lost := units.filter fun u => s.stk.ue.contains u && s.stk.poison.contains u
  let s := { s with stk.dead := lost.foldl (fun l u => insertNat u l) s.stk.dead, stk.rows := insertNat (rowKey ch lrow) s.stk.rows,
                    stk.retired := (s.rowRegions ch lrow).foldl (fun l r => insertNat r l) s.stk.retired }
  let s := s.event (pgSTK (ch / 16)) { code := 0x0303, die := 4 + ch / 32, c0 := addr % 2 ^ 32, c1 := addr / 2 ^ 32,
                                        c2 := memCoord ch (bankOf lrow), c3 := lrow / 16, c4 := lost.length }
  s.repairAdd ⟨3, ch / 16, ch % 16, bankOf lrow, lrow / 16, 0xFFFF⟩

/-- A row becomes failing (R318 to R320, R322, R315): repair, retirement, or nothing on a row that a sweep has yet to copy. -/
def State.rowFail (s : State) (ch lrow addr : Nat) : State :=
  let st := ch / 16
  let uncopied := match (s.stackSt st).sweep with
    | some (c, row) => decide (c = ch % 16) && decide (row ≤ lrow / 16)
    | none => false
  if uncopied || (s.chan ch).fenced || s.stk.rows.contains (rowKey ch lrow) then s
  else
    let g := lrow % 16 / 4
    let b := lrow % 4
    let row := lrow / 16
    let inst := s.rowInst ch row
    let s := s.tick
    let s := s.modChan ch fun c => { c with failing := insertNat lrow c.failing }
    let s := if 8 ≤ (s.chan ch).failing.length && Config.within 0 s.free then s.channelFail ch else s
    if (s.pprOf ch).any fun p => p.group = g && p.row = row && p.bank = b then s
    else
      let start := { s with stk.ppr := s.stk.ppr.set ch (s.pprOf ch ++ [⟨ch, inst, g, b, row, 1, []⟩]) }
      match s.stk.groups.find? (·.1 = grpKey st inst g) with
      | none => if (s.pprOf ch).any (·.group = g) then s.retireRow ch lrow addr else start
      | some (_, r) => if r.row = row ∧ r.bank = b ∧ r.done = 1 then start else s.retireRow ch lrow addr

/-- The repair of a row ends: MEM_ROW_REPAIRED (R319, R320). -/
def State.pprEnd (s : State) (p : Ppr) : State :=
  let key := grpKey (p.ch / 16) p.inst p.group
  let done := match s.stk.groups.find? (·.1 = key) with
    | some (_, r) => r.done + 1
    | none => 1
  let lrow := 16 * p.row + 4 * p.group + p.bank
  let addr := s.stkEncode p.ch (8 * lrow)
  let s := { s with stk.groups := s.stk.groups.set key ⟨p.row, p.bank, done⟩,
                    stk.ppr := s.stk.ppr.set p.ch ((s.pprOf p.ch).filter fun q => q.group != p.group),
                    stk.rowCE := s.stk.rowCE.drop (· = rowKey p.ch lrow) }
  let s := s.event (pgSTK (p.ch / 16)) { code := 0x0302, die := 4 + p.ch / 32, c0 := addr % 2 ^ 32, c1 := addr / 2 ^ 32,
                                          c2 := memCoord p.ch (bankOf lrow), c3 := p.row, c4 := p.bad.length }
  s.repairAdd ⟨done, p.ch / 16, p.ch % 16, bankOf lrow, p.row, 0xFFFF⟩

/-- PPR_STEP: the next of the four phases; `unreadable` are the sector addresses that the first phase cannot correct (R319). -/
def execPprStep (ch group : Nat) (unreadable : List Nat) (s : State) : Host.Outcome State Fault Refusal :=
  .next (match (s.pprOf ch).find? (·.group = group) with
  | none => s
  | some p =>
    if s.stk.st.any (·.2.halt) ∨ (s.chan ch).hold.isSome = true then s
    else
      let lrow := 16 * p.row + 4 * group + p.bank
      let put (s : State) (q : Ppr) : State :=
        { s with stk.ppr := s.stk.ppr.set ch ((s.pprOf ch).map fun r => if r.group = group then q else r) }
      let s := s.modChan ch fun c => { c with hold := some .ppr }
      if p.phase = 1 then put s { p with phase := 2, bad := (s.rowSectors ch lrow).filter fun a => unreadable.contains a }
      else if p.phase = 2 then put s { p with phase := 3 }
      else if p.phase = 3 then
        put (p.bad.foldl (fun s a => if s.stk.poison.contains (a / 64) then s else s.sectorLost a) s) { p with phase := 4 }
      else s.pprEnd p)

/-- How the code of a sector's read ended (R307 to R309, R318): `addr` is where the sector lies, behind the remap (R321). -/
def State.sectorEnd (s : State) (addr : Nat) (e : ReadEnd) : State :=
  let (ch, l) := s.stkDecode addr
  if (s.chan ch).fenced then s
  else match e with
    | .clean => s
    | .corrected =>
      let s := (s.incReg (s.rowBlock ch (l / 128) + 4)).countEvent (pgSTK (ch / 16))
      let key := rowKey ch (l / 8)
      let seen := s.stk.rowCE.get [] key
      let s := { s with stk.rowCE := s.stk.rowCE.set key (insertNat (addr / 64) seen) }.tick
      if (eraseNat (addr / 64) seen ≠ []) && Config.within 1 s.free then s.rowFail ch (l / 8) addr else s
    | .uncorrectable => (s.sectorLost addr).rowFail ch (l / 8) addr

/-- A sector is read: the injections of R405, then its code. -/
def State.sectorRead (s : State) (addr : Nat) (e : ReadEnd) : State :=
  let (ch, l) := s.stkDecode addr
  let st := ch / 16
  let (s, one) := s.injectFires (pgSTK st) 1
  let (s, two) := s.injectFires (pgSTK st) 2
  let (s, row) := s.injectFires (pgSTK st) 3
  let s := s.sectorEnd addr (if two then .uncorrectable else if one && e = .clean then .corrected else e)
  if row && !(s.chan ch).fenced then s.rowFail ch (l / 8) addr else s

/-! Reads of a line, an engine, a drain or the host. -/

/-- The injections of a page of SEC-DED words at reads of 64-byte units of a space (R295, R405). -/
def State.secdedRead (s : State) (page : Nat) (p : Space) (us : List Nat) : State :=
  let (s, ones) := s.injectAt page 1 us.length
  let s := ones.foldl (fun (s : State) _ => s.countEvent page) s
  let (s, twos) := s.injectAt page 2 us.length
  s.spMark p (twos.filterMap fun e => us[e.1]?)

/-- 64-byte units of a space are read: the injections of each read (R405), stack sectors through the cache (R299), behind the remap
(R321). -/
def State.readUnits (s : State) (p : Space) (us : List Nat) : State :=
  if us = [] then s
  else match p.sp with
  | 0 => s.secdedRead (pgTIL (p.tile / 48) (p.tile % 48)) p us
  | 1 => (List.range 4).foldl (fun s m => s.secdedRead (pgRSV m) p (us.filter fun u => u * 64 / 2 ^ 28 % 4 = m)) s
  | 2 => (sortNat (us.map (· / 4))).foldl (fun s b => s.cacheTouch (s.stkPhys (256 * b)) false)
      (us.foldl (fun s u => s.sectorRead (s.stkPhys (64 * u)) .clean) s)
  | _ => s

/-- A range of bytes of a space is read. -/
def State.readRange (s : State) (p : Space) (a n : Nat) : State := s.readUnits p (unitsOf a n)

/-- SCRUB_READ of a sector (R309); STK_SCRUB_ROW follows the scrub (R510). -/
def execScrubRead (addr : Nat) (e : ReadEnd) (s : State) : Host.Outcome State Fault Refusal :=
  .next (if s.stkHas addr && s.stackUp ((s.stkDecode addr).1 / 16) then
    let (ch, l) := s.stkDecode addr
    (s.setReg (pgSTK (ch / 16) + 0x4C) (l / 128)).sectorRead (addr / 64 * 64) e
  else s)

/-! Remap at program load (R321). -/

/-- One retired region gets the next free pool region and its bytes; poisoned sectors and those of a fenced channel arrive poisoned (R316,
R321). -/
def State.remapOne (s : State) (r : Nat) : State :=
  if s.stk.remap.any (·.1 = r) then s
  else if 16384 ≤ s.stk.poolNext then
    let a := r * 4096
    s.event (pgSTK ((s.stkDecode a).1 / 16)) { code := 0x0306, die := 4 + (s.stkDecode a).1 / 32, c0 := a % 2 ^ 32,
                                                c1 := a / 2 ^ 32, c2 := memCoord (s.stkDecode a).1 (bankOf ((s.stkDecode a).2 / 8)),
                                                c3 := (s.stkDecode a).2 / 128, c4 := 64 }
  else
    let i := s.stk.poolNext
    let to' := s.poolAddr i
    let bs := s.stk.mem.readN (r * 4096) 4096
    let bad := (List.range 64).filter fun k => s.stk.poison.contains (r * 64 + k) || s.stkFenced (r * 4096 + 64 * k)
    { s with stk.mem := s.stk.mem.writeN to' bs, stk.poolNext := i + 1, stk.remap := s.stk.remap.set r i,
             stk.poison := bad.foldl (fun l k => insertNat (to' / 64 + k) l)
               (s.stk.poison.filter fun u => !(decide (to' / 64 ≤ u) && decide (u < to' / 64 + 64))) }

/-- The regions of a retired row not yet remapped get pool regions one after another; the first goes into the row's entry (R324). -/
def State.remapRow (s : State) (e : RepairEnt) : State × RepairEnt :=
  let rs := (s.rowRegions (16 * e.stack + e.channel) (16 * e.row + e.bank)).filter fun r => !s.stk.remap.any (·.1 = r)
  if e.action ≠ 3 ∨ e.pool ≠ 0xFFFF ∨ rs = [] then (s, e)
  else (rs.foldl State.remapOne s, if s.stk.poolNext < 16384 then { e with pool := s.stk.poolNext } else e)

/-- Every row of the map in its order. -/
def State.remapRows (s : State) : List RepairEnt → State × List RepairEnt
  | [] => (s, [])
  | e :: t =>
    let (s, e) := s.remapRow e
    let (s, t) := State.remapRows s t
    (s, e :: t)

/-- Every retired region not yet remapped, row by row in the order of the map; then those of rows that a full map does not hold. -/
def State.remapRetired (s : State) : State :=
  if s.stk.retired.all fun r => s.stk.remap.any (·.1 = r) then s
  else
    let (s, l) := s.remapRows s.stk.repair
    { s.stk.retired.foldl (fun (s : State) r => if l.any fun e => e.action = 3 && (s.rowRegions (16 * e.stack + e.channel) (16 * e.row + e.bank)).contains r
        then s else s.remapOne r) s with stk.repair := l }.repairWrite

/-! Temperature (R312). -/

/-- Readout in STK_TEMP, with the states and the count of readouts (R313). -/
def State.putTemp (s : State) (st temp : Nat) : State :=
  let a := pgSTK st + 0x44
  let x := s.stackSt st
  s.setReg a (temp % 256 + 256 * b2n x.warn + 512 * b2n x.throttle + 1024 * b2n x.halt +
    65536 * ((s.regField a 16 16 + 1) % 65536))

/-- A threshold record (R312, R325). -/
def State.tempRec (s : State) (st temp code : Nat) : State :=
  s.event (pgSTK st) { code := code, die := 4 + st / 2, c2 := st * 2 ^ 24, c4 := temp }

/-- STACK_READOUT (R312). Recovery runs that a first halt meets run on (R401). -/
def State.stackRead (s : State) (st temp : Nat) : State :=
  let x := s.stackSt st
  let warn := if 85 ≤ temp then true else if temp < 83 then false else x.warn
  let thr := if 90 ≤ temp then true else if temp < 88 then false else x.throttle
  let halt := if 95 ≤ temp then true else if temp < 92 then false else x.halt
  let s := if halt && !s.stk.st.any (·.2.halt) then
      { s with dies := s.dies.map fun (e : Nat × DieSt) => (e.1, { e.2 with runOn := decide (e.2.collQ ≠ []) }) } else s
  let s := s.modStack st fun t => { t with warn := warn, throttle := thr, halt := halt }
  let s := s.putTemp st temp
  let s := if warn && !x.warn then s.tempRec st temp 0x0620 else s
  let s := if thr && !x.throttle then s.tempRec st temp 0x0621 else s
  if halt && !x.halt then s.tempRec st temp 0x0622 else s

def execStackReadout (stack temp : Nat) (s : State) : Host.Outcome State Fault Refusal :=
  .next (if bitAt (s.reg stkMapCfg) 31 then s.stackRead stack temp else s)

/-! Memory initialization (R306, R317, R323, R493 step 6). -/

/-- Channels that a map entry or a sparing begun before the reset leaves on the spare (R315, R323). -/
def State.sparedChannels (s : State) : List Nat :=
  let m := (s.stk.repair.filter fun e => e.action = 4).map fun e => 16 * e.stack + e.channel
  m ++ (s.stk.st.filterMap fun e => e.2.sweep.map fun w => 16 * e.1 + w.1)

/-- Stacks that hold a permanently fenced channel (R317). -/
def State.fencedStacks (s : State) : List Nat := (s.stk.repair.filter fun e => e.action = 5).map (·.stack)

/-- The repaired rows of the map, by the physical channel that holds them: the spare for entries behind their channel's ACTION 4 (R315, R319,
R323). -/
def State.groupsOf (s : State) : Tbl GroupRep :=
  let live := liveRepairs s.stk.repair
  (live.filter fun e => e.action = 1 || e.action = 2).foldl
    (fun t e => t.set (grpKey e.stack (if live.any fun f => f.action = 4 && rowRepairOf f e then 16 else e.channel) (e.bank / 4))
      ⟨e.row, e.bank % 4, e.action⟩) []

/-- The retired rows of the map and their regions, and the pool regions that remapping gave them, in its order (R321, R324). -/
def State.mapRetired (s : State) : State :=
  (s.stk.repair.filter fun e => e.action = 3).foldl (fun s e =>
    let rs := s.rowRegions (16 * e.stack + e.channel) (16 * e.row + e.bank)
    let s := { s with stk.retired := rs.foldl (fun l r => insertNat r l) s.stk.retired,
                      stk.rows := insertNat (rowKey (16 * e.stack + e.channel) (16 * e.row + e.bank)) s.stk.rows }
    if e.pool = 0xFFFF then s
    else
      let new := (rs.filter fun r => !s.stk.remap.any (·.1 = r)).take (16384 - e.pool)
      { s with stk.remap := (new.zip (List.range new.length)).foldl (fun t x => t.set x.1 (e.pool + x.2)) s.stk.remap,
               stk.poolNext := max s.stk.poolNext (e.pool + new.length) }) s

/-- The map is built from mode and stack mask; contents are zero and unpoisoned; the repair map acts; a sparing begun before the reset is
entered in it (R306, R317, R323, R493). -/
def State.stackInit (s : State) (mode mask : Nat) : State :=
  let begun := s.stk.st.filterMap fun e => e.2.sweep.map fun w => 16 * e.1 + w.1
  let s := (begun.filter fun ch => !s.stk.repair.any fun e => e.action = 4 && decide (16 * e.stack + e.channel = ch)).foldl State.recordSpared s
  let spared := s.sparedChannels
  let groups := s.groupsOf
  let live := (maskBits 8 mask).filter fun k => !s.fencedStacks.contains k
  let s := { s with stk := { StkSt.reset with repair := s.stk.repair, groups := groups } }
  let s := spared.foldl (fun s ch =>
    ((s.modChan ch fun c => { c with inst := 16 }).modChan ch fun c => { c with outOfService := true }).modStack (ch / 16)
      fun t => { t with spareUsed := true }) s
  let s := s.setReg stkMapCfg (mode % 2 + 256 * toMask live + 65536 * toMask (spared.map (· / 16)) + 2 ^ 31)
  s.mapRetired

end Sys2Proof.Machine
end

