-- ==== Sys2Proof/Machine/Fp.lean ====
section
/-! DEFINITION. Number formats and their arithmetic (03_numerics.md): exact values, one rounding function for
every floating-point format, and the IEEE binary32 operations of R95. -/

namespace Sys2Proof.Machine

/-- The exact value of an encoded number: NaN, an infinity, or a finite value (-1)^s * n / d with d > 0. A zero keeps
its sign (R9, R95). -/
inductive FVal where
  | nan
  | inf (s : Bool)
  | fin (s : Bool) (n d : Nat)
  deriving DecidableEq, Repr

/-- A floating-point format of R71: exponent and fraction widths, bias, encoding of the largest finite magnitude, and the
NaN and infinity encodings of R72 where the format has them. -/
structure FFmt where
  ebits : Nat
  fbits : Nat
  bias : Nat
  maxEnc : Nat
  infEnc : Option Nat
  nanEnc : Nat
  deriving DecidableEq, Repr

def fE2M1 : FFmt := ⟨2, 1, 1, 0x7, none, 0⟩
def fE4M3 : FFmt := ⟨4, 3, 7, 0x7E, none, 0x7F⟩
def fE5M2 : FFmt := ⟨5, 2, 15, 0x7B, some 0x7C, 0x7E⟩
def fBF16 : FFmt := ⟨8, 7, 127, 0x7F7F, some 0x7F80, 0x7FC0⟩
def fFP16 : FFmt := ⟨5, 10, 15, 0x7BFF, some 0x7C00, 0x7E00⟩
def fFP32 : FFmt := ⟨8, 23, 127, 0x7F7FFFFF, some 0x7F800000, 0x7FC00000⟩

/-- Width of an encoding. -/
def FFmt.width (f : FFmt) : Nat := 1 + f.ebits + f.fbits

/-- The value of an encoding (R71, R72). E2M1 has no NaN and no infinity. -/
def FFmt.decode (f : FFmt) (x : Nat) : FVal :=
  let s := bitAt x (f.ebits + f.fbits)
  let mag := field x 0 (f.ebits + f.fbits)
  if f.infEnc = some mag then .inf s
  else if mag > f.maxEnc then .nan
  else
    let e := field x f.fbits f.ebits
    let fr := field x 0 f.fbits
    let m := if e = 0 then fr else 2 ^ f.fbits + fr
    let e' := if e = 0 then 1 else e
    -- value m * 2^(e' - bias - fbits)
    if f.bias + f.fbits ≤ e' then .fin s (m * 2 ^ (e' - (f.bias + f.fbits))) 1
    else .fin s m (2 ^ (f.bias + f.fbits - e'))

/-- Rounding of a conversion: to nearest, ties to even, or stochastic with the random word r (R96, R102). -/
inductive Rnd where
  | rne
  | sr (r : Nat)
  deriving DecidableEq, Repr

/-- An integer quotient n/d rounded to an integer: RNE, or SR with D = floor(f * 2^32), away from zero when r < D. -/
def Rnd.int (r : Rnd) (n d : Nat) : Nat :=
  let q := n / d
  let rem := n % d
  match r with
  | .rne => if 2 * rem > d then q + 1 else if 2 * rem = d then q + q % 2 else q
  | .sr w => if w < rem * 2 ^ 32 / d then q + 1 else q

/-- floor(log2(n/d)) of a positive quotient, as a number offset by 4096. -/
def log2Q (n d : Nat) : Nat :=
  let a := n.log2
  let b := d.log2
  -- 2^(a-b-1) < n/d < 2^(a-b+1)
  let k := a + 4096 - b
  if a ≥ b then (if d * 2 ^ (a - b) ≤ n then k else k - 1)
  else (if d ≤ n * 2 ^ (b - a) then k else k - 1)

/-- The magnitude encoding of n/d (n > 0) in format f after one rounding, before the overflow rule: the encoding of the
value were the exponent unbounded. Subnormals are kept (R73). -/
def FFmt.roundMag (f : FFmt) (r : Rnd) (n d : Nat) : Nat :=
  let lg := log2Q n d                             -- offset 4096
  -- quantum exponent, offset 4096: max(lg - fbits, 1 - bias - fbits)
  let qmin := 4096 + 1 - f.bias - f.fbits
  let q := max (lg - f.fbits) qmin
  let m := if q ≤ 4096 then r.int (n * 2 ^ (4096 - q)) d else r.int n (d * 2 ^ (q - 4096))
  (q - qmin) * 2 ^ f.fbits + m

/-- What a rounded magnitude beyond the largest finite value becomes (R97). -/
inductive Ovf where
  | sat
  | nonsat
  deriving DecidableEq, Repr

/-- Encoding of sign and magnitude. -/
def FFmt.enc (f : FFmt) (s : Bool) (mag : Nat) : Nat := mag + (if s then 2 ^ (f.ebits + f.fbits) else 0)

/-- Encoding of the format's infinity, or its NaN where it has none (R97, R98). -/
def FFmt.infOf (f : FFmt) (s : Bool) : Nat :=
  match f.infEnc with
  | some m => f.enc s m
  | none => f.nanEnc

/-- A conversion result: the encoding, and whether a SAT result was applied to a finite input (R99). -/
structure Conv where
  enc : Nat
  sat : Bool
  deriving DecidableEq, Repr

/-- Conversion of an exact value into a floating-point format (R96 to R98). -/
def FFmt.conv (f : FFmt) (o : Ovf) (r : Rnd) : FVal → Conv
  | .nan => ⟨f.nanEnc, false⟩
  | .inf s => if o = .sat then ⟨f.enc s f.maxEnc, false⟩ else ⟨f.infOf s, false⟩
  | .fin s n d =>
    if n = 0 then ⟨f.enc s 0, false⟩
    else
      let m := f.roundMag r n d
      if m > f.maxEnc then (if o = .sat then ⟨f.enc s f.maxEnc, true⟩ else ⟨f.infOf s, false⟩)
      else ⟨f.enc s m, false⟩

/-- One RNE rounding to FP32 with IEEE 754 overflow (R95). -/
def rnd32 (v : FVal) : Nat := (fFP32.conv .nonsat .rne v).enc

/-- The exact value of an FP32 encoding. -/
def val32 (x : Nat) : FVal := fFP32.decode x

/-- Canonical FP32 NaN (R72, R74). -/
def nan32 : Nat := 0x7FC00000

/-- A value as a stage gives it: a NaN is the canonical one (R74, R153). -/
def canon32 (x : Nat) : Nat := if field x 23 8 = 255 ∧ field x 0 23 ≠ 0 then nan32 else x

/-- FP32 1.0. -/
def one32 : Nat := 0x3F800000

/-- FP32 encoding is a NaN. -/
def isNan32 (x : Nat) : Bool := val32 x = .nan

/-- FP32 encoding is +inf, -inf or NaN. -/
def nonFinite32 (x : Nat) : Bool := field x 23 8 = 255

/-- FP32 encoding is +0.0 or -0.0. -/
def isZero32 (x : Nat) : Bool := field x 0 31 = 0

/-- Exact sum of two finite signed quotients; an exact zero sum is +0.0 unless both terms are negative zeros (R95). -/
def addFin (s1 : Bool) (n1 d1 : Nat) (s2 : Bool) (n2 d2 : Nat) : FVal :=
  if n1 = 0 ∧ n2 = 0 then .fin (s1 && s2) 0 1
  else if s1 = s2 then .fin s1 (n1 * d2 + n2 * d1) (d1 * d2)
  else
    let a := n1 * d2
    let b := n2 * d1
    if a = b then .fin false 0 1
    else if b < a then .fin s1 (a - b) (d1 * d2)
    else .fin s2 (b - a) (d1 * d2)

/-- Exact sum with IEEE special cases. -/
def addV : FVal → FVal → FVal
  | .nan, _ => .nan
  | _, .nan => .nan
  | .inf s, .inf t => if s = t then .inf s else .nan
  | .inf s, _ => .inf s
  | _, .inf t => .inf t
  | .fin s n d, .fin t m e => addFin s n d t m e

/-- Exact product with IEEE special cases. -/
def mulV : FVal → FVal → FVal
  | .nan, _ => .nan
  | _, .nan => .nan
  | .inf s, .inf t => .inf (s != t)
  | .inf s, .fin t n _ => if n = 0 then .nan else .inf (s != t)
  | .fin s n _, .inf t => if n = 0 then .nan else .inf (s != t)
  | .fin s n d, .fin t m e => .fin (s != t) (n * m) (d * e)

/-- Exact quotient with IEEE special cases. -/
def divV : FVal → FVal → FVal
  | .nan, _ => .nan
  | _, .nan => .nan
  | .inf _, .inf _ => .nan
  | .inf s, .fin t _ _ => .inf (s != t)
  | .fin s _ _, .inf t => .fin (s != t) 0 1
  | .fin s n d, .fin t m e =>
    if m = 0 then (if n = 0 then .nan else .inf (s != t)) else .fin (s != t) (n * e) (d * m)

/-- Negated value. -/
def negV : FVal → FVal
  | .nan => .nan
  | .inf s => .inf (!s)
  | .fin s n d => .fin (!s) n d

/-- IEEE binary32 operations with RNE and canonical NaN (R74, R95). -/
def fadd (a b : Nat) : Nat := rnd32 (addV (val32 a) (val32 b))
def fsub (a b : Nat) : Nat := rnd32 (addV (val32 a) (negV (val32 b)))
def fmul (a b : Nat) : Nat := rnd32 (mulV (val32 a) (val32 b))
def fdiv (a b : Nat) : Nat := rnd32 (divV (val32 a) (val32 b))
/-- Fused multiply-add: one rounding (R95). -/
def ffma (a b c : Nat) : Nat := rnd32 (addV (mulV (val32 a) (val32 b)) (val32 c))
/-- x * 2^k for an integer power. -/
def scaleV (v : FVal) (k : Int) : FVal :=
  match v with
  | .fin s n d => if 0 ≤ k then .fin s (n * 2 ^ k.toNat) d else .fin s n (d * 2 ^ (-k).toNat)
  | v => v

/-! Products whose bits may be inverted (R383). -/

/-- The significand of an encoding, its hidden bit included, and the exponent of its least significant bit (R383). -/
def FFmt.sig (f : FFmt) (x : Nat) : Nat := field x 0 f.fbits + if field x f.fbits f.ebits = 0 then 0 else 2 ^ f.fbits
def FFmt.sigExp (f : FFmt) (x : Nat) : Int := (max 1 (field x f.fbits f.ebits) : Nat) - (f.bias + f.fbits : Nat)

/-- The exact product of two encodings, bits `m` of its integer significand product inverted. -/
def FFmt.mulBits (f : FFmt) (m a b : Nat) : FVal :=
  match f.decode a, f.decode b with
  | .fin s n d, .fin t k e =>
    if m = 0 then mulV (.fin s n d) (.fin t k e) else scaleV (.fin (s != t) ((f.sig a * f.sig b) ^^^ m) 1) (f.sigExp a + f.sigExp b)
  | x, y => mulV x y

/-- The product residue of R383 differs: that of the significands against that of their product. -/
def FFmt.prodBad (f : FFmt) (m a b : Nat) : Bool := f.sig a % 7 * (f.sig b % 7) % 7 != ((f.sig a * f.sig b) ^^^ m) % 7

/-- FP32 multiplication and fused multiply-add with bits of the product inverted. -/
def fmulBits (m a b : Nat) : Nat := rnd32 (fFP32.mulBits m a b)
def ffmaBits (m a b c : Nat) : Nat := rnd32 (addV (fFP32.mulBits m a b) (val32 c))

/-- Sign inversion of an FP32 encoding (R74: a NaN leaves as the canonical NaN). -/
def fneg (a : Nat) : Nat := rnd32 (negV (val32 a))
/-- Sign bit cleared (R74). -/
def fabs (a : Nat) : Nat := if isNan32 a then nan32 else field a 0 31
/-- A number n as FP32 by RNE. -/
def fofNat (n : Nat) : Nat := rnd32 (.fin false n 1)

/-- a > b; a NaN operand compares false, +0.0 equals -0.0 (R153). -/
def fgt (a b : Nat) : Bool :=
  match val32 a, val32 b with
  | .nan, _ => false
  | _, .nan => false
  | .inf s, .inf t => !s && t
  | .inf s, _ => !s
  | _, .inf t => t
  | .fin s n d, .fin t m e =>
    if n = 0 ∧ m = 0 then false
    else if !s && t then true
    else if s && !t then false
    else if !s then m * d < n * e
    else n * e < m * d

def feq (a b : Nat) : Bool := !isNan32 a && !isNan32 b && !fgt a b && !fgt b a
def fge (a b : Nat) : Bool := fgt a b || feq a b

/-- floor(sqrt n), bit by bit from bit k downward. -/
def isqrtGo (n : Nat) : Nat → Nat → Nat
  | 0, acc => acc
  | k + 1, acc => let c := acc + 2 ^ k; isqrtGo n k (if c * c ≤ n then c else acc)

def isqrt (n : Nat) : Nat := isqrtGo n (n.log2 / 2 + 1) 0

/-- Square root of n/d rounded once: 128 more bits of quotient, and a sticky bit below them. -/
def sqrtV (n d : Nat) : FVal :=
  let big := n * 4 ^ 192
  let q := big / d
  let m := isqrt q
  let exact := m * m * d = big
  .fin false (2 * m + (if exact then 0 else 1)) (2 * 2 ^ 192)

/-- Square root (R154 table). -/
def fsqrt (a : Nat) : Nat :=
  match val32 a with
  | .nan => nan32
  | .inf s => if s then nan32 else rnd32 (.inf false)
  | .fin s n d => if n = 0 then rnd32 (.fin s 0 1) else if s then nan32 else rnd32 (sqrtV n d)

/-- 1/sqrt(a), correctly rounded (R154 table). -/
def frsqrt (a : Nat) : Nat :=
  match val32 a with
  | .nan => nan32
  | .inf s => if s then nan32 else 0
  | .fin s n d => if n = 0 then rnd32 (.inf s) else if s then nan32 else rnd32 (sqrtV d n)

/-- 1/a, correctly rounded (R154 table). -/
def frcp (a : Nat) : Nat := fdiv one32 a

/-- MAX of R156: NaN if either is NaN; +0.0 for zeros of different sign. -/
def fmax (a b : Nat) : Nat :=
  if isNan32 a || isNan32 b then nan32
  else if isZero32 a && isZero32 b then (if a = b then a else 0)
  else if fgt b a then b else a

/-- MIN of R156: -0.0 for zeros of different sign. -/
def fmin (a b : Nat) : Nat :=
  if isNan32 a || isNan32 b then nan32
  else if isZero32 a && isZero32 b then (if a = b then a else 0x80000000)
  else if fgt a b then b else a

/-- FP32 to BF16 by RNE (R142, R148), as a 16-bit encoding. -/
def toBF16 (x : Nat) : Nat := (fBF16.conv .nonsat .rne (val32 x)).enc

/-- A BF16 encoding widened exactly to FP32 (R96). -/
def ofBF16 (x : Nat) : Nat := rnd32 (fBF16.decode x)

/-- Rounding of a value to a signed integer of w bits with saturation; NaN gives 0 (R97, R98, R532). -/
def convInt (w : Nat) (r : Rnd) : FVal → Conv
  | .nan => ⟨0, false⟩
  | .inf s => ⟨if s then 2 ^ (w - 1) else 2 ^ (w - 1) - 1, false⟩
  | .fin s n d =>
    let m := r.int n d
    if s then (if m > 2 ^ (w - 1) then ⟨2 ^ (w - 1), true⟩ else ⟨(2 ^ w - m) % 2 ^ w, false⟩)
    else (if m > 2 ^ (w - 1) - 1 then ⟨2 ^ (w - 1) - 1, true⟩ else ⟨m, false⟩)

/-- An integer as an exact value. -/
def intV (x : Int) : FVal := .fin (x < 0) x.natAbs 1

end Sys2Proof.Machine
end

