-- ==== Sys2Proof/Machine/Transc.lean ====
section
/-! DEFINITION. The transcendental functions of R154, correctly rounded: each value is formed in fixed point with 512
fraction bits, far beyond the closeness of any FP32 argument's value to a rounding boundary, and rounded once. -/

namespace Sys2Proof.Machine

/-- Fraction bits of the fixed-point values below. -/
def fxP : Nat := 512

/-- Fixed-point product and quotient, rounded down. -/
def fxMul (a b : Int) : Int := a * b / (2 ^ fxP : Nat)
def fxDiv (a b : Int) : Int := if b = 0 then 0 else a * (2 ^ fxP : Nat) / b
def fxOne : Int := (2 ^ fxP : Nat)

/-- A signed quotient in fixed point. -/
def fxOf (s : Bool) (n d : Nat) : Int :=
  let q : Int := (n * 2 ^ fxP / d : Nat)
  if s then -q else q

/-- The exact value of a fixed-point number. -/
def fxVal (x : Int) : FVal := .fin (x < 0) x.natAbs (2 ^ fxP)

/-- Sum of r^i/i! with `fuel` further terms; `t` is the current term. -/
def expSeries (r : Int) : Nat → Nat → Int → Int
  | 0, _, t => t
  | fuel + 1, i, t => t + expSeries r fuel (i + 1) (fxMul t r / (i + 1 : Nat))

def sqTimes : Nat → Int → Int
  | 0, x => x
  | k + 1, x => sqTimes k (fxMul x x)

/-- e^x in fixed point, |x| below 256: argument halved 16 times, then squared back. -/
def fxExp (x : Int) : Int := sqTimes 16 (expSeries (x / (2 ^ 16 : Nat)) 70 0 fxOne)

/-- Sum of z^(2i+1)/(2i+1), the series of atanh z; `p` is the current odd power. -/
def atanhSeries (z2 : Int) : Nat → Nat → Int → Int
  | 0, _, _ => 0
  | fuel + 1, i, p => p / (2 * i + 1 : Nat) + atanhSeries z2 fuel (i + 1) (fxMul p z2)

/-- 2 atanh z = ln((1+z)/(1-z)). -/
def fxLogOf (z : Int) : Int := 2 * atanhSeries (fxMul z z) 180 0 z

def fxLn2 : Int := fxLogOf (fxOne / 3)

/-- ln of a positive fixed-point number. -/
def fxLog (x : Int) : Int :=
  let e : Int := (x.natAbs.log2 : Int) - (fxP : Nat)
  let m := if 0 ≤ e then x / (2 ^ e.toNat : Nat) else x * (2 ^ (-e).toNat : Nat)
  e * fxLn2 + fxLogOf (fxDiv (m - fxOne) (m + fxOne))

/-- Alternating series of arctan z. -/
def atanSeries (z2 : Int) : Nat → Nat → Int → Int
  | 0, _, _ => 0
  | fuel + 1, i, p => p / (2 * i + 1 : Nat) - atanSeries z2 fuel (i + 1) (fxMul p z2)

def fxAtanInv (k : Nat) : Int :=
  let z := fxOne / k
  atanSeries (fxMul z z) 400 0 z

/-- pi = 16 atan(1/5) - 4 atan(1/239). -/
def fxPi : Int := 16 * fxAtanInv 5 - 4 * fxAtanInv 239

/-- sqrt(pi). -/
def fxSqrtPi : Int := (isqrt (fxPi.natAbs * 2 ^ fxP) : Nat)

/-- Alternating series of erf: sum of (-1)^n x^(2n+1)/(n!(2n+1)); `t` is x^(2n+1)/n!. -/
def erfSeries (x2 : Int) : Nat → Nat → Int → Int
  | 0, _, _ => 0
  | fuel + 1, n, t => t / (2 * n + 1 : Nat) - erfSeries x2 fuel (n + 1) (fxMul t x2 / (n + 1 : Nat))

/-- erf x for |x| below 8. -/
def fxErf (x : Int) : Int := fxDiv (2 * erfSeries (fxMul x x) 600 0 x) fxSqrtPi

/-- |n/d| at or above k. -/
def geK (n d k : Nat) : Bool := k * d ≤ n

/-- e^x (R154). -/
def fexp (a : Nat) : Nat :=
  match val32 a with
  | .nan => nan32
  | .inf s => if s then 0 else rnd32 (.inf false)
  | .fin s n d =>
    if n = 0 then one32
    else if geK n d 128 then (if s then 0 else rnd32 (.inf false))
    else rnd32 (fxVal (fxExp (fxOf s n d)))

/-- ln x (R154). ln 1 is +0.0. -/
def flog (a : Nat) : Nat :=
  match val32 a with
  | .nan => nan32
  | .inf s => if s then nan32 else rnd32 (.inf false)
  | .fin s n d =>
    if n = 0 then rnd32 (.inf true)
    else if s then nan32
    else if n = d then 0
    else rnd32 (fxVal (fxLog (fxOf false n d)))

/-- 1/(1+e^-x) (R154). -/
def fsigmoid (a : Nat) : Nat :=
  match val32 a with
  | .nan => nan32
  | .inf s => if s then 0 else one32
  | .fin s n d =>
    if n = 0 then 0x3F000000
    else if geK n d 128 then (if s then 0 else one32)
    else rnd32 (fxVal (fxDiv fxOne (fxOne + fxExp (fxOf (!s) n d))))

/-- tanh x (R154); a tiny argument, whose cube is below the fixed point, is its own nearest value. -/
def ftanh (a : Nat) : Nat :=
  match val32 a with
  | .nan => nan32
  | .inf s => if s then 0xBF800000 else one32
  | .fin s n d =>
    if n = 0 then rnd32 (.fin s 0 1)
    else if geK n d 64 then (if s then 0xBF800000 else one32)
    else
      let e := fxExp (2 * fxOf false n d)
      let t := fxDiv (e - fxOne) (e + fxOne)
      rnd32 (fxVal (if s then -t else t))

/-- erf x (R154). -/
def ferf (a : Nat) : Nat :=
  match val32 a with
  | .nan => nan32
  | .inf s => if s then 0xBF800000 else one32
  | .fin s n d =>
    if n = 0 then rnd32 (.fin s 0 1)
    else if geK n d 8 then (if s then 0xBF800000 else one32)
    else
      let t := fxErf (fxOf false n d)
      rnd32 (fxVal (if s then -t else t))

/-- ln(1+e^x) (R154). Beyond 128 the value is nearest to x; below -128 it is nearest to +0.0. -/
def fsoftplus (a : Nat) : Nat :=
  match val32 a with
  | .nan => nan32
  | .inf s => if s then 0 else rnd32 (.inf false)
  | .fin s n d =>
    if geK n d 128 then (if s then 0 else a)
    else rnd32 (fxVal (fxLog (fxOne + fxExp (fxOf s n d))))

/-- GELU by its sequence (R154); -0.0 at -inf, +inf at +inf. -/
def fgelu (x : Nat) : Nat :=
  match val32 x with
  | .nan => nan32
  | .inf s => if s then 0x80000000 else x
  | _ =>
    let u := ferf (fmul x 0x3F3504F3)
    fmul x (fmul (fadd one32 u) 0x3F000000)

/-- SILU by its sequence (R154). -/
def fsilu (x : Nat) : Nat :=
  match val32 x with
  | .nan => nan32
  | .inf s => if s then 0x80000000 else x
  | _ => fmul x (fsigmoid x)

/-- DSIGMOID (R155). -/
def fdsigmoid (y g : Nat) : Nat := fmul g (fmul y (fsub one32 y))

/-- DTANH (R155). -/
def fdtanh (y g : Nat) : Nat := fmul g (fsub one32 (fmul y y))

/-- DSOFTPLUS (R155). -/
def fdsoftplus (y g : Nat) : Nat := fmul g (fsub one32 (fexp (fneg y)))

/-- DGELU (R155); d is 1.0 at +inf and +0.0 at -inf. -/
def fdgelu (x g : Nat) : Nat :=
  let d :=
    match val32 x with
    | .inf s => if s then 0 else one32
    | _ =>
      let w := fmul (fadd one32 (ferf (fmul x 0x3F3504F3))) 0x3F000000
      let r := fexp (fmul (fmul x x) 0xBF000000)
      fadd w (fmul x (fmul r 0x3ECC422A))
  fmul g d

/-- DSILU (R155). -/
def fdsilu (x g : Nat) : Nat :=
  let d :=
    match val32 x with
    | .inf s => if s then 0 else one32
    | _ =>
      let s := fsigmoid x
      fmul s (fadd one32 (fmul x (fsub one32 s)))
  fmul g d

end Sys2Proof.Machine
end

