-- ==== Sys2Proof/Machine/Operands.lean ====
section
/-! DEFINITION. Tensors as operands: the descriptor (R220 to R225), element positions and addresses (R226 to R228, R232),
global indices (R230), reads as FP32 (R101, R532), conversions and writes (R96 to R103, R224, R233). -/

namespace Sys2Proof.Machine

/-- A Catalogue descriptor (R220). -/
structure Desc where
  fmt : Nat
  rank : Nat
  kind : Nat
  space : Nat
  modes : Nat
  fill : Nat
  stashIdx : Nat
  base : Nat
  shardNo : Nat
  sdimA : Nat
  sdimB : Nat
  ext : List Nat
  stride : List Int
  scale : Nat
  stream : Nat
  scntA : Nat
  scntB : Nat
  word : Nat
  deriving DecidableEq, Repr

/-- Bytes `off` to `off + n - 1` of a 64-byte record, as a little-endian number. -/
def recField (w off n : Nat) : Nat := field w (8 * off) (8 * n)

/-- The descriptor of a 64-byte entry. -/
def Desc.parse (w : Nat) : Desc :=
  { fmt := field w 0 5, rank := field w 5 3, kind := field w 8 3, space := field w 11 3, modes := recField w 2 2,
    fill := recField w 4 2, stashIdx := recField w 6 2, base := recField w 8 5, shardNo := field (recField w 0xD 3) 0 14,
    sdimA := field (recField w 0xD 3) 14 3, sdimB := field (recField w 0xD 3) 17 3,
    ext := [recField w 0x10 4, recField w 0x14 3, recField w 0x17 3, recField w 0x1A 3, recField w 0x1D 3],
    stride := (List.range 5).map fun i => signed 32 (recField w (0x20 + 4 * i) 4),
    scale := recField w 0x34 4, stream := recField w 0x38 4, scntA := field (recField w 0x3C 4) 0 15,
    scntB := field (recField w 0x3C 4) 15 15, word := w }

/-- HST_CAT_BASE and HST_CAT_SIZE of a context (R218). -/
def State.catBase (s : State) (c : Ctx) : Nat := s.reg (hstCtx c 0x60)
def State.catSize (s : State) (c : Ctx) : Nat := s.reg (hstCtx c 0x64)

/-- The 64 bytes of local entry j (R218). -/
def State.entry (s : State) (c : Ctx) (j : Nat) : Nat := (s.catalogue.get 0#512 (s.catBase c + j)).toNat

/-- The descriptor of local index j. -/
def State.desc (s : State) (c : Ctx) (j : Nat) : Desc := Desc.parse (s.entry c j)

/-! Formats (R221). -/

/-- Planes of a plane format; 0 for a byte format (R232). -/
def Desc.planes (d : Desc) : Nat :=
  if d.fmt = 0 then 1 else if d.fmt = 1 then d.scale % 32 else if d.fmt = 2 then 4 else 0

/-- Element size in bytes of a byte format. -/
def fmtBytes (f : Nat) : Nat :=
  if f = 0x07 ∨ f = 0x08 then 2
  else if f = 0x09 ∨ f = 0x0B then 4
  else if f = 0x0D ∨ f = 0x0E then 8
  else if 0x03 ≤ f ∧ f < 0x10 then 1
  else 0

def Desc.bytes (d : Desc) : Nat := fmtBytes d.fmt

/-- Bits of an element in stored form (R274). -/
def Desc.elBits (d : Desc) : Nat := if d.planes = 0 then 8 * d.bytes else d.planes

/-- MX formats: elements with E8M0 block scales. -/
def fmtMX (f : Nat) : Bool := f == 2 || f == 5 || f == 6
def Desc.isMX (d : Desc) : Bool := fmtMX d.fmt

/-- The MX axis. -/
def Desc.mxAxis (d : Desc) : Nat := field d.modes 13 3

/-- The floating-point element format of a format code. -/
def fmtFloat (f : Nat) : FFmt :=
  if f = 2 then fE2M1 else if f = 3 ∨ f = 5 then fE4M3 else if f = 4 ∨ f = 6 then fE5M2
  else if f = 7 then fBF16 else if f = 8 then fFP16 else fFP32

/-- Extent and stride of a dimension. -/
def Desc.e (d : Desc) (i : Nat) : Nat := nth 1 i d.ext
def Desc.s (d : Desc) (i : Nat) : Int := nth 0 i d.stride

/-- Elements of the local shape. -/
def Desc.count (d : Desc) : Nat := d.ext.foldl (· * ·) 1

/-! Positions. -/

/-- Index tuple of a linear index over extents (R227). -/
def coordsOf : List Nat → Nat → List Nat
  | [], _ => []
  | e :: t, l => (if e = 0 then 0 else l % e) :: coordsOf t (if e = 0 then 0 else l / e)

/-- Linear index of an index tuple over extents (R227). -/
def linOf : List Nat → List Nat → Nat
  | e :: es, x :: xs => x + e * linOf es xs
  | _, _ => 0

/-- Position of an element in units of elements (R226). -/
def Desc.pos (d : Desc) (x : List Nat) : Int := ((x.zip d.stride).map fun p => (p.1 : Int) * p.2).sum

/-- Least and greatest positions over the local shape (R226). -/
def Desc.qmin (d : Desc) : Int := ((d.ext.zip d.stride).map fun p => min 0 (((p.1 : Int) - 1) * p.2)).sum
def Desc.qmax (d : Desc) : Int := ((d.ext.zip d.stride).map fun p => max 0 (((p.1 : Int) - 1) * p.2)).sum

/-- PLANE_BYTES (R232). -/
def Desc.planeBytes (d : Desc) : Nat := 64 * ceilDiv ((d.qmax - d.qmin + 1).toNat) 512

/-- Lowest byte of the footprint, relative to BASE, and its length (R226, R232). -/
def Desc.footLo (d : Desc) : Int := if d.planes = 0 then d.qmin * d.bytes else 0
def Desc.footLen (d : Desc) : Nat :=
  if d.planes = 0 then ((d.qmax - d.qmin) * d.bytes + d.bytes).toNat
  else (d.planes - 1) * d.planeBytes + ((d.qmax - d.qmin) / 8 + 1).toNat

/-- BANK_BYTES of a pair (R228). -/
def Desc.bankBytes (d : Desc) : Nat := alignUp d.footLen 4096

/-- Offset of a bank of a pair: bank B follows bank A (R228). -/
def Desc.bankOff (d : Desc) (b : Bool) : Nat := if d.kind = 3 && b then d.bankBytes else 0

/-! Global indices (R230). -/

/-- Shard coordinate and count of a dimension. -/
def Desc.shardOf (d : Desc) (i : Nat) : Nat × Nat :=
  if 1 < d.scntA ∧ i = d.sdimA then (d.shardNo % d.scntA, d.scntA)
  else if 1 < d.scntB ∧ i = d.sdimB then (d.shardNo / d.scntA % d.scntB, d.scntB)
  else (0, 1)

def Desc.gext (d : Desc) : List Nat := (List.range 5).map fun i => d.e i * (d.shardOf i).2

/-- Global coordinates of a local index tuple. -/
def Desc.gcoords (d : Desc) (x : List Nat) : List Nat :=
  (List.range 5).map fun i => (d.shardOf i).1 * d.e i + nth 0 i x

/-- Global linear index of a local linear index. -/
def Desc.gidx (d : Desc) (lin : Nat) : Nat := linOf d.gext (d.gcoords (coordsOf d.ext lin))

/-! Element addresses. `off` is the bank's offset. -/

/-- First byte of an element of a byte format. -/
def Desc.addr (d : Desc) (off : Nat) (lin : Nat) : Nat :=
  ((d.base + off : Nat) + d.pos (coordsOf d.ext lin) * d.bytes).toNat

/-- Bit address of an element in plane p (R232). -/
def Desc.bitAddr (d : Desc) (off : Nat) (lin p : Nat) : Nat :=
  8 * (d.base + off + p * d.planeBytes) + (d.pos (coordsOf d.ext lin) - d.qmin).toNat

/-- The bytes that an element occupies or shares. -/
def Desc.elBytes (d : Desc) (off lin : Nat) : List Nat :=
  if d.planes = 0 then (List.range d.bytes).map (d.addr off lin + ·)
  else (List.range d.planes).map fun p => d.bitAddr off lin p / 8

/-- The bytes of the whole tensor, rising. -/
def Desc.allBytes (d : Desc) (off : Nat) : List Nat := sortNat ((List.range d.count).flatMap (d.elBytes off))

/-- What an access through a descriptor needs beside it: the context, the physical tile, whether pairs go to bank B, and the
random key (R56). -/
structure Env where
  c : Ctx
  tile : Nat
  bankB : Bool
  seed : Nat
  n : Nat
  deriving DecidableEq, Repr

def Env.space (v : Env) (d : Desc) : Space := ⟨d.space, v.tile, v.c⟩
def Env.off (v : Env) (d : Desc) : Nat := d.bankOff v.bankB

/-- Raw bits of an element. -/
def State.elRaw (s : State) (v : Env) (d : Desc) (lin : Nat) : Nat :=
  let p := v.space d
  if d.planes = 0 then ofBytesLE (s.spRead p (d.addr (v.off d) lin) d.bytes)
  else ((List.range d.planes).map fun k =>
    let b := d.bitAddr (v.off d) lin k
    field (ofBytesLE (s.spRead p (b / 8) 1)) (b % 8) 1 * 2 ^ k).sum

/-- An element's raw bits stored; a plane write changes only the element's bits (R233). -/
def State.elPut (s : State) (v : Env) (d : Desc) (lin x : Nat) : State :=
  let p := v.space d
  if d.planes = 0 then s.spPut p (d.addr (v.off d) lin) (bytesLE d.bytes x)
  else (List.range d.planes).foldl (fun s k =>
    let b := d.bitAddr (v.off d) lin k
    s.spPut p (b / 8) (bytesLE 1 (putField (ofBytesLE (s.spRead p (b / 8) 1)) (b % 8) 1 (field x k 1)))) s

/-- The E8M0 scale tensor of an MX tensor and the element of it that covers an element (R229). -/
def State.mxScaleOf (s : State) (v : Env) (d : Desc) : Desc := s.desc v.c (d.scale % 65536)
def Desc.mxScaleLin (d sd : Desc) (lin : Nat) : Nat :=
  linOf sd.ext (modAt (· / 32) d.mxAxis (coordsOf d.ext lin))
def State.mxScale (s : State) (v : Env) (d : Desc) (lin : Nat) : Nat :=
  let sd := s.mxScaleOf v d
  s.elRaw v sd (d.mxScaleLin sd lin)

/-- An E8M0 value as an exact power of two (R71). -/
def e8m0V (x : Nat) : FVal := if x = 0xFF then .nan else scaleV (.fin false 1 1) ((x : Int) - 127)

/-- Raw bits of an element, read as an FP32 value (R101, R532); `sc` is the block scale of an MX element. -/
def Desc.toF32 (d : Desc) (x sc : Nat) : Nat :=
  if d.isMX then
    if sc = 0xFF then nan32 else rnd32 (scaleV ((fmtFloat d.fmt).decode x) ((sc : Int) - 127))
  else if d.fmt = 0 then (if x = 0 then 0 else one32)
  else if d.fmt = 1 then fofNat x
  else if d.fmt = 3 ∨ d.fmt = 4 then rnd32 (mulV ((fmtFloat d.fmt).decode x) (val32 d.scale))
  else if d.fmt = 7 ∨ d.fmt = 8 then rnd32 ((fmtFloat d.fmt).decode x)
  else if d.fmt = 0xA then rnd32 (intV (signed 8 x))
  else if d.fmt = 0xB then rnd32 (intV (signed 32 x))
  else if d.fmt = 0xC then rnd32 (e8m0V x)
  else if d.fmt = 0xD then fadd (x % 2 ^ 32) (x / 2 ^ 32)
  else x % 2 ^ 32

/-- An element as an FP32 value. -/
def State.elF32 (s : State) (v : Env) (d : Desc) (lin : Nat) : Nat :=
  d.toF32 (s.elRaw v d lin) (if d.isMX then s.mxScale v d lin else 0)

/-! Conversions. -/

/-- Overflow mode of a descriptor (R97). -/
def Desc.ovf (d : Desc) : Ovf :=
  if field d.modes 4 2 = 1 then .sat
  else if field d.modes 4 2 = 2 then .nonsat
  else if d.fmt = 3 ∨ d.fmt = 0xA ∨ d.fmt = 0xB then .sat
  else .nonsat

/-- An FP32 value converted into a non-MX format: the raw bits, and whether a SAT result was applied to a finite input. -/
def Desc.encode (d : Desc) (r : Rnd) (x snd : Nat) : Conv :=
  if d.fmt = 0 then ⟨if isZero32 x || isNan32 x then 0 else 1, false⟩
  else if d.fmt = 3 ∨ d.fmt = 4 then (fmtFloat d.fmt).conv d.ovf r (divV (val32 x) (val32 d.scale))
  else if d.fmt = 7 ∨ d.fmt = 8 then (fmtFloat d.fmt).conv d.ovf r (val32 x)
  else if d.fmt = 0xA then convInt 8 r (val32 x)
  else if d.fmt = 0xB then convInt 32 r (val32 x)
  else if d.fmt = 0xD ∨ d.fmt = 0xE then ⟨x + snd * 2 ^ 32, false⟩
  else ⟨x, false⟩

/-- The second word of a value written alone (R532): +0.0 in a pair, no index in VALIDX. -/
def Desc.lone (d : Desc) : Nat := if d.fmt = 0xE then 0xFFFFFFFF else 0

/-- Raw bits hold a non-finite element of the format (R99). -/
def Desc.rawNonFinite (d : Desc) (x : Nat) : Bool :=
  if d.fmt = 0xD then nonFinite32 (x % 2 ^ 32) || nonFinite32 (x / 2 ^ 32)
  else if d.fmt = 0xE then nonFinite32 (x % 2 ^ 32)
  else if d.fmt = 9 then nonFinite32 x
  else if d.fmt = 0xC then x % 256 == 0xFF
  else if 3 ≤ d.fmt ∧ d.fmt ≤ 8 then
    (match (fmtFloat d.fmt).decode x with
     | .fin _ _ _ => false
     | _ => true)
  else false

/-- The fill value as raw bits (R224). -/
def Desc.fillRaw (d : Desc) : Nat :=
  if d.fmt = 9 then d.fill * 2 ^ 16
  else if d.fmt = 0xD then d.fill * 2 ^ 16
  else if d.fmt = 0xE then d.fill * 2 ^ 16 + 0xFFFFFFFF * 2 ^ 32
  else if d.fmt = 0xB then unsigned 32 (signed 16 d.fill)
  else d.fill

/-- One element that a line writes: its local linear index; its FP32 value and the second word of a pair; or the raw bits of a
fill or a bit copy; `quiet` for the elements that raise no flag (R99). -/
structure OutEl where
  lin : Nat
  val : Nat := 0
  snd : Nat := 0
  raw : Option Nat := none
  quiet : Bool := false
  deriving DecidableEq, Repr

/-- The rounding of an element of an output tensor (R96, R103). -/
def Desc.rnd (d : Desc) (v : Env) (lin : Nat) : Rnd :=
  if bitAt d.modes 6 then .sr (philoxWord v.seed v.n d.stream (d.gidx lin)) else .rne

/-- Flags that writes of a line through Catalogue index `cat` raise. -/
structure WFlags where
  nonfinite : List Nat   -- global indices
  saturated : Bool
  deriving DecidableEq, Repr

def WFlags.none : WFlags := ⟨[], false⟩
def WFlags.or (a b : WFlags) : WFlags := ⟨a.nonfinite ++ b.nonfinite, a.saturated || b.saturated⟩

/-- An element written into a non-MX tensor (R96 to R99, R532). -/
def State.elWrite (s : State) (v : Env) (d : Desc) (o : OutEl) : State × WFlags :=
  match o.raw with
  | some x =>
    (s.elPut v d o.lin x, ⟨if !o.quiet && d.rawNonFinite x then [d.gidx o.lin] else [], false⟩)
  | none =>
    let r := d.encode (d.rnd v o.lin) o.val o.snd
    (s.elPut v d o.lin r.enc,
     ⟨if !o.quiet && (nonFinite32 o.val || d.rawNonFinite r.enc) then [d.gidx o.lin] else [], r.sat⟩)

/-- Exponent of the largest element (R100). -/
def mxEmax (f : Nat) : Int := if f = 2 then 2 else if f = 5 then 8 else 15

/-- Scale and raw elements of an MX block of FP32 values with their roundings (R100). -/
def mxForm (f : Nat) (xs : List (Nat × Rnd)) : Nat × List Nat :=
  if xs.any fun x => nonFinite32 x.1 then (0xFF, xs.map fun _ => 0)
  else
    let amax := xs.foldl (fun m x => max m (field x.1 0 31)) 0
    let w := (fmtFloat f).width
    if amax = 0 then (0, xs.map fun x => if bitAt x.1 31 then 2 ^ (w - 1) else 0)
    else
      let lg : Int := match val32 amax with
        | .fin _ n d => (log2Q n d : Int) - 4096
        | _ => 0
      let X := (max (lg - mxEmax f + 127) 0).toNat
      (X, xs.map fun x => ((fmtFloat f).conv .sat x.2 (scaleV (val32 x.1) (127 - (X : Int)))).enc)

/-- Local linear indices of the present positions of the block that holds an element. -/
def Desc.mxBlock (d : Desc) (lin : Nat) : List Nat :=
  let x := coordsOf d.ext lin
  let a := d.mxAxis
  let b := nth 0 a x / 32
  ((List.range 32).map (32 * b + ·)).filterMap fun l =>
    if l < d.e a then some (linOf d.ext (modAt (fun _ => l) a x)) else none

/-- One MX block written: the positions produced take their values, the others their current ones; fills keep their bits
(R100; assumption entry 21 for fills). -/
def State.mxBlockWrite (s : State) (v : Env) (d : Desc) (els : List OutEl) (blk : List Nat) : State × WFlags :=
  let find (l : Nat) := els.find? (·.lin = l)
  let s := blk.foldl (fun s l => match find l with
    | some o => (match o.raw with
      | some x => s.elPut v d l x
      | none => s)
    | none => s) s
  let live := blk.filter fun l => match find l with
    | some o => o.raw.isNone
    | none => true
  if blk.any fun l => match find l with
    | some o => o.raw.isNone
    | none => false
  then
    let xs := live.map fun l => (match find l with
      | some o => o.val
      | none => s.elF32 v d l, d.rnd v l)
    let (X, enc) := mxForm d.fmt xs
    let sd := s.mxScaleOf v d
    let s := match live with
      | l :: _ => s.elPut v sd (d.mxScaleLin sd l) X
      | [] => s
    let s := (live.zip enc).foldl (fun s e => s.elPut v d e.1 e.2) s
    let loud (l : Nat) : Bool := match find l with
      | some o => !o.quiet
      | none => true
    (s, ⟨((live.zip xs).filter fun e => nonFinite32 e.2.1 && loud e.1).map fun e => d.gidx e.1, false⟩)
  else (s, WFlags.none)

/-- First elements of the blocks that a line touches, each once. -/
def Desc.mxBlocks (d : Desc) (els : List OutEl) : List (List Nat) := (els.map fun o => d.mxBlock o.lin).eraseDups

/-- Bytes of a tensor whose every bit the elements write (R295, R308). -/
def Desc.coveredBytes (d : Desc) (off : Nat) (lins : List Nat) : List Nat :=
  if d.planes = 0 then lins.flatMap (d.elBytes off)
  else
    let bits := lins.flatMap fun l => (List.range d.planes).map (d.bitAddr off l)
    (sortNat (bits.map (· / 8))).filter fun b => (List.range 8).all fun i => bits.contains (8 * b + i)

/-- 64-byte units all of whose bytes are listed. -/
def fullUnits (bs : List Nat) : List Nat :=
  (sortNat (bs.map (· / 64))).filter fun u => (List.range 64).all fun i => bs.contains (64 * u + i)

/-- The elements of a line written into a tensor: conversions, flags, and the poison of the units written whole cleared. -/
def State.writeEls (s : State) (v : Env) (d : Desc) (els : List OutEl) : State × WFlags :=
  let (s, f) :=
    if d.isMX then (d.mxBlocks els).foldl (fun acc b =>
      let (s, f) := acc.1.mxBlockWrite v d els b
      (s, acc.2.or f)) (s, WFlags.none)
    else els.foldl (fun acc o =>
      let (s, f) := acc.1.elWrite v d o
      (s, acc.2.or f)) (s, WFlags.none)
  (s.spClean (v.space d) (fullUnits (d.coveredBytes (v.off d) (els.map (·.lin)))), f)

/-- All elements of a tensor as FP32 values, in linear order. -/
def State.readAll (s : State) (v : Env) (d : Desc) : List Nat := (List.range d.count).map (s.elF32 v d)

/-- Stored bytes of a tensor in ascending address order over its footprint. -/
def State.footBytes (s : State) (v : Env) (d : Desc) : List Byte :=
  s.spRead (v.space d) ((d.base + v.off d : Nat) + d.footLo).toNat d.footLen

/-- Keys of the bytes that a tensor's elements occupy, its MX scales with them (R238). -/
def State.keysOf (s : State) (v : Env) (d : Desc) : List Nat :=
  let own := (d.allBytes (v.off d)).map (v.space d).byteKey
  if d.isMX then
    let sd := s.mxScaleOf v d
    own ++ (sd.allBytes (v.off sd)).map (v.space sd).byteKey
  else own

/-- Poisoned units that a set of elements reads, with the element that meets each first. -/
def State.poisonOf (s : State) (v : Env) (d : Desc) (lins : List Nat) : List (Nat × Nat) :=
  lins.flatMap fun l => ((d.elBytes (v.off d) l).flatMap fun a => s.spPoison (v.space d) a 1).map fun u => (u, l)

end Sys2Proof.Machine
end

