-- ==== Sys2Proof/Machine/StepCtl.lean ====
section
/-! DEFINITION. The control of a step: batch digest and seal (R59 to R63, R187, R188), the control messages (R345), finite
attestation (R206 to R210), step-fault markers and kills (R39, R208), step replay (R393 to R395), barriers and the step boundary
(R250 to R253), abort (R212) and the shared part of commit (R211). -/

namespace Sys2Proof.Machine

/-! The control tree (R344). -/

def colTree : Nat := pgCOL 0 + 0x44
/-- The device is the root: PARENT is 0xF. -/
def State.isRoot (s : State) : Bool := decide (s.regField colTree 0 4 = 0xF)
/-- The ports that lead to children. -/
def State.kids (s : State) : List Nat := maskBits 12 (s.regField colTree 4 12)

def State.modRun (s : State) (c : Ctx) (f : StepRun → StepRun) : State := s.modCx c fun x => { x with run := x.run.map f }

/-! Sticky flags (R99, R206). -/

/-- The lowest element of two events of one tensor; for one element the lowest line. -/
def FlagEv.low (a b : FlagEv) : FlagEv :=
  if a.elem < b.elem then a else if b.elem < a.elem then b else if a.line ≤ b.line then a else b

/-- A NONFINITE event joins the sticky flags: one per Catalogue index. -/
def addFlag (e : FlagEv) : List FlagEv → List FlagEv
  | [] => [e]
  | f :: t => if f.cat = e.cat then FlagEv.low f e :: t else f :: addFlag e t

/-- The flags of a completed line join the context's (R99). -/
def State.raiseFlags (s : State) (c : Ctx) (f : Flags) : State :=
  s.modCx c fun x =>
    { x with nonfinite := f.nonfinite.foldl (fun l e => addFlag e l) x.nonfinite,
             saturated := f.saturated.foldl (fun l k => insertNat k l) x.saturated,
             empty := f.empty.foldl (fun l k => insertNat k l) x.empty }

/-- Order of attestation keys: Catalogue index, rank, element index (R207). -/
def keyLt (a b : AttKey) : Bool :=
  decide (a.cat < b.cat) || (decide (a.cat = b.cat) && (decide (a.rank < b.rank) ||
    (decide (a.rank = b.rank) && decide (a.elem < b.elem))))

/-- The lower of two keys. -/
def minKey : Option AttKey → Option AttKey → Option AttKey
  | none, b => b
  | a, none => a
  | some a, some b => if keyLt b a then some b else some a

def CtxSt.rank (x : CtxSt) : Nat := match x.prog with
  | some p => p.rank
  | none => 0

/-- This device's key: the minimum over its NONFINITE flags (R207). -/
def CtxSt.key (x : CtxSt) : Option AttKey :=
  x.nonfinite.foldl (fun k f => minKey k (some ⟨f.cat, x.rank, f.elem, f.line⟩)) none

/-! Tiles of a context. -/

/-- Every tile's per-context state changed. -/
def State.allTctx (s : State) (c : Ctx) (f : TileCtx → TileCtx) : State :=
  { s with tiles := s.tiles.map fun e => (e.1, { e.2 with cx := modAt f c.num e.2.cx }) }

/-- Sequencers at local line 0, tokens and barrier counters 0, holds ended (R247, R253, R394). -/
def TileCtx.restart (x : TileCtx) : TileCtx :=
  { x with line := 0, loops := [], ended := false, issued := 0, executed := 0, tokens := [], barriers := [], posted := [],
           heldPosts := [], openPosts := [], loaded := [], held := [], copies := [] }

def State.restartTiles (s : State) (c : Ctx) : State :=
  (s.allTctx c TileCtx.restart).modCx c fun x => { x with phases := [], engBars := [] }

/-- Running lines of the context on any tile. -/
def State.runningOf (s : State) (c : Ctx) : List Running := s.tiles.flatMap fun e => e.2.running.filter (·.ctx = c)

/-- Recoveries of the context are abandoned: its lines under arbitration leave the tiles and the Collimator queues empty of
them (R394, R401); so do its lines that wait for a plan's result, whose traffic is discarded (assumption entry 36); its head
lines ask for no power (R283). -/
def State.dropArb (s : State) (c : Ctx) : State :=
  { s with tiles := s.tiles.map fun e =>
             (e.1, { e.2 with running := e.2.running.filter fun r => !(r.ctx = c && (r.arb.isSome || r.waitPlan.isSome)),
                              helping := if e.2.running.any (fun r => r.ctx = c && r.arb.isSome && r.no = 0) then none
                                         else e.2.helping }),
           dies := s.dies.map fun e => (e.1, { e.2 with collQ := e.2.collQ.filter (fun q => q.2.2.1 != c), powerQ := e.2.powerQ.filter fun q => q.2 != c }) }

/-- Attempt bit and STEP_LO of the messages of the attempt that runs (R331). -/
def StepRun.mark (r : StepRun) : Nat × Nat := (r.attempt - 1, r.n % 65536)

/-- A plan without the traffic of an attempt (R394). -/
def PlanSt.discard (p : PlanSt) (m : Nat × Nat) : PlanSt :=
  { p with parts := [], later := p.later.filter fun q => decide ((q.attempt, q.stepLo) ≠ m), result := none }

/-- Collective and update engines discard the traffic of the attempt that runs (R212, R394). -/
def State.dropTraffic (s : State) (c : Ctx) : State :=
  let m := match (s.cxt c).run with
    | some r => r.mark
    | none => (2, 0)
  { s with fab.plans := s.fab.plans.map fun e => if e.1 / 65536 = c.num then (e.1, e.2.discard m) else e,
           fab.grads := s.fab.grads.filter fun g => g.ctx != c,
           dies := s.dies.map fun e => (e.1, { e.2 with powerQ := e.2.powerQ.filter fun q => q.2 != c }) }

/-! Almanac records (R65). -/

/-- The 128 bytes of a record. -/
def almBytes (n seed : Nat) (batch prog sl : Digest) (outcome flags devices : Nat) : List Byte :=
  let b := bytesLE 8 n ++ bytesLE 8 seed ++ takeD 0#8 32 batch ++ takeD 0#8 32 prog ++ takeD 0#8 32 sl ++ bytesLE 2 1 ++
    bytesLE 1 outcome ++ bytesLE 1 flags ++ bytesLE 4 devices ++ bytesLE 4 0
  b ++ bytesLE 4 (crc32c b)

/-- A record into the Almanac ring, its tail and message (R442, R450). -/
def State.almPush (s : State) (c : Ctx) (bs : List Byte) : State :=
  let t := (s.cxt c).almTail
  let s := s.hostWrite (s.almBase c + t % s.ringSize c 8 * 128) bs
  let s := s.modCx c fun x => { x with almTail := idxNext x.almTail }
  (s.writeTails c).signal (65 + 16 * c.num)

def CtxSt.digest (x : CtxSt) : Digest := match x.prog with
  | some p => p.digest
  | none => []
def CtxSt.devices (x : CtxSt) : Nat := match x.prog with
  | some p => p.n
  | none => 0
/-- seal[n-1]: the committed seal. -/
def CtxSt.sealOf (x : CtxSt) : Digest := match x.committed with
  | some k => k.sealD
  | none => []

/-! Kills and markers (R39, R208). -/

/-- The step is abandoned: no later line issues; recoveries end; abort actions follow (R208). -/
def State.abandon (s : State) (c : Ctx) : State :=
  match (s.cxt c).run with
  | none => s
  | some _ =>
    (s.dropArb c).modCx c fun x =>
      { x with state := .aborting,
               run := x.run.map fun r => { r with outcome := some (none, true), replaying := false } }

/-- A FAULT of an attempt (bit and STEP_LO of its header, R331) goes down the tree. -/
def State.faultDown (s : State) (c : Ctx) (kind rank : Nat) (m : Nat × Nat) : State :=
  if s.kids = [] then s else s.emit (.faultDown c kind rank m.1 m.2)

/-- A FAULT of this device: down at once at the root, else up (R345). -/
def State.faultSend (s : State) (c : Ctx) (kind : Nat) (m : Nat × Nat) : State :=
  let rank := (s.cxt c).rank
  if s.isRoot then s.faultDown c kind rank m else s.emit (.faultUp c kind rank m.1 m.2)

/-- A step-fault marker of this device: kept, sent up (or down at the root), and the step is abandoned here (R208, R345). -/
def State.postMarker (s : State) (c : Ctx) (code seq : Nat) : State :=
  match (s.cxt c).run with
  | none => s
  | some run =>
    let s := s.modRun c fun r =>
      { r with marker := true, faultCode := if r.faultCode = 0 then code else r.faultCode,
               faultSeq := if r.faultCode = 0 then seq else r.faultSeq }
    (s.faultSend c 0 run.mark).abandon c

/-- Step number of the running attempt. -/
def CtxSt.stepNo (x : CtxSt) : Nat := match x.run with
  | some r => r.n
  | none => x.counter

/-- A fault of a line or command that kills its context: the record into the context's fault ring, then the marker (R39,
R208). -/
def State.kill (s : State) (c : Ctx) (r : FRec) : State :=
  let s := s.ctxRecord c { r with step := (s.cxt c).stepNo }
  s.postMarker c r.code s.host.seq

/-- A fault with SOURCE 5 that kills a context (R403). -/
def State.killHw (s : State) (page : Nat) (c : Ctx) (r : FRec) : State :=
  let s := s.event page { r with ctx := c.num, step := (s.cxt c).stepNo }
  s.postMarker c r.code s.host.seq

/-! Step replay (R393 to R395). -/

/-- The lines of the abandoned attempt have completed: flags, tokens and barriers are cleared and the arrival goes up as for
STEP_UP (R394). -/
def State.sendArrival (s : State) (c : Ctx) : State :=
  match (s.cxt c).run with
  | none => s
  | some r =>
    if r.replaying && !r.stepOwn && decide (s.runningOf c = []) then
      let s := s.restartTiles c
      let s := s.modCx c fun x => { x with nonfinite := [], saturated := [], empty := [] }
      s.modRun c fun r => { r with stepOwn := true }
    else s

/-- STEP_LOST (R395): it kills the context on this device. -/
def State.stepLost (s : State) (page : Nat) (c : Ctx) (r : FRec) (cause : Nat) : State :=
  s.killHw page c { r with code := 0x0508, c0 := cause, c1 := (s.cxt c).rank }

/-- The first attempt is abandoned here (R394). -/
def State.startReplay (s : State) (c : Ctx) : State :=
  match (s.cxt c).run with
  | none => s
  | some r =>
    if r.attempt = 1 ∧ r.replaying = false ∧ ((s.cxt c).state = .running ∨ (s.cxt c).state = .attesting) then
      let s := (s.dropArb c).dropTraffic c
      s.modCx c fun x =>
        { x with state := .running,
                 run := x.run.map fun r => { r with replaying := true, gateKids := [], gateOwn := false, gateDone := false,
                                                    stepKids := r.stepKids.drop (· % 2 = 0), stepOwn := false, outcome := none } }
    else s

/-! Attestation and barriers. -/

/-- Every child of the tree has an entry. -/
def State.allKids {α : Type} (s : State) (t : Tbl α) : Bool := s.kids.all fun k => t.any (·.1 = k)

/-- Minimum of keys and OR of markers of the children (R345). -/
def kidsResult (t : Tbl (Option AttKey × Bool)) : Option AttKey × Bool :=
  t.foldl (fun a e => (minKey a.1 e.2.1, a.2 || e.2.2)) (none, false)

/-- MER_PHASE of a context on every C-die: a STEP (bit 0) or GATE (bit 16) phase counted (R508). -/
def State.countPhase (s : State) (c : Ctx) (lo : Nat) : State :=
  (List.range 4).foldl (fun s d =>
    let a := pgMER d + 0x40 + 4 * c.num
    s.setRegField a lo 16 (s.regField a lo 16 + 1)) s

/-- All logical tiles of the package. -/
def allTileIds : List TileId := (List.range 4).flatMap fun d => (List.range 46).map fun l => ⟨d, l⟩

/-- A 16-bit counter one up. -/
def countUp (t : Tbl Nat) (num : Nat) : Tbl Nat := t.set num (min (t.get 0 num + 1) 0xFFFF)

/-- A completed phase: the barrier's counter on every tile of the context and every engine rises by 1 (R250, R252). -/
def State.raiseBarrier (s : State) (c : Ctx) (num : Nat) : State :=
  let s := s.modCx c fun x => { x with phases := x.phases.set num (x.phases.get 0 num + 1), engBars := countUp x.engBars num }
  allTileIds.foldl (fun s t => match s.physOf t with
    | some k => s.modTctx k c fun x => { x with barriers := countUp x.barriers num }
    | none => s) s

/-- The attestation result reaches this device, with the completion of GATE or STEP (R209, R211, R345). -/
def State.deliverResult (s : State) (c : Ctx) (gate : Bool) (key : Option AttKey) (marker : Bool) : State :=
  match (s.cxt c).run with
  | none => s
  | some r =>
    let s := if s.kids = [] then s else s.emit (.resultDown c gate key marker)
    let finite := key.isNone && !marker
    if gate then
      if finite then ((s.countPhase c 16).raiseBarrier c 240).modRun c fun r => { r with gateDone := true }
      else (s.dropArb c).modCx c fun x =>
        { x with state := .aborting, run := x.run.map fun r => { r with outcome := some (key, marker) } }
    else
      if r.replaying then
        s.modCx c fun x =>
          { x with state := .running,
                   run := x.run.map fun r => { r with replaying := false, attempt := 2, stepOwn := false, stepKids := [] } }
      else
        ((s.countPhase c 0).raiseBarrier c 241).modCx c fun x =>
          { x with state := if finite then .committing else .aborting,
                   run := x.run.map fun r => { r with outcome := some (key, marker) } }

/-- GATE: with this device's arrival and every child's, the keys and markers go up, or complete GATE at the root (R209,
R345). -/
def State.gateCheck (s : State) (c : Ctx) : State :=
  match (s.cxt c).run with
  | none => s
  | some r =>
    if r.gateOwn && !r.gateDone && s.allKids r.gateKids && decide ((s.cxt c).state = .running) && !r.replaying then
      let k := kidsResult r.gateKids
      let key := minKey (s.cxt c).key k.1
      let m := r.marker || k.2
      if s.isRoot then s.deliverResult c true key m else s.emit (.gateUp c (r.attempt - 1) key m)
    else s

/-- The arrivals of one attempt, by port. -/
def kidsOf (a : Nat) (t : Tbl (Option AttKey × Bool)) : Tbl (Option AttKey × Bool) :=
  (t.filter fun e => e.1 % 2 = a).map fun e => (e.1 / 2, e.2)

/-- STEP, or the arrival that opens the second attempt and carries its ATTEMPT bit: likewise (R345, R394; assumption entry
37). -/
def State.stepCheck (s : State) (c : Ctx) : State :=
  match (s.cxt c).run with
  | none => s
  | some r =>
    let a := if r.replaying then 1 else r.attempt - 1
    let kids := kidsOf a r.stepKids
    if r.stepOwn && s.allKids kids && (r.replaying || decide ((s.cxt c).state = .attesting)) then
      let k := kidsResult kids
      let key := if r.replaying then none else minKey (s.cxt c).key k.1
      let m := r.marker || k.2
      if s.isRoot then s.deliverResult c false key m else s.emit (.stepUp c a key m)
    else s

/-- A tile line has ended: an abandoned attempt may now arrive (R394). -/
def State.lineEnded (s : State) (c : Ctx) : State := (s.sendArrival c).stepCheck c

/-- A FAULT of a step and attempt acts on this device (R331, R345): KIND 0 abandons the step in whichever attempt it is, KIND 1 the first
attempt. -/
def State.actFault (s : State) (c : Ctx) (kind attempt stepLo : Nat) : State :=
  match (s.cxt c).run with
  | none => s
  | some r =>
    if ((s.cxt c).state = .running ∨ (s.cxt c).state = .attesting ∨ (s.cxt c).state = .loading) ∧ r.n % 65536 = stepLo % 65536 then
      if kind = 0 then s.abandon c
      else if attempt = 0 ∧ r.attempt = 1 ∧ r.replaying = false then (s.startReplay c).lineEnded c else s
    else s

/-- A request for a step replay (R393, R395): the record, then a replay marker up the tree, and the attempt is abandoned here; in
the second attempt STEP_LOST. -/
def State.askReplay (s : State) (page : Nat) (c : Ctx) (r : FRec) (cause : Nat) : State :=
  match (s.cxt c).run with
  | none => s
  | some run =>
    if run.attempt = 2 then s.stepLost page c r 2
    else if run.replaying then s
    else
      let rank := (s.cxt c).rank
      let s := s.event page { r with code := 0x0507, ctx := c.num, c0 := cause, c1 := rank, c2 := 0, c3 := 0, c4 := 0, step := run.n }
      (s.faultSend c 1 run.mark).actFault c 1 run.mark.1 run.mark.2

/-! Batch load and the batch digest. -/

/-- Bytes of the INPUT tensors of a micro-batch: local index and offset of each in the buffer (R449). -/
def State.microLayout (s : State) (c : Ctx) (k : Nat) (m : Micro) : List (Nat × Nat) :=
  let idx := sortNat (Config.microInputs (s.cxt c).digest (s.cxt c).rank m.bucket k)
  (idx.foldl (fun (acc : List (Nat × Nat) × Nat) j =>
    (acc.1 ++ [(j, acc.2)], alignUp (acc.2 + (s.desc c j).footLen) 64)) ([], 0)).1

/-- The tiles that hold a copy of a tensor: the physical tiles whose lines name it for SPACE 0, else one (R222, R530). -/
def State.holders (s : State) (c : Ctx) (j : Nat) : List Nat :=
  if (s.desc c j).space = 0 then
    match (s.cxt c).prog with
    | none => []
    | some p => (p.names.filter fun e => e.2.contains j).filterMap fun e => s.physOf ⟨e.1 / 64, e.1 % 64⟩
  else [0]

def CtxSt.env (x : CtxSt) (c : Ctx) (k : Nat) : Env :=
  match x.run with
  | some r => ⟨c, k, x.bankB, r.seed, r.n⟩
  | none => ⟨c, k, x.bankB, 0, 0⟩

/-- One INPUT tensor moved from the batch buffer to its place, poison of host reads with it (R183, R438). -/
def State.loadInput (s : State) (c : Ctx) (j src : Nat) : State :=
  let d := s.desc c j
  let bs := s.hostRead src d.footLen
  let bad := (unitsOf src d.footLen).filter s.host.poison.contains
  (s.holders c j).foldl (fun s k =>
    let v := (s.cxt c).env c k
    let a := ((d.base : Nat) + d.footLo).toNat
    let s := s.spWrite (v.space d) a bs
    s.spMark (v.space d) (bad.flatMap fun u =>
      unitsOf (a + (max (u * 64) src - src)) (min (u * 64 + 64) (src + d.footLen) - max (u * 64) src))) s

/-- The bytes that enter the shard digest (R59). -/
def State.shardBytes (s : State) (c : Ctx) (ms : List Micro) : List Byte :=
  (ms.zip (List.range ms.length)).flatMap fun e =>
    (s.microLayout c e.2 e.1).flatMap fun p => s.hostRead (e.1.addr + p.2) (s.desc c p.1).footLen

def State.countPerms (s : State) (e n : Nat) : State := s.incReg64 (pgSHA e + 0x44) n

/-- SHARD messages of the step that runs, by child port (R331). -/
def CtxSt.shardsNow (x : CtxSt) (r : StepRun) : Tbl (List (Nat × Digest) × Option RefusalMark) :=
  (x.kidShards.filter fun e => e.1 % 65536 = r.n % 65536).map fun e => (e.1 / 65536, e.2)

/-- SHARD messages of other steps. -/
def CtxSt.shardsLater (x : CtxSt) : Tbl (List (Nat × Digest) × Option RefusalMark) := match x.run with
  | some r => x.kidShards.filter fun e => e.1 % 65536 != r.n % 65536
  | none => x.kidShards

/-- SHARD digests and refusals of this device and its children (R188, R345). -/
def State.gathered (s : State) (c : Ctx) (r : StepRun) : List (Nat × Digest) × Option RefusalMark :=
  let x := s.cxt c
  let own := match r.ownShard with
    | some d => [(x.rank, d)]
    | none => []
  (x.shardsNow r).foldl (fun a e =>
    (a.1 ++ e.2.1, match a.2, e.2.2 with
      | none, b => b
      | a, none => a
      | some a, some b => if b.rank < a.rank then some b else some a)) (own, r.refusal)

/-- The step is refused in LOADING: the record, the completion in its reserved slot, READY again, no Almanac record (R187,
R188, R63, R448). -/
def State.refuseStep (s : State) (c : Ctx) (code : Nat) (rank : Nat) (coords : List Nat) : State :=
  match (s.cxt c).run with
  | none => s
  | some r =>
    let s := s.ctxRecord c { code := code, source := 3, c0 := nth 0 0 coords, c1 := nth 0 1 coords,
                             c2 := if code = 0x0811 then 0 else rank, step := r.n }
    let e := cplEntry r.tag 0x10 1 code (s.cxt c).counter noAlm s.host.seq
    (s.cplPush c e).modCx c fun x => { x with state := .ready, run := none, kidShards := x.shardsLater }

/-- B[n] or a refusal arrives (R60, R63, R345): seal[n] is formed and compared, and the lines of the step may issue. -/
def State.deliverBatch (s : State) (c : Ctx) (digest : Digest) (refusal : Option RefusalMark) : State :=
  match (s.cxt c).run with
  | none => s
  | some r =>
    if (s.cxt c).state = .loading then
      let s := if s.kids = [] then s else s.emit (.batchDown c digest refusal)
      match refusal with
      | some m => s.refuseStep c m.code m.rank m.coords
      | none =>
        let x := s.cxt c
        let sl := sha3 (takeD 0#8 32 x.sealOf ++ takeD 0#8 32 x.digest ++ takeD 0#8 32 digest ++ bytesLE 8 r.seed ++ bytesLE 8 r.n)
        let s := s.countPerms 3 1
        match r.expect with
        | some e =>
          if e = sl then
            (s.restartTiles c).modCx c fun x =>
              { x with state := .running, kidShards := x.shardsLater,
                       run := x.run.map fun r => { r with batch := digest, sealD := sl, matched := true } }
          else s.refuseStep c 0x0811 0 []
        | none =>
          (s.restartTiles c).modCx c fun x =>
            { x with state := .running, kidShards := x.shardsLater,
                     run := x.run.map fun r => { r with batch := digest, sealD := sl, matched := false } }
    else s

/-- The concatenation of the shard digests in rank order (R59). -/
def rankOrder (l : List (Nat × Digest)) : List Byte :=
  (sortNat (l.map (·.1))).flatMap fun k => match l.find? (·.1 = k) with
    | some e => e.2
    | none => []

/-- With this device's shard or refusal and every child's SHARD, the gather goes up, or B[n] is formed at the root (R345). -/
def State.shardCheck (s : State) (c : Ctx) : State :=
  match (s.cxt c).run with
  | none => s
  | some r =>
    if (s.cxt c).state = .loading ∧ (r.ownShard.isSome ∨ r.refusal.isSome) ∧ s.allKids ((s.cxt c).shardsNow r) = true then
      let (ds, rf) := s.gathered c r
      if s.isRoot then
        let bs := rankOrder ds
        let s := if rf.isSome then s else s.countPerms 3 (sha3Perms bs.length)
        s.deliverBatch c (if rf.isSome then [] else sha3 bs) rf
      else s.emit (.shardUp c (r.n % 65536) ds rf)
    else s

/-- The batch is loaded: INPUT tensors in place, the shard digest formed and sent (R59, R183). -/
def execBatchLoadComplete (c : Ctx) (s : State) : Host.Outcome State Fault Refusal :=
  .next (match (s.cxt c).run with
  | some r =>
    if (s.cxt c).state = .loading ∧ r.ownShard = none ∧ r.refusal = none ∧ s.host.linkUp = true then
      let bs := s.shardBytes c r.micro
      let s := (r.micro.zip (List.range r.micro.length)).foldl (fun s e =>
        (s.microLayout c e.2 e.1).foldl (fun s p => s.loadInput c p.1 (e.1.addr + p.2)) s) s
      let s := s.countPerms 2 (sha3Perms bs.length)
      (s.modRun c fun r => { r with ownShard := some (sha3 bs) }).shardCheck c
    else s
  | none => s)

/-- The message belongs to a step that the context has left behind (R331). -/
def State.stepPast (s : State) (c : Ctx) (stepLo : Nat) : Bool :=
  let ahead := (stepLo % 65536 + 65536 - (s.cxt c).counter % 65536) % 65536
  decide (ahead = 0) || decide (32768 ≤ ahead)

/-- A SHARD message of a child (R345): one of a later step is held, one of an earlier step is discarded and counted (R331). -/
def execShard (c : Ctx) (child : Nat) (digests : List (Nat × Digest)) (refusal : Option RefusalMark) (s : State) (stepLo : Nat := 0) :
    Host.Outcome State Fault Refusal :=
  .next (if s.kids.contains child then
    if s.stepPast c stepLo then s.countEvent (pgLNK child)
    else (s.modCx c fun x => { x with kidShards := x.kidShards.set (65536 * child + stepLo % 65536) (digests, refusal) }).shardCheck c
  else s)

/-- A BATCH message of the parent (R345). -/
def execBatch (c : Ctx) (digest : Digest) (refusal : Option RefusalMark) (s : State) : Host.Outcome State Fault Refusal :=
  .next (if s.isRoot then s else s.deliverBatch c digest refusal)

/-- A GATE_UP message of a child, of the attempt that runs (R331, R345). -/
def execGateUp (c : Ctx) (child attempt : Nat) (key : Option AttKey) (marker : Bool) (s : State) :
    Host.Outcome State Fault Refusal :=
  .next (if s.kids.contains child then
    (s.modRun c fun r =>
      if r.replaying || decide (attempt ≠ r.attempt - 1) then r
      else { r with gateKids := r.gateKids.set child (key, marker) }).gateCheck c
  else s)

/-- A STEP_UP message of a child: kept by its ATTEMPT bit (R331, R345). -/
def execStepUp (c : Ctx) (child attempt : Nat) (key : Option AttKey) (marker : Bool) (s : State) :
    Host.Outcome State Fault Refusal :=
  .next (if s.kids.contains child then
    (s.modRun c fun r => { r with stepKids := r.stepKids.set (2 * child + attempt % 2) (key, marker) }).stepCheck c
  else s)

/-- A RESULT message of the parent (R345): for a device that waits for it. -/
def execResult (c : Ctx) (gate : Bool) (key : Option AttKey) (marker : Bool) (s : State) : Host.Outcome State Fault Refusal :=
  .next (match (s.cxt c).run with
  | some r =>
    if !s.isRoot && (if gate then r.gateOwn && decide ((s.cxt c).state = .running)
        else r.stepOwn && (r.replaying || decide ((s.cxt c).state = .attesting)))
    then s.deliverResult c gate key marker else s
  | none => s)

/-- A FAULT message: from a child it goes up, or down at once at the root; from the parent it goes down and acts (R345). At
the root a replay request that meets a step fault is dropped. -/
def execFault (c : Ctx) (kind rank : Nat) (fromChild : Bool) (s : State) (attempt stepLo : Nat := 0) : Host.Outcome State Fault Refusal :=
  .next (if fromChild then
    if s.isRoot then
      if kind = 1 ∧ (s.cxt c).state = .aborting then s
      else (s.faultDown c kind rank (attempt, stepLo)).actFault c kind attempt stepLo
    else s.emit (.faultUp c kind rank attempt stepLo)
  else (s.faultDown c kind rank (attempt, stepLo)).actFault c kind attempt stepLo)

/-! Barriers and the step boundary. -/

/-- Tiles that take part in a barrier: those of its BARRIERS entry; every tile for GATE and STEP (R250). -/
def Program.tilesOf (p : Program) (num : Nat) : List TileId :=
  if 240 ≤ num then allTileIds
  else match p.barriers.find? (·.1 = num) with
    | some (_, m, _) => allTileIds.filter fun t => bitAt m (tileKey t)
    | none => []

/-- The ENGINES mask of a barrier's BARRIERS entry (R530). -/
def Program.enginesOf (p : Program) (num : Nat) : Nat := match p.barriers.find? (·.1 = num) with
  | some (_, _, m) => m
  | none => 0

/-- An engine has nothing left of the context: bits 0 to 31 the update engines, 32 and 33 the collective engines, 34 the plate engine, which
runs no line (R250, R530). -/
def State.engineIdle (s : State) (c : Ctx) (e : Nat) : Bool :=
  if e < 32 then s.fab.grads.all fun g => g.ctx != c || g.engine != e
  else s.fab.plans.all fun q => q.1 / 65536 != c.num || q.2.engine + 32 != e || (decide (q.2.parts = []) && q.2.result.isNone)

/-- The engines that take part in a barrier have posted it: GATE once their forward work is done; a program barrier, which only lines post,
has none (R250, R251; assumption entry 22). -/
def State.enginesPosted (s : State) (c : Ctx) (p : Program) (num : Nat) : Bool :=
  (maskBits 64 (p.enginesOf num)).all fun e => decide (num = 240) && s.engineIdle c e

/-- Every participating tile has posted the barrier more often than phases have completed (R250). -/
def State.phaseReady (s : State) (c : Ctx) (p : Program) (num : Nat) : Bool :=
  let n := (s.cxt c).phases.get 0 num
  s.enginesPosted c p num && decide (p.tilesOf num ≠ []) && (p.tilesOf num).all fun t => match s.physOf t with
    | some k => decide (n < (s.tctx k c).posted.get 0 num)
    | none => false

/-- The update and collective engines are at the end of their step programs: no plan of the context delivers to a record and
no shard waits (R250; assumption entry 22). -/
def State.enginesDone (s : State) (c : Ctx) : Bool :=
  (s.fab.plans.all fun e => e.1 / 65536 != c.num || (e.2.parts ++ e.2.later).all fun p => p.record.isNone) &&
    s.fab.grads.all fun g => g.ctx != c

/-- The STEP phase of this device: every tile has issued STEPEND and every line has completed (R242, R246, R250). -/
def State.boundaryReady (s : State) (c : Ctx) : Bool :=
  decide ((s.cxt c).state = .running) && decide (s.runningOf c = []) && s.enginesDone c &&
    (match (s.cxt c).run with
     | some r => !r.replaying
     | none => false) &&
    allTileIds.all fun t => match s.physOf t with
      | some k => (s.tctx k c).ended
      | none => false

/-- The STEP phase completes on this device: ATTESTING, and the arrival goes up (R185, R253, R345). -/
def State.boundary (s : State) (c : Ctx) : State :=
  if s.boundaryReady c then
    ((s.modCx c fun x => { x with state := .attesting }).modRun c fun r => { r with stepOwn := true }).stepCheck c
  else s

def execStepBoundary (c : Ctx) (s : State) : Host.Outcome State Fault Refusal := .next (s.boundary c)

/-- This device's arrival at GATE has gone up in the running attempt. -/
def CtxSt.gateOwn (x : CtxSt) : Bool := match x.run with
  | some r => r.gateOwn
  | none => false

/-- A barrier phase completes (R250): GATE goes to attestation first (R209), STEP to the step boundary. -/
def execMeridianPhaseComplete (c : Ctx) (num : Nat) (s : State) : Host.Outcome State Fault Refusal :=
  .next (match (s.cxt c).prog with
  | none => s
  | some p =>
    if (s.cxt c).state ≠ .running then s
    else if num < 240 then (if s.phaseReady c p num then s.raiseBarrier c num else s)
    else if num = 240 then
      if p.gate && s.phaseReady c p 240 && decide ((s.cxt c).phases.get 0 240 = 0) && !(s.cxt c).gateOwn
      then (s.modRun c fun r => { r with gateOwn := true }).gateCheck c else s
    else if num = 241 then s.boundary c
    else s)

/-! The end of a step. -/

/-- Tokens, flags and traffic of the step end with it (R212, R253). -/
def State.endStep (s : State) (c : Ctx) : State :=
  ((s.restartTiles c).dropTraffic c).modCx c fun x =>
    { x with state := .ready, run := none, nonfinite := [], saturated := [], empty := [], kidShards := x.shardsLater }

/-- Global coordinates of the attested element (R212). -/
def State.keyCoords (s : State) (c : Ctx) (k : AttKey) : List Nat := coordsOf (s.desc c k.cat).gext k.elem

/-- STEP_ABORTED_NONFINITE (R212). -/
def State.nonFiniteRec (s : State) (c : Ctx) (k : AttKey) (n : Nat) : FRec :=
  let x := s.keyCoords c k
  { code := 0x0801, source := 4, cat := k.cat, line := k.line, c0 := nth 0 0 x, c1 := nth 0 1 x, c2 := nth 0 2 x,
    c3 := nth 0 3 x, c4 := nth 0 4 x, step := n }

/-- The device waits for a control message: the result of its attestation at the end or at the gate, the RESULT that opens the second
attempt, or B[n] (R209, R210, R345, R346, R394). -/
def CtxSt.awaits (x : CtxSt) (r : StepRun) : Bool :=
  decide (x.state = .attesting) || (decide (x.state = .running) && ((r.gateOwn && !r.gateDone) || (r.replaying && r.stepOwn))) ||
    (decide (x.state = .loading) && (r.ownShard.isSome || r.refusal.isSome))

/-- ATTEST_TIMEOUT: no result within the limit, or another control message that never arrives: its record with SOURCE 4, and the step aborts
with OUTCOME 0x03 (R210, R346). -/
def execAttestTimeout (c : Ctx) (s : State) : Host.Outcome State Fault Refusal :=
  .next (match (s.cxt c).run with
  | some r =>
    if (s.cxt c).awaits r then
      let s := s.dropArb c
      let s := s.ctxRecord c { code := 0x0805, source := 4, step := r.n }
      let seq := s.host.seq
      s.modCx c fun x =>
        { x with state := .aborting,
                 run := x.run.map fun r => { r with outcome := some (none, true), timedOut := true, replaying := false, faultCode := 0x0805, faultSeq := seq } }
    else s
  | none => s)

/-- The program holds update records, so that its commits switch the bank pointer (R211, R376; assumption entry 23). -/
def CtxSt.hasUpdates (x : CtxSt) : Bool := match x.prog with
  | some p => decide (p.records ≠ [])
  | none => false

/-- Commit actions 1 to 4 (R211, R65, R444). -/
def State.commitStep (s : State) (c : Ctx) (r : StepRun) : State :=
  let s := s.modCx c fun x =>
    { x with bankB := if x.hasUpdates then !x.bankB else x.bankB,
             prev := x.committed.map fun k => (k, r.batch),
             committed := some ⟨r.n, r.sealD, r.seed⟩,
             almFlags := c.num + 4 * b2n r.matched }
  let x := s.cxt c
  let idx := x.almTail
  let s := s.endStep c
  let s := s.almPush c (almBytes r.n r.seed r.batch x.digest r.sealD 0x01 (c.num + 4 * b2n r.matched) x.devices)
  s.cplPush c (cplEntry r.tag 0x10 0 0 r.n idx 0)

end Sys2Proof.Machine
end

