-- ==== Sys2Proof/Machine/Take.lean ====
section
/-! DEFINITION. Taking the entry at the head of a context's command ring (R441, R444 to R448). -/

namespace Sys2Proof.Machine

/-- Field of a payload or header: `n` bytes at `off`, little-endian. -/
def bField (bs : List Byte) (off n : Nat) : Nat := ofBytesLE ((bs.drop off).take n)

/-- All bytes are 0. -/
def zeros (bs : List Byte) : Bool := bs.all (· == 0#8)

/-- The payload of an entry (R444). -/
def entryPayload (e : List Byte) : List Byte := (e.drop 0x10).take 64

/-- A reserved byte of an entry is not 0 (R444). -/
def entryReserved (e : List Byte) : Bool := !(zeros ((e.drop 1).take 3) && zeros ((e.drop 8).take 8) && zeros (e.drop 0x50))

/-- Opcodes of R446. -/
def listedOps : List Nat := [0x01, 0x02, 0x03, 0x10, 0x11, 0x20, 0x21, 0x22, 0x23, 0x30]

/-- The device may take the next entry of the ring: the previous command has completed or is in the background, its completion
entry is out, and the device is up and not in A2 (R445, R448, R487). -/
def State.canTake (s : State) (c : Ctx) : Bool :=
  let x := s.cxt c
  s.ready && s.busUp && decide (s.sys.pstate < 2) && decide (x.fg = none) && x.run.isNone && decide (x.cplWait = [])

/-- The ring head one up. -/
def State.popHead (s : State) (c : Ctx) : State := s.modCx c fun x => { x with cmdHead := idxNext x.cmdHead }

/-- Entries with an opcode that R446 does not list are refused when they come to the head (R447). -/
def State.skipBad (c : Ctx) : Nat → State → State
  | 0, s => s
  | n + 1, s =>
    if s.canTake c then
      match s.headEntry c with
      | none => s
      | some e =>
        if listedOps.contains (entryOp e) then s
        else State.skipBad c n ((s.popHead c).refuse c ⟨bField e 4 4, entryOp e⟩ { code := 0x0809, source := 3 })
    else s

/-- The bound on entries of one ring (R454). -/
def ringMax : Nat := 4096

/-- The command at the head is taken when it is `op` and `ok` holds: refused with CMD_INVALID on a reserved byte, else `f`
with its tag and payload (R445, R447). -/
def State.takeIf (s : State) (c : Ctx) (op : Nat) (ok : State → Bool) (f : State → CmdTag → List Byte → State) : State :=
  let s := State.skipBad c ringMax s
  match s.headEntry c with
  | none => s
  | some e =>
    if s.canTake c && decide (entryOp e = op) && ok s then
      let t : CmdTag := ⟨bField e 4 4, op⟩
      let s := s.popHead c
      State.skipBad c ringMax
        (if entryReserved e then s.refuse c t { code := 0x0809, source := 3 } else f s t (entryPayload e))
    else s

/-- A command refused with a code (R445). -/
def State.refuseCode (s : State) (c : Ctx) (t : CmdTag) (code : Nat) : State := s.refuse c t { code := code, source := 3 }

/-- A range of host bytes lies inside an aperture. -/
def inRange (base size a n : Nat) : Bool := decide (base ≤ a) && decide (a + n ≤ base + size)

def State.inInput (s : State) (c : Ctx) (a n : Nat) : Bool := inRange (s.inBase c) (s.inSize c) a n
def State.inPlates (s : State) (c : Ctx) (a n : Nat) : Bool := inRange (s.pltBase c) (s.pltSize c) a n

end Sys2Proof.Machine
end

