-- ==== Sys2Proof/Machine/Plates.lean ====
section
/-! DEFINITION. Plates (R360 to R379): layout, drains and copies as readers of a bank, host and buddy targets, restore, staged
loads, pair copies; and the commit actions of a step, which wait for readers and start plates (R211, R364, R369). -/

namespace Sys2Proof.Machine

def chunkSize : Nat := 0x100000

/-! Pairs and chunks. -/

/-- Local indices of the pairs of a context's partition, ascending (R360). -/
def State.pairs (s : State) (c : Ctx) : List Nat := match (s.cxt c).prog with
  | some p => (List.range p.ncat).filter fun j => (s.desc c j).kind = 3
  | none => []

/-- How a pair's bank is accessed; a pair in SPACE 0 lies in the store of the lowest tile that uses it. -/
def State.pairEnv (s : State) (c : Ctx) (j : Nat) (bank : Bool) : Env := ⟨c, (s.holders c j).headD 0, bank, 0, 0⟩

/-- Pieces of `n` bytes in chunks of 1 MiB: offset and length. -/
def pieces (n : Nat) : List (Nat × Nat) :=
  (List.range (ceilDiv n chunkSize)).map fun i => (i * chunkSize, min chunkSize (n - i * chunkSize))

/-- Chunks of a list of pairs: pair, offset in the bank, length (R362). -/
def State.chunksFor (s : State) (c : Ctx) (js : List Nat) : List (Nat × Nat × Nat) :=
  js.flatMap fun j => (pieces (s.desc c j).bankBytes).map fun p => (j, p.1, p.2)

/-- Bytes of the data region. -/
def State.plateData (s : State) (c : Ctx) : Nat := ((s.pairs c).map fun j => (s.desc c j).bankBytes).sum

def plateTables (npair nchunk : Nat) : Nat := 0x100 + 32 * npair + 8 * nchunk
def plateOff (npair nchunk : Nat) : Nat := alignUp (plateTables npair nchunk) 4096

/-- Bytes of the whole image (R362). -/
def State.plateTotal (s : State) (c : Ctx) : Nat :=
  plateOff (s.pairs c).length (s.chunksFor c (s.pairs c)).length + s.plateData c

/-- The pair table (R362). -/
def State.pairTable (s : State) (c : Ctx) : List Byte :=
  ((s.pairs c).foldl (fun (acc : List Byte × Nat × Nat) j =>
    let d := s.desc c j
    (acc.1 ++ bytesLE 2 j ++ bytesLE 1 d.fmt ++ bytesLE 5 0 ++ bytesLE 8 d.bankBytes ++ bytesLE 8 acc.2.1 ++ bytesLE 8 acc.2.2,
     acc.2.1 + d.bankBytes, acc.2.2 + (pieces d.bankBytes).length)) ([], 0, 0)).1

/-- The header (R361). -/
def plateHeader (c : Ctx) (flags rank devices npair : Nat) (k : Committed) (prog weight rdigest : Digest)
    (off total nchunk dev : Nat) : List Byte :=
  let b := bytesLE 4 1 ++ bytesLE 1 c.num ++ bytesLE 1 flags ++ bytesLE 2 rank ++ bytesLE 4 devices ++ bytesLE 4 npair ++
    bytesLE 8 k.counter ++ bytesLE 8 k.seed ++ takeD 0#8 32 k.sealD ++ takeD 0#8 32 prog ++ takeD 0#8 32 weight ++
    takeD 0#8 32 rdigest ++ bytesLE 8 off ++ bytesLE 8 total ++ bytesLE 8 nchunk ++ bytesLE 2 dev ++ List.replicate 66 0#8
  b ++ bytesLE 4 (crc32c b)

/-- The device identifier of R339. -/
def State.devId (s : State) : Nat := s.regField (pgLNK 0 + 0x48) 0 16

/-- The bytes of a bank that no element covers are 0 in the plate (R363). -/
def State.plateBytes (s : State) (c : Ctx) (j : Nat) (bank : Bool) (off n : Nat) : List Byte :=
  let d := s.desc c j
  let v := s.pairEnv c j bank
  let lo := d.base + v.off d + off
  let cov := d.allBytes (v.off d)
  ((s.spRead (v.space d) lo n).zip (List.range n)).map fun e => if cov.contains (lo + e.2) then e.1 else 0#8

/-- A poisoned unit lies in a piece of a bank. -/
def State.piecePoison (s : State) (c : Ctx) (j : Nat) (bank : Bool) (off n : Nat) : Bool :=
  let d := s.desc c j
  let v := s.pairEnv c j bank
  s.spPoison (v.space d) (d.base + v.off d + off) n ≠ []

/-! Readers. -/

def State.reader (s : State) (id : Nat) : Option Reader := s.plt.readers.find? (·.id = id)

def State.modReader (s : State) (id : Nat) (f : Reader → Reader) : State :=
  { s with plt.readers := s.plt.readers.map fun r => if r.id = id then f r else r }

def State.dropReader (s : State) (id : Nat) : State := { s with plt.readers := s.plt.readers.filter fun r => r.id != id }

/-- The pair that a chunk of a reader reads: a copy's chunk names a position of its list. -/
def Reader.src (r : Reader) (k : Nat) : Nat := if r.copyTo.isSome then (nth (0, 0) k r.list).1 else k

/-- First chunk that a reader has not read and that holds a byte of a range of a space (R368). -/
def State.unreadAt (s : State) (r : Reader) (p : Space) (a n : Nat) : Option Nat :=
  r.unread.find? fun i =>
    let (k, off, m) := nth (0, 0, 0) i r.chunks
    let j := r.src k
    let d := s.desc r.ctx j
    let v := s.pairEnv r.ctx j r.bank
    let lo := d.base + v.off d + off
    let q := v.space d
    decide (q.sp = p.sp) && (q.sp != 0 || q.tile = p.tile) && (q.sp != 3 || q.ctx = p.ctx) && decide (lo < a + n) && decide (a < lo + m)

/-- Readers that hold back a write of a range; each notes the chunk on which the write waits (R368). -/
def State.holdWrite (s : State) (p : Space) (a n : Nat) : State × Bool :=
  let hit := s.plt.readers.filter fun r => (s.unreadAt r p a n).isSome
  ({ s with plt.readers := s.plt.readers.map fun r =>
      match s.unreadAt r p a n with
      | some i => { r with waiting := if r.waiting.isSome then r.waiting else some i }
      | none => r }, hit ≠ [])

/-- Some reader reads a bank of a context (R369). -/
def State.bankRead (s : State) (c : Ctx) (b : Bool) : Bool := s.plt.readers.any fun r => r.ctx = c && r.bank = b

/-- A reader is cancelled; the command that it serves ends with STATUS 2 (R370, R445; assumption entry 24). -/
def State.cutReader (s : State) (r : Reader) (code seq : Nat) : State :=
  let s := s.dropReader r.id
  match r.copyTo with
  | some d =>
    match (s.cxt d).fg with
    | some t => (s.modCx d fun x => { x with fg := none }).complete d t 2 code noAlm seq
    | none => s
  | none => match r.tag with
    | some t => s.complete r.ctx t 2 code noAlm seq
    | none => s

/-- Readers that `p` selects are cancelled. -/
def State.cutReaders (s : State) (p : Reader → Bool) : State := (s.plt.readers.filter p).foldl (fun s r => s.cutReader r 0 0) s

/-! Drains. -/

/-- Block offset of PLT_HOST_OFF0 and PLT_HOST_OFF1. -/
def State.slotAddr (s : State) (c : Ctx) (i : Nat) : Nat := s.pltBase c + s.reg64 (pltCtx c (if i = 0 then 8 else 0x10))

/-- Ports that carry buddy traffic, and the device that receives it (R366). -/
def State.buddyPorts (s : State) : List Nat := maskBits 12 (s.regField (pgPLT + 0xC0) 16 12)
def State.buddyTo (s : State) : Nat := s.regField (pgPLT + 0xC0) 0 16

/-- The header of a drain's plate as far as it is known: complete only at its end. -/
def State.drainHeader (s : State) (r : Reader) (complete : Bool) : List Byte :=
  let np := (s.pairs r.ctx).length
  let nc := r.chunks.length
  let data := r.got.flatMap (·.2)
  let off := plateOff np nc
  plateHeader r.ctx (b2n complete + 2 * b2n r.weight.isSome + 4 * b2n r.poisoned) r.rank r.devices np r.snap r.pdigest
    (r.weight.getD []) (if r.unread = [] then sha3 data else []) off (off + s.plateData r.ctx) nc s.devId

/-- The chunk table (R362); a chunk not read yet has 0. -/
def chunkTable (r : Reader) : List Byte :=
  (List.range r.chunks.length).flatMap fun i => match r.got.find? (·.1 = i) with
    | some e => bytesLE 8 (crc64 e.2)
    | none => bytesLE 8 0

/-- Offset of chunk i from the start of the data region. -/
def chunkStart (chunks : List (Nat × Nat × Nat)) (i : Nat) : Nat := ((chunks.take i).map (·.2.2)).sum

/-- A drain starts: the header with COMPLETE clear is written first (R364, R365). -/
def State.startDrain (s : State) (c : Ctx) (host : Option Nat) (buddy digest : Bool) (tag : Option CmdTag) : State :=
  match (s.cxt c).committed with
  | none => s
  | some k =>
    let x := s.cxt c
    let chunks := s.chunksFor c (s.pairs c)
    let r : Reader :=
      { id := s.plt.readerNo, ctx := c, bank := x.bankB, copyTo := none, list := [], snap := k, pdigest := x.digest,
        rank := x.rank, devices := x.devices, host := host, buddy := buddy, digest := digest, weight := none, chunks := chunks,
        unread := List.range chunks.length, got := [], poisoned := false, waiting := none, late := [], lateB := [], short := false, tag := tag }
    let s := { s with plt.readers := s.plt.readers ++ [r], plt.readerNo := s.plt.readerNo + 1 }
    let h := s.drainHeader { r with unread := [0] } false
    let s := match host with
      | some i => (s.hostWrite (s.slotAddr c i) h).modCx c fun x =>
          { x with plates := eraseNat i x.plates,
                   newest := if x.newest = some i then (if x.plates.contains (1 - i) then some (1 - i) else none) else x.newest }
      | none => s
    if buddy then s.emit (.buddyHeader s.buddyTo h) else s

/-- A chunk is written to the host slot. -/
def State.hostChunk (s : State) (r : Reader) (i : Nat) : State :=
  match r.host, r.got.find? (·.1 = i) with
  | some slot, some e =>
    s.hostWrite (s.slotAddr r.ctx slot + plateOff (s.pairs r.ctx).length r.chunks.length + chunkStart r.chunks i) e.2
  | _, _ => s

/-- The header and tables that the buddy gets with a chunk: those of the image as far as they are known (R361, R367). -/
def State.buddyLead (s : State) (r : Reader) : List Byte :=
  s.drainHeader r (decide (r.unread = [])) ++ s.pairTable r.ctx ++ chunkTable r

/-- The port of a chunk (R366), where it is up. -/
def State.buddyPort (s : State) (i : Nat) : Option Nat :=
  let ps := s.buddyPorts
  let p := nth 0 (i % ps.length) ps
  if ps ≠ [] ∧ (s.port p).state = 2 then some p else none

/-- A chunk goes to the buddy over the port of its number, the header with the tables before it (R362, R366, R367); it waits while the port is
not up. -/
def State.buddySend (s : State) (r : Reader) (i : Nat) (bs : List Byte) : State :=
  if r.buddy then
    match s.buddyPort i with
    | some p => (s.emit (.buddyHeader s.buddyTo (s.buddyLead r))).emit (.buddyChunk p i bs)
    | none => s.modReader r.id fun r => { r with lateB := insertNat i r.lateB }
  else s

/-- Chunks that a target has not taken go out as far as the targets take them now (R368). -/
def State.flushLate (s : State) (r : Reader) : State :=
  let s := if s.host.linkUp then (r.late.foldl (fun (s : State) i => s.hostChunk r i) s).modReader r.id fun r => { r with late := [] } else s
  r.lateB.foldl (fun (s : State) i =>
    if (s.buddyPort i).isSome then (s.modReader r.id fun r => { r with lateB := eraseNat i r.lateB }).buddySend r i (r.got.get [] i) else s) s

/-- Bytes of the plate engine's buffer in use: the chunks that some target of a drain has not taken (R368). -/
def State.plateHeld (s : State) : Nat :=
  (s.plt.readers.flatMap fun r => (sortNat (r.late ++ r.lateB)).map fun i => (nth (0, 0, 0) i r.chunks).2.2).sum

/-- This device's rank digest of a drain that wants the full weight digest goes up the control tree (R59, R363). -/
def State.digestSend (s : State) (c : Ctx) (stepNo : Nat) (d : Digest) : State :=
  s.emit (.digestUp c stepNo [((s.cxt c).rank, d)])

/-- A drain reads chunk i (R368, R370): its snapshot, its poison, its transfer to the targets. After the last one the rank digest is known. -/
def State.drainChunk (s : State) (r : Reader) (i : Nat) : State :=
  let (j, off, n) := nth (0, 0, 0) i r.chunks
  let bs := s.plateBytes r.ctx j r.bank off n
  let bad := s.piecePoison r.ctx j r.bank off n
  let r := { r with unread := eraseNat i r.unread, got := r.got.set i bs, poisoned := r.poisoned || bad,
                    waiting := if r.waiting = some i then none else r.waiting,
                    late := if r.host.isSome && !s.host.linkUp then insertNat i r.late else r.late }
  let s := (s.readRange ((s.pairEnv r.ctx j r.bank).space (s.desc r.ctx j))
    ((s.desc r.ctx j).base + (s.pairEnv r.ctx j r.bank).off (s.desc r.ctx j) + off) n).modReader r.id fun _ => r
  let s := if s.host.linkUp then s.hostChunk r i else s
  let s := s.buddySend r i bs
  if r.digest && decide (r.unread = []) then s.digestSend r.ctx r.snap.counter (sha3 (r.got.flatMap (·.2))) else s

/-- A copy reads chunk i into the uncommitted bank of the destination (R377), unless a reader of that bank holds it back. -/
def State.copyChunk (s : State) (r : Reader) (dst : Ctx) (i : Nat) : State :=
  let (k, off, n) := nth (0, 0, 0) i r.chunks
  let js := nth (0, 0) k r.list
  let ds := s.desc r.ctx js.1
  let vs := s.pairEnv r.ctx js.1 r.bank
  let dd := s.desc dst js.2
  let vd := s.pairEnv dst js.2 (!(s.cxt dst).bankB)
  let dest := dd.base + vd.off dd + off
  let (s', held) := s.holdWrite (vd.space dd) dest n
  if held then s'
  else
    let lo := ds.base + vs.off ds + off
    let s := s.readRange (vs.space ds) lo n
    let bad := s.spPoison (vs.space ds) lo n
    let s := s.spWrite (vd.space dd) dest (s.spRead (vs.space ds) lo n)
    let s := s.spMark (vd.space dd) (bad.flatMap fun u => unitsOf (dest + (max (u * 64) lo - lo)) (min (u * 64 + 64) (lo + n) - max (u * 64) lo))
    s.modReader r.id fun r =>
      { r with unread := eraseNat i r.unread, waiting := if r.waiting = some i then none else r.waiting }

/-- Some stack halts: drains pause (R313, R370). -/
def State.anyHalt (s : State) : Bool := s.stk.st.any (·.2.halt)

/-- The buffer can hold chunk i of a reader until every target has taken it: 16 MiB for all drains (R368). -/
def State.plateRoom (s : State) (r : Reader) (i : Nat) : Bool :=
  r.copyTo.isSome || decide (s.plateHeld + (nth (0, 0, 0) i r.chunks).2.2 ≤ 0x1000000)

/-- The next chunk of a reader: first one on which a write waits, else the lowest unread one (R368). -/
def State.readChunk (s : State) (r : Reader) : State :=
  match (if r.waiting.isSome then r.waiting else r.unread.head?) with
  | none => s
  | some i => if r.unread.contains i && s.plateRoom r i then
      (match r.copyTo with
       | some dst => s.copyChunk r dst i
       | none => s.drainChunk r i)
    else s

/-- PLATE_CHUNK_READ: what the targets take now goes out, then the next chunk is read, while the buffer has room (R368). -/
def execPlateChunkRead (reader : Nat) (s : State) : Host.Outcome State Fault Refusal :=
  .next (match s.reader reader with
  | none => s
  | some r =>
    if s.anyHalt then s
    else
      let s := s.flushLate r
      match s.reader reader with
      | some r => s.readChunk r
      | none => s)

/-- A drain ends: the chunks still held, the tables and the header with COMPLETE go to the host slot; the plate counts as
complete, and vector 67 + 16c signals (R365, R450, R515). -/
def State.drainEnd (s : State) (r : Reader) : State :=
  let s := s.dropReader r.id
  let s := match r.host with
    | some slot =>
      let base := s.slotAddr r.ctx slot
      let s := r.late.foldl (fun (s : State) i => s.hostChunk r i) s
      let s := s.hostWrite (base + 0x100) (s.pairTable r.ctx ++ chunkTable r)
      (s.hostWrite base (s.drainHeader r true)).modCx r.ctx fun x => { x with newest := some slot, plates := insertNat slot x.plates }
    | none => s
  let s := if r.short then s else s.modCx r.ctx fun x => { x with completed := (x.completed + 1) % 65536 }
  let s := s.signal (67 + 16 * r.ctx.num)
  match r.tag with
  | some t => s.done r.ctx t
  | none => s

/-- PLATE_DRAIN_COMPLETE: every chunk read, the buddy half ended, the digest gathered where it is wanted. -/
def execPlateDrainComplete (reader : Nat) (s : State) : Host.Outcome State Fault Refusal :=
  .next (match s.reader reader with
  | none => s
  | some r =>
    if r.copyTo.isNone && decide (r.unread = []) && !r.buddy && (!r.digest || r.weight.isSome) &&
        (r.host.isNone || s.host.linkUp)
    then s.drainEnd r else s)

/-- PLT_WAIT_LIMIT: readers of the context's banks on which a write waits are cancelled with PLATE_ABANDONED (R370). -/
def execPltWaitLimit (c : Ctx) (s : State) : Host.Outcome State Fault Refusal :=
  .next ((s.plt.readers.filter fun r => r.ctx = c ∧ r.waiting.isSome).foldl (fun s r =>
    let s := s.event pgPLT { code := 0x0826, ctx := c.num, die := 9, unit := 9, step := r.snap.counter }
    s.cutReader r 0x0826 s.host.seq) s)

/-! Buddy plates. -/

/-- The buddy half of a plate ends without success: PLATE_TARGET_FAIL (R367, R379). -/
def State.targetFail (s : State) (r : Reader) : State :=
  let s := s.modReader r.id fun r => { r with buddy := false, lateB := [], short := true }
  (s.event pgPLT { code := 0x0827, ctx := r.ctx.num, die := 9, unit := 9, step := r.snap.counter }).signal (67 + 16 * r.ctx.num)

/-- BUDDY_ACK: the receiver's answer for the oldest buddy plate of the context in progress (R367). -/
def execBuddyAck (c : Ctx) (ok : Bool) (s : State) : Host.Outcome State Fault Refusal :=
  .next (match s.plt.readers.find? fun r => r.ctx = c ∧ r.buddy with
  | none => s
  | some r =>
    if ok then (if r.unread = [] then s.modReader r.id fun r => { r with buddy := false } else s)
    else s.targetFail r)

def State.rxBase (s : State) (slot : Nat) : Nat := s.reg64 (pgPLT + 0xC8) + slot * s.reg64 (pgPLT + 0xD0)

/-- Header fields of a plate image. -/
def phPairs (h : List Byte) : Nat := bField h 0x0C 4
def phStep (h : List Byte) : Nat := bField h 0x10 8
def phOff (h : List Byte) : Nat := bField h 0xA0 8
def phTotal (h : List Byte) : Nat := bField h 0xA8 8
def phChunks (h : List Byte) : Nat := bField h 0xB0 8

/-- The chunks that a pair table describes: pair, offset, bytes. -/
def phTable (h : List Byte) : List (Nat × Nat × Nat) :=
  (List.range (phPairs h)).flatMap fun i =>
    let e := 0x100 + 32 * i
    (pieces (bField h (e + 8) 8)).map fun p => (bField h e 2, p.1, p.2)

/-- CRC-64 of chunk i in an image's chunk table. -/
def phCrc (h : List Byte) (i : Nat) : Nat := bField h (0x100 + 32 * phPairs h + 8 * i) 8

/-- The header with other FLAGS and its CRC. -/
def withFlags (h : List Byte) (flags : Nat) : List Byte :=
  let b := h.take 5 ++ bytesLE 1 flags ++ (h.drop 6).take (0xFC - 6)
  b ++ bytesLE 4 (crc32c b)

/-- A plate's context and step as its header names them. -/
def phId (h : List Byte) : Nat × Nat := (bField h 4 1 % 4, phStep h)

/-- The receiver ends the buddy plate that it receives without success; later chunks of it are not taken (R367). -/
def State.rxFail (s : State) (rx : BuddyRx) : State :=
  { s with plt.rx := none, plt.rxEnded := some (rx.sender, phId rx.header) }.emit (.buddyAck false)

/-- A plate that is not yet being received: its slot, and the header with COMPLETE clear (R365, R367). -/
def State.rxStart (s : State) (sender : Nat) (h : List Byte) : State :=
  let slot := if s.plt.rxComplete = [] then 0 else 1 - s.plt.rxNewest
  let rx : BuddyRx := ⟨sender, slot, h, List.range (phTable h).length, []⟩
  let s := { s with plt.rx := some rx, plt.rxComplete := eraseNat slot s.plt.rxComplete }
  s.stkWrite (s.rxBase slot) (withFlags h 0)

/-- The last chunk checked good: the tables, then the header with COMPLETE and BUDDY; the sender gets its acknowledgement. -/
def State.rxEnd (s : State) (rx : BuddyRx) : State :=
  let h := rx.header
  let base := s.rxBase rx.slot
  let s := s.stkWrite (base + 0x100) ((h.drop 0x100).take (32 * phPairs h + 8 * phChunks h))
  let s := s.stkWrite base (withFlags h (bField h 5 1 ||| 0x09))
  { s with plt.rx := none, plt.rxComplete := insertNat rx.slot s.plt.rxComplete, plt.rxNewest := rx.slot }.emit (.buddyAck true)

/-- One chunk of the plate being received (R367, R405). -/
def State.rxChunk (s : State) (rx : BuddyRx) (i : Nat) (data : List Byte) : State :=
  let h := rx.header
  let (s, hit) := s.injectFires pgPLT 1
  let n := (nth (0, 0, 0) i (phTable h)).2.2
  if !hit && decide (data.length = n) && decide (crc64 data = phCrc h i) then
    let s := s.stkWrite (s.rxBase rx.slot + phOff h + chunkStart (phTable h) i) data
    let rx := { rx with missing := eraseNat i rx.missing }
    if rx.missing = [] then s.rxEnd rx else { s with plt.rx := some rx }
  else
    let t := rx.tries.get 0 i + 1
    if 4 ≤ t then s.rxFail rx
    else { s with plt.rx := some { rx with tries := rx.tries.set i t } }.emit (.buddyAsk i)

/-- The header of the newest complete plate again, with what the sender learned after its last chunk (R361, R363). -/
def State.rxHeader (s : State) (header : List Byte) : State :=
  s.stkWrite (s.rxBase s.plt.rxNewest) (withFlags header (bField header 5 1 ||| 0x09))

/-- The complete plate in a slot is the one that a header describes. -/
def State.rxHolds (s : State) (header : List Byte) : Bool :=
  let h := s.stkRead (s.rxBase s.plt.rxNewest) 0x100
  s.plt.rxComplete.contains s.plt.rxNewest && decide (phId h = phId header) && decide ((h.drop 0x20).take 64 = (header.drop 0x20).take 64)

/-- BUDDY_CHUNK_RECEIVE: `header` is the sender's header with its tables as they stand (R367); refused in A2 (R487), from another sender and
of a plate too large, which leaves a plate being received alone. A number past the last chunk brings the final header alone. -/
def execBuddyChunkReceive (sender : Nat) (header : List Byte) (chunk : Nat) (data : List Byte) (s : State) :
    Host.Outcome State Fault Refusal :=
  .next (
    let same := match s.plt.rx with
      | some rx => decide (rx.sender = sender) && decide (phId rx.header = phId header)
      | none => false
    if s.sys.pstate = 2 ∨ sender ≠ s.regField (pgPLT + 0xC4) 0 16 ∨ s.reg64 (pgPLT + 0xD0) < phTotal header then
      match s.plt.rx with
      | some rx => if same then s.rxFail rx else s.emit (.buddyAck false)
      | none => s.emit (.buddyAck false)
    else if s.plt.rxEnded = some (sender, phId header) then s
    else if (phTable header).length ≤ chunk then (if !same && s.rxHolds header then s.rxHeader header else s)
    else
      let s := if same then s else { s.rxStart sender header with plt.rxEnded := none }
      match s.plt.rx with
      | some rx => if rx.missing.contains chunk then s.rxChunk { rx with header := header } chunk data else s
      | none => s)

/-- The complete buddy slot with a rank, context and step, the newest first (R372). -/
def State.heldPlate (s : State) (rank : Nat) (c : Ctx) (stepNo : Nat) : Option Nat :=
  ([s.plt.rxNewest, 1 - s.plt.rxNewest].filter fun k => s.plt.rxComplete.contains k).find? fun k =>
    let h := s.stkRead (s.rxBase k) 0x100
    decide (bField h 6 2 = rank) && decide (bField h 4 1 % 4 = c.num) && decide (phStep h = stepNo)

/-- The drain whose buddy half sends the plate that a request names. -/
def State.sending (s : State) (rank : Nat) (c : Ctx) (stepNo : Nat) : Option Reader :=
  s.plt.readers.find? fun r => r.ctx = c && r.copyTo.isNone && r.buddy && decide (r.rank = rank) && decide (r.snap.counter = stepNo)

/-- RESTORE_CHUNK_REQUEST: the holder answers on the port of the request (R373), reading its slot in the stacks; a number past the last chunk
asks for the header and its tables (assumption entry 25). The receiver of a buddy plate under way asks the sender in the same way for a chunk
that it has found bad (R367; assumption entry 24). -/
def execRestoreChunkRequest (port rank : Nat) (c : Ctx) (stepNo chunk : Nat) (s : State) : Host.Outcome State Fault Refusal :=
  .next (match s.sending rank c stepNo with
  | some r =>
    if chunk < r.chunks.length then (if r.unread.contains chunk then s else s.buddySend r chunk (r.got.get [] chunk))
    else s.emit (.buddyHeader s.buddyTo (s.buddyLead r))
  | none => match s.heldPlate rank c stepNo with
  | none => s.emit (.chunkSend port chunk [])
  | some k =>
    let base := s.rxBase k
    let h0 := s.stkRead base 0x100
    let h := s.stkRead base (plateTables (phPairs h0) (phChunks h0))
    if chunk < phChunks h0 then
      (s.readRange ⟨2, 0, c⟩ (base + phOff h0 + chunkStart (phTable h) chunk) (nth (0, 0, 0) chunk (phTable h)).2.2).emit (.chunkSend port chunk (s.stkRead (base + phOff h0 + chunkStart (phTable h) chunk) (nth (0, 0, 0) chunk (phTable h)).2.2))
    else s.emit (.chunkSend port chunk h))

/-! PLATE. -/

/-- The host slot holds a plate of the context's program. -/
def State.slotFits (s : State) (c : Ctx) (i : Nat) : Bool := s.inPlates c (s.slotAddr c i) (s.plateTotal c)

/-- The slot of an on-demand plate: the one not holding the newest complete plate (R365). -/
def State.freeSlot (s : State) (c : Ctx) : Nat := match (s.cxt c).newest with
  | some 0 => 1
  | _ => 0

/-- PLATE after it is taken (R364, R369, R446). -/
def State.plateCmd (s : State) (c : Ctx) (t : CmdTag) (p : List Byte) : State :=
  let f := bField p 0 1
  let host := bitAt f 0
  let buddy := bitAt f 1 && decide (s.buddyTo ≠ 0xFFFF)
  if (s.cxt c).state ≠ .ready ∨ 8 ≤ f ∨ zeros (p.drop 1) = false then s.refuseCode c t 0x0809
  else if (s.cxt c).committed = none ∨ 2 ≤ (s.drainsOf c).length ∨
      ((s.drainsOf c).any fun r => r.bank = (s.cxt c).bankB) = true then s.refuseCode c t 0x0825
  else if !host && !buddy then s.done c t
  else if host && !s.slotFits c (s.freeSlot c) then s.refuseCode c t 0x0808
  else s.startDrain c (if host then some (s.freeSlot c) else none) buddy (bitAt f 2) (some t)

def execPlate (c : Ctx) (s : State) : Host.Outcome State Fault Refusal := .next (s.takeIf c 0x20 (fun _ => true) fun s => s.plateCmd c)

/-! RESTORE. -/

/-- Drains and copies of the context end (R370). -/
def State.cutContext (s : State) (c : Ctx) : State := s.cutReaders fun r => r.ctx = c || r.copyTo = some c

/-- A running staged load of the context ends without success. -/
def State.cutStage (s : State) (c : Ctx) : State :=
  match s.plt.restoring.find? (·.1 = c.num) with
  | some (_, r) => { s with plt.restoring := s.plt.restoring.drop (· = c.num) }.complete c r.tag 2 0 noAlm 0
  | none => s

/-- The pair table of an image lists exactly the pairs of the partition with equal FORMAT and BYTES, and its layout is that of
R362 (R372). -/
def State.tableMatches (s : State) (c : Ctx) (h : List Byte) : Bool :=
  decide (phPairs h = (s.pairs c).length) && decide ((h.drop 0x100).take (32 * phPairs h) = s.pairTable c) &&
    decide (phChunks h = (s.chunksFor c (s.pairs c)).length) && decide (phOff h = plateOff (phPairs h) (phChunks h)) &&
    decide (phTotal h = s.plateTotal c)

/-- The header checks of R372 apart from POISONED and CHECK_DIGEST. -/
def State.headerMatches (s : State) (c : Ctx) (p h : List Byte) : Bool :=
  let x := s.cxt c
  decide (0x100 ≤ h.length) && decide (bField h 0xFC 4 = crc32c (h.take 0xFC)) && bitAt (bField h 5 1) 0 &&
    decide (bField h 0 4 = 1) && decide (bField h 4 1 = c.num) && decide (bField h 6 2 = x.rank) &&
    decide (bField h 8 4 = x.devices) && decide ((h.drop 0x40).take 32 = takeD 0#8 32 x.digest) &&
    decide (phStep h = bField p 0 8) &&
    (!bitAt (bField p 0x15 1) 2 || decide ((p.drop 0x20).take 32 = (h.drop 0x20).take 32)) && s.tableMatches c h

/-- Chunk i of a buddy restore is asked for, round robin over PORTS, its tries counted on; the request names the holder and the plate (R371
to R373). -/
def State.askChunk (s : State) (c : Ctx) (r : Restoring) (i : Nat) : State :=
  if r.ports = [] then s
  else s.emit (.chunkAsk (nth 0 ((i + r.tries.get 0 i) % r.ports.length) r.ports) r.holder (s.cxt c).rank c (phStep r.header) i)

/-- RESTORE after it is taken: `reply` is the header with its tables that a buddy holder sent (R371, R372, R376). -/
def State.restoreCmd (s : State) (c : Ctx) (reply : List Byte) (t : CmdTag) (p : List Byte) : State :=
  let x := s.cxt c
  let f := bField p 0x15 1
  let stage := bitAt f 0
  let src := bField p 0x14 1
  let addr := bField p 8 8
  if x.state ≠ .ready ∨ 8 ≤ f ∨ 2 ≤ src ∨ 0x1000 ≤ bField p 0x12 2 ∨ zeros ((p.drop 0x16).take 10) = false then s.refuseCode c t 0x0809
  else if stage ∧ (x.hasUpdates ∨ s.plt.restoring.any (·.1 = c.num)) then s.refuseCode c t 0x0825
  else
    let lead := plateTables (s.pairs c).length (s.chunksFor c (s.pairs c)).length
    let h := if src = 0 then s.hostRead addr lead else reply
    if src = 0 ∧ s.inPlates c addr 0x100 = false ∧ s.inInput c addr 0x100 = false then s.refuseCode c t 0x0808
    else if !s.headerMatches c p h then s.refuseCode c t 0x0821
    else if bitAt (bField h 5 1) 2 then s.refuseCode c t 0x0822
    else if bitAt f 1 && !bitAt (bField h 5 1) 1 then s.refuseCode c t 0x0821
    else if src = 0 ∧ s.inPlates c addr (phTotal h) = false ∧ s.inInput c addr (phTotal h) = false then s.refuseCode c t 0x0808
    else
      let s := (s.cutContext c).cutStage c
      let chunks := phTable h
      let r : Restoring :=
        { stage := stage, check := bitAt f 1, buddy := decide (src = 1), addr := addr, header := h, chunks := chunks,
          holder := bField p 0x10 2, ports := maskBits 12 (bField p 0x12 2),
          missing := List.range chunks.length, tries := [], data := [], tag := t, weightOk := none, failed := 0 }
      let s := { s with plt.restoring := s.plt.restoring.set c.num r }
      let s := s.modCx c fun x => { x with fg := if stage then none else some t, staged := none }
      if src = 1 then (List.range chunks.length).foldl (fun s i => s.askChunk c r i) s else s

def execRestore (c : Ctx) (reply : List Byte) (s : State) : Host.Outcome State Fault Refusal :=
  .next (s.takeIf c 0x21 (fun _ => true) fun s => s.restoreCmd c reply)

def State.restoringOf (s : State) (c : Ctx) : Option Restoring := (s.plt.restoring.find? (·.1 = c.num)).map (·.2)

/-- A restore whose fault record has been written ends; the committed state is unchanged (R373, R444). -/
def State.restoreEnd (s : State) (c : Ctx) (r : Restoring) (code : Nat) : State :=
  let seq := s.host.seq
  let s := { s with plt.restoring := s.plt.restoring.drop (· = c.num) }
  let s := if r.stage then s else s.modCx c fun x => { x with fg := none }
  State.skipBad c ringMax (s.complete c r.tag 2 code noAlm seq)

/-- A restore ends with a fault (R373). -/
def State.restoreFail (s : State) (c : Ctx) (r : Restoring) (code : Nat) : State :=
  (s.ctxRecord c { code := code, source := 2, die := 9, unit := 9, step := (s.cxt c).counter }).restoreEnd c r code

/-- Chunk i of a restore, as it arrives: from the image in host memory, or the data of the buddy's answer; and the first poisoned unit that
it reads (R438). -/
def State.restoreChunk (s : State) (r : Restoring) (i : Nat) (data : List Byte) : List Byte × Option Nat :=
  if r.buddy then (data, none)
  else
    let a := r.addr + phOff r.header + chunkStart r.chunks i
    let n := (nth (0, 0, 0) i r.chunks).2.2
    (s.hostRead a n, (unitsOf a n).find? s.host.poison.contains)

/-- A poisoned plate has no recovery: POISON_CONSUMED, and the restore ends (R398, R400, R403). -/
def State.restorePoison (s : State) (c : Ctx) (r : Restoring) (u : Nat) : State :=
  (s.killHw pgPLT c { code := 0x050B, die := 9, unit := 9, c0 := u * 64 % 2 ^ 32, c1 := u * 64 / 2 ^ 32, c2 := 3 }).restoreEnd c r 0x050B

/-- The rank digest of the data received. -/
def Restoring.rankDigest (r : Restoring) : Digest := sha3 (r.data.flatMap (·.2))

/-- RESTORE_CHUNK_ARRIVAL: a good chunk is written into the uncommitted bank once no reader holds it back; a bad one is fetched
again, and the fourth failure ends the restore (R373). -/
def execRestoreChunkArrival (c : Ctx) (chunk : Nat) (data : List Byte) (s : State) : Host.Outcome State Fault Refusal :=
  .next (match s.restoringOf c with
  | none => s
  | some r =>
    if !r.missing.contains chunk || (!r.buddy && !s.host.linkUp) then s
    else
      let (bs, bad) := s.restoreChunk r chunk data
      let (j, off, n) := nth (0, 0, 0) chunk r.chunks
      match bad with
      | some u => s.restorePoison c r u
      | none =>
      if decide (bs.length = n) && decide (crc64 bs = phCrc r.header chunk) then
        let d := s.desc c j
        let v := s.pairEnv c j (!(s.cxt c).bankB)
        let a := d.base + v.off d + off
        let (s', held) := s.holdWrite (v.space d) a n
        if held then s'
        else
          let s := s.spWrite (v.space d) a bs
          let r := { r with missing := eraseNat chunk r.missing, data := r.data.set chunk bs }
          let s := { s with plt.restoring := s.plt.restoring.set c.num r }
          if r.check && decide (r.missing = []) then s.digestSend c (phStep r.header) r.rankDigest else s
      else
        let t := r.tries.get 0 chunk + 1
        if 4 ≤ t then s.restoreFail c r 0x0823
        else
          let r := { r with tries := r.tries.set chunk t }
          let s := { s with plt.restoring := s.plt.restoring.set c.num r }
          if r.buddy then s.askChunk c r chunk else s)

/-- The rank digest of a drain's data. -/
def Reader.gotDigest (r : Reader) : Digest := sha3 (r.got.flatMap (·.2))

/-- The digests of a gather are those of every rank of the run: N of them, this device's own in its rank's place (R363). -/
def State.gatherAll (s : State) (c : Ctx) (own : Digest) (digests : List (Nat × Digest)) : Option (List (Nat × Digest)) :=
  let all := ((s.cxt c).rank, own) :: digests.filter fun e => e.1 != (s.cxt c).rank
  if (List.range (s.cxt c).devices).all fun k => all.any (·.1 = k) then some (all.filter fun e => decide (e.1 < (s.cxt c).devices)) else none

/-- A drain waits for the gathered digests of its step (R363). -/
def Reader.wants (r : Reader) (c : Ctx) (stepNo : Nat) : Bool :=
  r.ctx = c && r.copyTo.isNone && r.digest && decide (r.unread = []) && r.weight.isNone && decide (r.snap.counter = stepNo)

/-- RANK_DIGEST_GATHER: the digests of all ranks at a step form the full weight digest, for a drain of the step that wants it and for a
restore of the step with CHECK_DIGEST (R363, R373). `digests` is what the control tree brought. A buddy target then gets the final header
(R361). -/
def execRankDigestGather (c : Ctx) (digests : List (Nat × Digest)) (s : State) (stepNo : Nat := 0) : Host.Outcome State Fault Refusal :=
  .next (
    let full (own : Digest) : Option Digest := (s.gatherAll c own digests).map fun l => sha3 (rankOrder l)
    let waits := s.plt.readers.filter fun r => r.wants c stepNo
    let s := waits.foldl (fun (s : State) r => s.modReader r.id fun r => { r with weight := full r.gotDigest }) s
    let s := waits.foldl (fun (s : State) r => match s.reader r.id with
      | some r => if r.buddy && r.weight.isSome then s.emit (.buddyHeader s.buddyTo (s.buddyLead r)) else s
      | none => s) s
    match s.restoringOf c with
    | some r =>
      if r.check && decide (r.missing = []) && decide (phStep r.header = stepNo) && (full r.rankDigest).isSome then
        { s with plt.restoring := s.plt.restoring.set c.num
                   { r with weightOk := some (full r.rankDigest == some ((r.header.drop 0x60).take 32)) } }
      else s
    | none => s)

/-- The committed state that a plate's header names. -/
def Restoring.state (r : Restoring) : Committed := ⟨phStep r.header, (r.header.drop 0x20).take 32, bField r.header 0x18 8⟩

/-- The digests of a restore whose chunks have all arrived: none while the gather is out, else whether they match (R373). -/
def Restoring.verdict (r : Restoring) : Option Bool :=
  if r.missing ≠ [] then none
  else if r.rankDigest ≠ (r.header.drop 0x80).take 32 then some false
  else if r.check then r.weightOk
  else some true

/-- RESTORE_COMPLETE (R373): pointer, counter, seed and seal, sticky flags, completion. -/
def execRestoreComplete (c : Ctx) (s : State) : Host.Outcome State Fault Refusal :=
  .next (match s.restoringOf c with
  | none => s
  | some r =>
    if r.stage then s
    else match r.verdict with
      | none => s
      | some false => s.restoreFail c r 0x0824
      | some true =>
        let s := { s with plt.restoring := s.plt.restoring.drop (· = c.num) }
        let s := s.modCx c fun x =>
          { x with bankB := !x.bankB, committed := some r.state, prev := none, nonfinite := [], saturated := [], empty := [],
                   fg := none }
        State.skipBad c ringMax (s.done c r.tag))

/-- STAGE_COMPLETE (R376): the banks are written; SWITCH may follow. -/
def execStageComplete (c : Ctx) (s : State) : Host.Outcome State Fault Refusal :=
  .next (match s.restoringOf c with
  | none => s
  | some r =>
    if !r.stage then s
    else match r.verdict with
      | none => s
      | some false => s.restoreFail c r 0x0824
      | some true =>
        let s := { s with plt.restoring := s.plt.restoring.drop (· = c.num) }
        (s.modCx c fun x => { x with staged := some r.state }).done c r.tag)

/-- SWITCH after it is taken (R376). -/
def State.switchCmd (s : State) (c : Ctx) (t : CmdTag) (p : List Byte) : State :=
  if (s.cxt c).state ≠ .ready ∨ zeros p = false then s.refuseCode c t 0x0809
  else match (s.cxt c).staged with
    | none => s.refuseCode c t 0x0825
    | some k =>
      (s.modCx c fun x => { x with bankB := !x.bankB, committed := some k, staged := none, prev := none }).done c t

def execSwitch (c : Ctx) (s : State) : Host.Outcome State Fault Refusal := .next (s.takeIf c 0x22 (fun _ => true) fun s => s.switchCmd c)

/-! Pair copies. -/

/-- The entries of a list tensor: source and destination index (R377). -/
def State.copyList (s : State) (c : Ctx) (j : Nat) : List (Nat × Nat) :=
  let d := s.desc c j
  let bs := s.footBytes ⟨c, (s.holders c j).headD 0, false, 0, 0⟩ d
  (List.range (bs.length / 4)).map fun i => (bField bs (4 * i) 2, bField bs (4 * i + 2) 2)

/-- An entry names two pairs of equal format, extents and BANK_BYTES (R377). -/
def State.copyOk (s : State) (src dst : Ctx) (e : Nat × Nat) : Bool :=
  let a := s.desc src e.1
  let b := s.desc dst e.2
  (s.pairs src).contains e.1 && (s.pairs dst).contains e.2 && decide (a.fmt = b.fmt) && decide (a.ext = b.ext) &&
    decide (a.bankBytes = b.bankBytes)

/-- PAIRCOPY after it is taken (R377). -/
def State.pairCopyCmd (s : State) (c : Ctx) (t : CmdTag) (p : List Byte) : State :=
  let sn := bField p 0 1
  let j := bField p 2 2
  if 4 ≤ sn ∨ zeros ((p.drop 1).take 1) = false ∨ zeros (p.drop 4) = false then s.refuseCode c t 0x0809
  else
    let src := ctxOfNat sn
    let d := s.desc c j
    let list := s.copyList c j
    match (s.cxt src).committed with
    | none => s.refuseCode c t 0x0825
    | some k =>
      if (s.cxt c).state ≠ .ready ∨ src = c ∨ (s.cxt c).prog.isNone = true ∨ d.kind ≠ 1 ∨ d.fmt ≠ 0xF ∨
          ((s.cxt c).prog.any fun q => decide (j < q.ncat)) = false ∨ (list.all (s.copyOk src c)) = false
      then s.refuseCode c t 0x0825
      else
        let chunks := (List.range list.length).flatMap fun i =>
          (pieces (s.desc src (nth (0, 0) i list).1).bankBytes).map fun q => (i, q.1, q.2)
        let x := s.cxt src
        let r : Reader :=
          { id := s.plt.readerNo, ctx := src, bank := x.bankB, copyTo := some c, list := list, snap := k, pdigest := x.digest,
            rank := x.rank, devices := x.devices, host := none, buddy := false, digest := false, weight := none, chunks := chunks,
            unread := List.range chunks.length, got := [], poisoned := false, waiting := none, late := [], lateB := [], short := false, tag := some t }
        { s with plt.readers := s.plt.readers ++ [r], plt.readerNo := s.plt.readerNo + 1 }.modCx c
          fun x => { x with fg := some t, staged := none }

def execPairCopy (c : Ctx) (s : State) : Host.Outcome State Fault Refusal :=
  .next (s.takeIf c 0x23 (fun _ => true) fun s => s.pairCopyCmd c)

/-- PAIRCOPY_COMPLETE: the destination's pointer, counter, seed and seal (R377). -/
def execPairCopyComplete (c : Ctx) (s : State) : Host.Outcome State Fault Refusal :=
  .next (match s.plt.readers.find? (·.copyTo = some c) with
  | none => s
  | some r =>
    if r.unread = [] then
      match (s.cxt c).fg with
      | none => s.dropReader r.id
      | some t =>
        let s := (s.dropReader r.id).modCx c fun x =>
          { x with bankB := !x.bankB, committed := some r.snap, prev := none, fg := none }
        State.skipBad c ringMax (s.done c t)
    else s)

/-! The abort. -/

/-- What an aborted step leaves unspecified (R208, Example 6.1): the uncommitted banks that its update records wrote, but for bytes that a
reader has yet to read, since a write of them waits (R368); and, after an abort by fault, its work tensors. -/
def State.abortKeys (s : State) (c : Ctx) (byFault : Bool) : List Nat :=
  let x := s.cxt c
  let n := match x.prog with
    | some p => p.ncat
    | none => 0
  (List.range n).flatMap fun j =>
    let d := s.desc c j
    if d.kind = 3 && x.hasUpdates then (s.holders c j).flatMap fun k =>
      let v : Env := { x.env c k with bankB := !x.bankB }
      ((d.allBytes (v.off d)).filter fun a => s.plt.readers.all fun r => (s.unreadAt r (v.space d) a 1).isNone).map (v.space d).byteKey
    else if d.kind = 0 && byFault then (s.holders c j).flatMap fun k =>
      (d.allBytes 0).map ((x.env c k).space d).byteKey
    else []

/-- Abort actions (R212, R210): the record, in-flight work discarded, flags cleared, the Almanac record with SEAL = seal[n-1],
the completion. While the Almanac ring cannot be reached no record is written, and the completion waits (R67, R435). -/
def State.abortStep (s : State) (c : Ctx) (r : StepRun) (key : Option AttKey) (marker : Bool) : State :=
  let s := s.loseKeys (s.abortKeys c (key.isNone || marker))
  let (s, code, outcome) := match key, marker with
    | some k, false => (s.ctxRecord c (s.nonFiniteRec c k r.n), 0x0801, 0x02)
    | _, _ => (s, r.faultCode, 0x03)
  let seq := if outcome = 0x02 then s.host.seq else r.faultSeq
  let x := s.cxt c
  if s.host.linkUp then
    let idx := x.almTail
    let s := s.almPush c (almBytes r.n r.seed r.batch x.digest x.sealOf outcome (c.num + 4 * b2n r.matched) x.devices)
    let s := s.endStep c
    s.cplPush c (cplEntry r.tag 0x10 2 code (s.cxt c).counter idx seq)
  else
    (s.endStep c).modCx c fun x => { x with cplWait := x.cplWait ++ [cplEntry r.tag 0x10 2 code x.counter noAlm seq] }

/-- STEP_ABORT: once the lines that ran have completed (R208, R212). The record of a step without a fault waits for the PCIe link (R435). -/
def execStepAbort (c : Ctx) (s : State) : Host.Outcome State Fault Refusal :=
  .next (match (s.cxt c).run with
  | some r =>
    if (s.cxt c).state = .aborting ∧ s.runningOf c = [] then
      match r.outcome with
      | some (k, m) => if s.host.linkUp || k.isNone || m then s.abortStep c r k m else s
      | none => s.abortStep c r none true
    else s
  | none => s)

/-! The commit. -/

/-- PLT_CFG of a context: HOST_K, BUDDY_K, DIGEST (R364). -/
def State.cadence (s : State) (c : Ctx) : Nat × Nat × Bool :=
  let v := s.reg (pltCtx c 0)
  (field v 0 8, field v 8 8, bitAt v 16)

/-- The plates of step m start (R364, R365). -/
def State.cadencePlates (s : State) (c : Ctx) (m : Nat) : State :=
  let (hk, bk, dg) := s.cadence c
  let host := hk ≠ 0 ∧ m % hk = 0
  let buddy := bk ≠ 0 ∧ m % bk = 0 ∧ s.buddyTo ≠ 0xFFFF
  if host ∨ buddy then s.startDrain c (if host then some (m / hk % 2) else none) (decide buddy) (dg && decide host) none else s

/-- STEP_COMMIT: on a finite result, once no reader reads the bank that the step wrote (R211, R369); its record waits for the PCIe link
(R435). -/
def execStepCommit (c : Ctx) (s : State) : Host.Outcome State Fault Refusal :=
  .next (match (s.cxt c).run with
  | some r =>
    if s.host.linkUp = true ∧ (s.cxt c).state = .committing ∧ ((s.cxt c).hasUpdates && s.bankRead c (!(s.cxt c).bankB)) = false then
      State.skipBad c ringMax ((s.commitStep c r).cadencePlates c r.n)
    else s
  | none => s)

end Sys2Proof.Machine
end

