-- ==== Sys2Proof/Machine/Commands.lean ====
section
/-! DEFINITION. Doorbells (R443), context control (R452 to R454), and the commands ARM, DISARM, STEP and REVERT (R186, R187,
R214, R446, R449). -/

namespace Sys2Proof.Machine

/-! Doorbells. -/

/-- An ignored doorbell write (R443). -/
def State.dbRange (s : State) : State := s.errBit pgHST 3

/-- CMD_TAIL: entries may wait up to the ring's size (R443). -/
def State.writeCmdTail (s : State) (c : Ctx) (idx : Nat) : State :=
  if s.ringSize c 0 < ringUsed (s.cxt c).cmdHead idx then s.dbRange
  else State.skipBad c ringMax (s.modCx c fun x => { x with cmdTail := idx })

def execCmdTail (c : Ctx) (idx : W32) (s : State) : Host.Outcome State Fault Refusal :=
  .next (s.access fun s => s.writeCmdTail c idx.toNat)

/-- A head doorbell: freed completion slots take the waiting entries (R443, R448). -/
def State.writeHead (s : State) (r : Ring) (idx : Nat) : State :=
  match r with
  | .cpl c =>
    if s.ringSize c 4 < ringUsed idx (s.cxt c).cplTail then s.dbRange
    else State.skipBad c ringMax (State.flushCpl c ringMax (s.modCx c fun x => { x with cplHead := idx }))
  | .alm c =>
    if s.ringSize c 8 < ringUsed idx (s.cxt c).almTail then s.dbRange else s.modCx c fun x => { x with almHead := idx }
  | .flt c =>
    if s.ringSize c 12 < ringUsed idx (s.cxt c).fltTail then s.dbRange else s.modCx c fun x => { x with fltHead := idx }
  | .evt => if s.evtSize < ringUsed idx s.host.evtTail then s.dbRange else { s with host.evtHead := idx }

def execRingHead (r : Ring) (idx : W32) (s : State) : Host.Outcome State Fault Refusal :=
  .next (s.access fun s => s.writeHead r idx.toNat)

/-! Context reset. -/

/-- The registers whose row `p` selects return to their reset values. -/
def State.dropRegs (s : State) (p : Nat → RegRow → Bool) : State :=
  let f (a : Nat) : Bool := match regRow a with
    | some r => p a r
    | none => false
  { s with regs := s.regs.drop f, latch := s.latch.drop f }

/-- The Coelostat of the device ends; check unit 15 gets its registers back (R431, R491). -/
def State.endCoel (s : State) : State := match s.fab.coel with
  | none => s
  | some k => k.saved.foldl (fun s e => s.setReg e.1 e.2.toNat) { s with fab.coel := none }

/-- Lines of a context leave a tile; its banks, tokens, registers and Ephemeris lines are cleared (R491). -/
def TileSt.wipeCtx (t : TileSt) (c : Ctx) (lo n : Nat) : TileSt :=
  { t with cx := modAt (fun _ => TileCtx.reset) c.num t.cx, running := t.running.filter fun r => r.ctx != c,
           banks := t.banks.map fun e => if (e.2.tag.map (·.ctx)) = some c then (e.1, Bank.empty) else e,
           eph := t.eph.drop fun k => decide (lo ≤ k) && decide (k < lo + n) }

/-- EPH_REGION_BASE and SIZE of a context on a C-die (R241). -/
def State.ephBase (s : State) (d : Nat) (c : Ctx) : Nat := s.reg (pgEPH d + 0x40 + 8 * c.num)
def State.ephSize (s : State) (d : Nat) (c : Ctx) : Nat := s.reg (pgEPH d + 0x44 + 8 * c.num)

/-- The bytes that the running lines of a context write. -/
def State.outKeys (s : State) (c : Ctx) : List Nat := (s.runningOf c).flatMap (·.writes)

/-- Everything that CTX clears outside the context's own registers and rings (R491); the outputs of its running lines hold
unspecified bytes (R135, R179). -/
def State.wipeCtx (s : State) (c : Ctx) : State :=
  let s := s.loseKeys (s.outKeys c)
  let donors := (s.tiles.filter fun e => e.2.running.any fun r => r.ctx = c && r.unit = .pass).map (·.1)
  let s := s.cutReaders fun r => decide (r.ctx = c) && r.copyTo.isSome && decide (r.copyTo ≠ some c)
  let s := { s with plt.readers := s.plt.readers.filter fun r => !(r.ctx = c || r.copyTo = some c),
                    plt.restoring := s.plt.restoring.drop (· = c.num) }
  let s : State := match s.fab.coel with
    | some k => if k.ctx = c then s.endCoel else s
    | none => s
  let s := s.dropTraffic c
  let lo := s.catBase c
  let hi := s.catBase c + s.catSize c
  let s := { s with fab.plans := s.fab.plans.drop (fun k => decide (k / 65536 = c.num)),
                    catalogue := s.catalogue.drop (fun k => decide (lo ≤ k) && decide (k < hi)) }
  let base (k : Nat) : Nat := s.ephBase (k / 48) c
  let size (k : Nat) : Nat := s.ephSize (k / 48) c
  { s with dies := s.dies.map (fun (e : Nat × DieSt) =>
             (e.1, { e.2 with collQ := e.2.collQ.filter (fun q => q.2.2.1 != c), powerQ := e.2.powerQ.filter fun q => q.2 != c })),
           tiles := s.tiles.map (fun (e : Nat × TileSt) =>
             let t := e.2.wipeCtx c (base e.1) (size e.1)
             (e.1, { t with helping := t.helping.filter fun h => !donors.contains h.1 })) }

/-- The context itself after CTX: IDLE, nothing loaded, the ring emptied; committed state and ring indices kept (R182, R454,
R491, R515). -/
def CtxSt.wiped (x : CtxSt) : CtxSt :=
  { x with state := .idle, loaded := false, armed := false, paused := false, cmdHead := x.cmdTail, prog := none, prev := none,
           run := none, fg := none, nonfinite := [], saturated := [], empty := [], newest := none, plates := [], completed := 0,
           staged := none, kidShards := [], phases := [], engBars := [] }

/-- A context reset (R182, R454, R491). -/
def State.ctxWipe (s : State) (c : Ctx) : State :=
  let s := (s.wipeCtx c).modCx c CtxSt.wiped
  s.dropRegs fun _ r => r.ctx && r.owner = some c.num

/-- A write of HST_CTX_CTRL (R452 to R454). -/
def State.ctxCtrl (s : State) (c : Ctx) (v : Nat) : State :=
  if bitAt v 0 then s.ctxWipe c
  else if bitAt v 1 && bitAt v 2 then s
  else if bitAt v 1 then
    { s with dies := s.dies.map fun (e : Nat × DieSt) => (e.1, { e.2 with powerQ := e.2.powerQ.filter fun q => q.2 != c }) }.modCx c
      fun x => { x with paused := true }
  else if bitAt v 2 then s.modCx c fun x => { x with paused := false }
  else s

/-- A write of HST_CTX_CTRL that carries bit b. -/
def State.ctxWrite (s : State) (c : Ctx) (v b : Nat) : State := if bitAt v b then s.access fun s => s.ctxCtrl c v else s

def execCtxReset (c : Ctx) (v : W32) (s : State) : Host.Outcome State Fault Refusal := .next (s.ctxWrite c v.toNat 0)

def execPause (c : Ctx) (v : W32) (s : State) : Host.Outcome State Fault Refusal := .next (s.ctxWrite c v.toNat 1)

def execResume (c : Ctx) (v : W32) (s : State) : Host.Outcome State Fault Refusal := .next (s.ctxWrite c v.toNat 2)

/-! ARM and DISARM. -/

/-- Two ranges of bytes meet. -/
def meet (a n b m : Nat) : Bool := decide (a < b + m) && decide (b < a + n) && decide (0 < n) && decide (0 < m)

/-- Start and length of what a descriptor occupies: both banks of a pair (R228), the slot of a stash companion (R225). -/
def Desc.print (d : Desc) : Nat × Nat :=
  if d.kind = 5 then (d.base, recField d.word 0x10 8)
  else (((d.base : Nat) + d.footLo).toNat, if d.kind = 3 then 2 * d.bankBytes else d.footLen)

/-- SPACE 2 footprints of a context's descriptors: start and length (R366). -/
def State.stackPrints (s : State) (c : Ctx) : List (Nat × Nat) := match (s.cxt c).prog with
  | none => []
  | some p => ((List.range p.ncat).filter fun j => (s.desc c j).space = 2).map fun j =>
      (s.desc c j).print

/-- Staging regions of a context's plans (R348, R366). -/
def State.stagePrints (s : State) (c : Ctx) (reg : Nat → Nat × Nat) : List (Nat × Nat) := match (s.cxt c).prog with
  | none => []
  | some p => p.plans.map reg

/-- The buddy slots of this device are usable: inside the map, apart from every footprint (R366). -/
def State.rxOk (s : State) (c : Ctx) (reg : Ctx → Nat → Nat × Nat) : Bool :=
  let base := s.rxBase 0
  let n := 2 * s.reg64 (pgPLT + 0xD0)
  decide (base + n ≤ s.privBase) &&
    (allCtx.filter fun d => d = c || (s.cxt d).armed).all fun d =>
      (s.stackPrints d ++ s.stagePrints d (reg d)).all fun e => !meet e.1 e.2 base n

/-- The staging region of a plan record, STAGE_BASE and STAGE_BYTES (R347, R348). -/
def State.planStage (s : State) (c : Ctx) (j : Nat) : Nat × Nat :=
  let bs := s.footBytes ⟨c, (s.holders c j).headD 0, false, 0, 0⟩ (s.desc c j)
  (bField bs 0x10 8, bField bs 0x18 8)

/-- PLATE_CONFIG at arm (R364, R366). -/
def State.plateConfigBad (s : State) (c : Ctx) : Bool :=
  let (hk, bk, _) := s.cadence c
  (decide (bk ≠ 0) && decide (c ≠ .train)) ||
  (decide (hk ≠ 0) && !(s.slotFits c 0 && s.slotFits c 1 &&
    !meet (s.slotAddr c 0) (s.plateTotal c) (s.slotAddr c 1) (s.plateTotal c))) ||
  (decide (bk ≠ 0) && decide (s.reg64 (pgPLT + 0xD0) < s.plateTotal c)) ||
  !s.rxOk c (fun d j => s.planStage d j)

/-- ARM after it is taken (R446, R364, R366). -/
def State.armCmd (s : State) (c : Ctx) (t : CmdTag) (p : List Byte) : State :=
  let x := s.cxt c
  let at' := bField p 0 4
  let st := bField p 4 4
  let pw := bField p 8 4
  if x.state ≠ .idle ∨ x.loaded = false ∨ at' = 0 ∨ 10000 < at' ∨ 60000 < st ∨ 10000 < pw ∨ zeros (p.drop 0xC) = false
  then s.refuseCode c t 0x0809
  else if s.plateConfigBad c then s.refuseCode c t 0x0820
  else
    (s.modCx c fun x =>
      { x with state := .ready, armed := true, attestMs := at', stallMs := if st = 0 then 1000 else st,
               pltWaitMs := if pw = 0 then 1000 else pw, prev := none }).done c t

def execArm (c : Ctx) (s : State) : Host.Outcome State Fault Refusal := .next (s.takeIf c 0x02 (fun _ => true) fun s => s.armCmd c)

/-- DISARM after it is taken: IDLE, program and committed state kept (R446). -/
def State.disarmCmd (s : State) (c : Ctx) (t : CmdTag) (p : List Byte) : State :=
  if (s.cxt c).state ≠ .ready ∨ zeros p = false then s.refuseCode c t 0x0809
  else (s.modCx c fun x => { x with state := .idle, armed := false, prev := none }).done c t

def execDisarm (c : Ctx) (s : State) : Host.Outcome State Fault Refusal :=
  .next (s.takeIf c 0x03 (fun _ => true) fun s => s.disarmCmd c)

/-! STEP. -/

/-- The micro-batch entries of a manifest in host memory (R449). -/
def State.microEntries (s : State) (a n : Nat) : List (Micro × Bool) :=
  (List.range n).map fun i =>
    let e := s.hostRead (a + 64 + 32 * i) 32
    (⟨bField e 0 4, bField e 4 2, bField e 8 8, bField e 0x10 8⟩, zeros ((e.drop 6).take 2) && zeros (e.drop 0x18))

/-- The bucket of a micro-batch: LENGTH and NEED. -/
def Program.bucket (p : Program) (m : Micro) : Option (Nat × Nat) := p.buckets[m.bucket]?

/-- The first check of R187, R439 and R449 that a STEP command fails: code and coordinates. -/
def State.stepFault (s : State) (c : Ctx) (p : List Byte) : Option (Nat × List Nat) :=
  let n := bField p 0 8
  let man := bField p 0x30 8
  let micro := bField p 0x38 2
  let counterOk := match (s.cxt c).committed with
    | some k => decide (n = k.counter + 1)
    | none => false
  if !counterOk then some (0x0804, [])
  else if micro = 0 ∨ 4096 < micro ∨ 2 ≤ bField p 0x3A 1 ∨ zeros (p.drop 0x3B) = false then some (0x0804, [])
  else if !s.inInput c man (64 + 32 * micro) then some (0x0808, [])
  else
    let h := s.hostRead man 64
    let ms := s.microEntries man micro
    match (s.cxt c).prog with
    | none => some (0x0804, [])
    | some q =>
      if bField h 0 8 ≠ n ∨ bField h 8 2 ≠ micro ∨ zeros (h.drop 0xA) = false ∨ ms.any (fun m => !m.2) = true ∨
          ms.any (fun m => match q.bucket m.1 with
            | some b => decide (m.1.bytes < b.2)
            | none => false) = true
      then some (0x0804, [])
      else
        match (ms.zip (List.range micro)).find? fun e => match q.bucket e.1.1 with
            | some b => decide (b.1 < e.1.1.length)
            | none => true with
        | some e => some (0x0803, [e.2, e.1.1.length])
        | none => if ms.all fun m => s.inInput c m.1.addr m.1.bytes then none else some (0x0808, [])

/-- STEP after it is taken: LOADING, with this device's refusal if a check failed (R185, R187, R188). -/
def State.stepCmd (s : State) (c : Ctx) (t : CmdTag) (p : List Byte) : State :=
  if (s.cxt c).state ≠ .ready then s.refuseCode c t 0x0809
  else
    let bad := s.stepFault c p
    let x := s.cxt c
    let micro := if bad.isSome then [] else (s.microEntries (bField p 0x30 8) (bField p 0x38 2)).map (·.1)
    let r : StepRun :=
      { n := bField p 0 8, seed := bField p 8 8,
        expect := if bitAt (bField p 0x3A 1) 0 then some ((p.drop 0x10).take 32) else none,
        micro := micro, tag := t.tag, attempt := 1, ownShard := none,
        refusal := bad.map fun b => ⟨b.1, x.rank, b.2⟩,
        batch := [], sealD := [], matched := false, marker := false, faultCode := 0, faultSeq := 0, gateKids := [],
        gateOwn := false, gateDone := false, stepKids := [], stepOwn := false, outcome := none, timedOut := false,
        replaying := false }
    (s.modCx c fun x => { x with state := .loading, run := some r, prev := none }).shardCheck c

/-- A STEP at the ring head may be taken (R446, R448, R453, R265, R402): both slots free, no pause, no rotation requested, no
Coelostat, full capacity. A STEP in another state than READY is taken and refused. -/
def State.stepTakeable (s : State) (c : Ctx) : Bool :=
  decide ((s.cxt c).state ≠ .ready) ||
    (decide (0 < s.almFree c) && decide (0 < s.cplFree c) && !(s.cxt c).paused && !s.thr.rotWanted && s.fab.coel.isNone &&
      !s.sys.capacity && s.dies.all fun e => e.2.migrating.isNone)

def execStep (c : Ctx) (s : State) : Host.Outcome State Fault Refusal :=
  .next (s.takeIf c 0x10 (fun s => s.stepTakeable c) fun s => s.stepCmd c)

/-! REVERT. -/

/-- REVERT after it is taken (R214). -/
def State.revertCmd (s : State) (c : Ctx) (t : CmdTag) (p : List Byte) : State :=
  let x := s.cxt c
  if x.state ≠ .ready ∨ zeros p = false then s.refuseCode c t 0x0809
  else match x.prev, x.committed with
    | some (k, batch), some cur =>
      let s := s.cutReaders fun r => decide (r.ctx = c) && r.copyTo.isNone && decide (r.snap.counter = cur.counter) &&
        decide (r.bank = x.bankB)
      let s := s.modCx c fun x =>
        { x with bankB := if x.hasUpdates then !x.bankB else x.bankB, committed := some k, prev := none }
      let idx := (s.cxt c).almTail
      let s := s.almPush c (almBytes cur.counter cur.seed batch x.digest k.sealD 0x04 x.almFlags x.devices)
      s.complete c t 0 0 idx 0
    | _, _ => s.refuseCode c t 0x0804

/-- REVERT reserves its slots as STEP does (R448). -/
def execRevert (c : Ctx) (s : State) : Host.Outcome State Fault Refusal :=
  .next (s.takeIf c 0x11 (fun s => decide ((s.cxt c).state ≠ .ready) || (decide (0 < s.almFree c) && decide (0 < s.cplFree c)))
    fun s => s.revertCmd c)

end Sys2Proof.Machine
end

