-- ==== Sys2Proof/Machine/March.lean ====
section
/-! DEFINITION. The march tests of the memories (R407, R408): elements, operations, data backgrounds, the run over a cell, and the
failing reads of a test in the order in which the march meets them. -/

namespace Sys2Proof.Machine

/-- An operation of an element: a write or a read, of "0" (the background) or "1" (its complement). -/
structure MarchOp where
  write : Bool
  one : Bool
  deriving DecidableEq, Repr

/-- An element: its address order (⇕ is ascending) and the operations on each word. -/
structure MarchEl where
  down : Bool
  ops : List MarchOp
  deriving DecidableEq, Repr

def opR0 : MarchOp := ⟨false, false⟩
def opR1 : MarchOp := ⟨false, true⟩
def opW0 : MarchOp := ⟨true, false⟩
def opW1 : MarchOp := ⟨true, true⟩

/-- March C- (R408). -/
def marchC : List MarchEl :=
  [⟨false, [opW0]⟩, ⟨false, [opR0, opW1]⟩, ⟨false, [opR1, opW0]⟩, ⟨true, [opR0, opW1]⟩, ⟨true, [opR1, opW0]⟩, ⟨false, [opR0]⟩]

/-- March SS (R408). -/
def marchSS : List MarchEl :=
  [⟨false, [opW0]⟩, ⟨false, [opR0, opR0, opW0, opR0, opW1]⟩, ⟨false, [opR1, opR1, opW1, opR1, opW0]⟩,
   ⟨true, [opR0, opR0, opW0, opR0, opW1]⟩, ⟨true, [opR1, opR1, opW1, opR1, opW0]⟩, ⟨false, [opR0]⟩]

/-- The algorithm that ALGO selects (R420). -/
def march (algo : Nat) : List MarchEl := if algo = 0 then marchC else marchSS

/-- Bit j of the physical word under background b; code and poison bits continue the numbering (R408). -/
def background (b j : Nat) : Bool := decide (b ≠ 0) && bitAt j (b - 1)

/-- Least n with w at most 2^n. -/
def clog2 (w : Nat) : Nat := if w ≤ 1 then 0 else (w - 1).log2 + 1

/-- Banks, words of a bank, data bits and physical bits of a word (R407, R408, R411), where the manual gives them: the tile store and the
Ephemeris store (256 data bits, no code of its own given). -/
def testWords (mem : Nat) : Option (Nat × Nat × Nat × Nat) :=
  if mem = 1 then some (32, 4096, 512, 577) else if mem = 2 then some (4, 4096, 256, 256) else none

/-- Spare rows and columns of a bank (R412). -/
def testSpares (mem : Nat) : Nat × Nat :=
  if mem = 1 ∨ mem = 2 then (4, 4) else if mem = 4 then (8, 4) else if mem = 5 ∨ mem = 6 then (4, 0) else (0, 0)

/-- Every operation on a word, by element and place in it, in the order of the run. -/
def marchOps (els : List MarchEl) : List (Nat × Nat × MarchOp) :=
  ((List.range els.length).zip els).flatMap fun e => ((List.range e.2.ops.length).zip e.2.ops).map fun o => (e.1, o.1, o.2)

/-- The run over one cell: a write stores its pattern, a read returns the content, inverted where the hardware fails; the reads that return
another value than the expected one, by element and operation, with that value (R408, R411). -/
def cellRun (bg : Bool) (upset : Nat → Nat → Bool) : Bool → List (Nat × Nat × MarchOp) → List (Nat × Nat × Bool)
  | _, [] => []
  | c, (e, i, o) :: t =>
    if o.write then cellRun bg upset (bg ^^ o.one) t
    else
      let v := c ^^ upset e i
      (if v = (bg ^^ o.one) then [] else [(e, i, v)]) ++ cellRun bg upset c t

/-- A cell under one background of one run of the march. -/
def sameCell (f g : BstFailure) : Bool :=
  decide (f.die = g.die ∧ f.inst = g.inst ∧ f.mem = g.mem ∧ f.bank = g.bank ∧ f.word = g.word ∧ f.bit = g.bit ∧ f.background = g.background)

/-- The cell and background lie inside the memory, where its size is given. -/
def inMemory (f : BstFailure) : Bool :=
  match testWords f.mem with
  | some (banks, words, w, bits) => decide (f.bank < banks ∧ f.word < words ∧ f.bit < bits ∧ f.background ≤ clog2 w)
  | none => decide (f.background < 16)

/-- A failing read and the value that it returned. -/
abbrev BadRead := BstFailure × Bool

/-- The failing reads of one cell under one background, of those that the hardware upsets. -/
def badReads (algo : Nat) (upsets : List BstFailure) (f : BstFailure) : List BadRead :=
  (cellRun (background f.background f.bit)
    (fun e i => upsets.any fun g => sameCell f g && decide (g.element = e ∧ g.op = i)) false (marchOps (march algo))).map
    fun r => ({ f with element := r.1, op := r.2.1 }, r.2.2)

/-- Where the march meets a failing read: background, element, word in the element's order, operation; the banks run in parallel. -/
def marchPlace (algo : Nat) (f : BstFailure) : Nat :=
  let down := (nth ⟨false, []⟩ f.element (march algo)).down
  let word := if down then 2 ^ 32 - 1 - f.word % 2 ^ 32 else f.word % 2 ^ 32
  ((((f.background * 8 + f.element) * 2 ^ 32 + word) * 16 + f.op) * 256 + f.bank) * 1024 + f.bit

/-- Insertion by place, after equals. -/
def placeIn (algo : Nat) (r : BadRead) : List BadRead → List BadRead
  | [] => [r]
  | a :: t => if marchPlace algo r.1 < marchPlace algo a.1 then r :: a :: t else a :: placeIn algo r t

/-- The cells named by a list of upset reads, each once. -/
def cellsOf (l : List BstFailure) : List BstFailure :=
  l.foldl (fun acc f => if acc.any (sameCell f) then acc else acc ++ [f]) []

/-- The failing reads of a run of the march over every word, given the reads that the hardware upsets; a cell that the list does not name
returns every read as expected. -/
def marchFails (algo : Nat) (upsets : List BstFailure) : List BadRead :=
  let l := upsets.filter inMemory
  ((cellsOf l).flatMap (badReads algo l)).foldl (fun acc r => placeIn algo r acc) []

end Sys2Proof.Machine
end

