-- ==== Sys2Proof/Machine/Rotation.lean ====
section
/-! DEFINITION. Built-in self-test results and repair (R407 to R415), due tiles, rotation points and migration (R265, R266, R402,
R416 to R419). -/

namespace Sys2Proof.Machine

/-! Results of a test. -/

/-- Memory instance of a failure. -/
def bstKey (f : BstFailure) : Nat × Nat × Nat := (f.mem, f.die, f.inst)

/-- Tile of a record: the position for the memories of a tile. -/
def bstTile (f : BstFailure) : Nat := if f.mem ≤ 3 then f.inst else 0xFF

/-- COORD0 of a self-test record (R411). -/
def bstC0 (f : BstFailure) : Nat := f.mem + 256 * f.bank

/-- COORD1: the byte address of a tile-store word (R26), the word index of another memory. -/
def bstC1 (f : BstFailure) : Nat := if f.mem = 1 then (f.word * 32 + f.bank) * 64 else f.word

/-- BST_FAIL for the first 64 failures of each memory instance; the others are counted (R411). -/
def State.bstFails (s : State) : List (Nat × Nat × Nat) → List BadRead → State
  | _, [] => s
  | seen, (f, v) :: t =>
    let s := s.setReg (pgBST f.die + 0x44) (s.reg (pgBST f.die + 0x44) ||| 2)
    let s := if 64 ≤ (seen.filter (· == bstKey f)).length then s.countEvent (pgBST f.die)
      else s.event (pgBST f.die)
        { code := 0x0307, die := f.die, tile := bstTile f, c0 := bstC0 f, c1 := bstC1 f, c2 := f.bit,
          c3 := f.background + 16 * f.element + 256 * f.op, c4 := b2n v }
    State.bstFails s (bstKey f :: seen) t

/-! Rung 1 of R412: spare rows, then spare columns. A row is a word, a column a bit of the words of a bank (assumption entry 62). -/

/-- Bank of a failure. -/
def failBank (f : BstFailure) : Nat × Nat × Nat × Nat := (f.mem, f.die, f.inst, f.bank)

/-- Spares of kind `fixed` (1 rows, 2 columns) of the bank that earlier repairs have taken (R412). -/
def State.sparesUsed (s : State) (f : BstFailure) (fixed : Nat) : Nat :=
  (s.stk.repair.filter fun e => decide (e.action = 0x40 + fixed ∧ e.stack = f.die ∧ e.channel = f.inst ∧ e.bank = f.mem ∧ e.pool = f.bank)).length

/-- The spares that the failures of a bank take in turn, kind and number, and whether they cover every failure: a failure in a row or column
already taken needs none, the next takes a spare row while one is left, then a spare column. -/
def assignSpares (rows cols : Nat) : List BstFailure → List (Nat × Nat) → List (Nat × Nat) × Bool
  | [], l => (l, true)
  | f :: t, l =>
    if l.contains (1, f.word) || l.contains (2, f.bit) then assignSpares rows cols t l
    else if (l.filter (·.1 = 1)).length < rows then assignSpares rows cols t (l ++ [(1, f.word)])
    else if (l.filter (·.1 = 2)).length < cols then assignSpares rows cols t (l ++ [(2, f.bit)])
    else (l, false)

/-- The spares for the failures of f's bank, and whether rung 1 covers them. -/
def State.bankSpares (s : State) (fs : List BstFailure) (f : BstFailure) : List (Nat × Nat) × Bool :=
  assignSpares ((testSpares f.mem).1 - s.sparesUsed f 1) ((testSpares f.mem).2 - s.sparesUsed f 2)
    (fs.filter fun g => failBank g == failBank f) []

/-- A repair by a spare row or column (R412, R421). -/
def State.bstRepair (s : State) (f : BstFailure) (fixed number : Nat) : State :=
  let all := if fixed = 1 then (testSpares f.mem).1 else (testSpares f.mem).2
  let s := s.repairAdd ⟨0x40 + fixed, f.die, f.inst, f.mem, number, f.bank⟩
  s.event (pgBST f.die)
    { code := 0x0308, die := f.die, tile := bstTile f, c0 := bstC0 f, c1 := fixed, c2 := number, c3 := all - s.sparesUsed f fixed }

/-- BST_RETIRED with its entry in the repair map (R412). -/
def State.bstRetire (s : State) (die tile mem kind number : Nat) : State :=
  let s := s.event (pgBST die) { code := 0x0309, die := die, tile := tile, c0 := mem, c1 := kind, c2 := number }
  s.repairAdd ⟨0x43, die, kind, mem, number, 0xFFFF⟩

/-- A physical tile goes out of use. -/
def State.tileUnusable (s : State) (k : Nat) : State :=
  s.modRole k fun r => { r with state := 3, lt := 0x3F, due := false }

/-- The exclusion of what an entry or failure names (R412, R413): a tile, a Reserve granule, a port, the capacity of the
device. -/
def State.exclude (s : State) (die kind number : Nat) : State :=
  if kind = 1 then s.tileUnusable (48 * die + number)
  else if kind = 2 then { s with rsv.excluded := insertNat number s.rsv.excluded }
  else if kind = 3 then s.modPort number fun p => { p with state := 3 }
  else { s with sys.capacity := true }

/-- Kind and number of the exclusion for a failure that no redundancy covers (R412): granule 8m + bank/16 of 32 MiB. -/
def bstRung (f : BstFailure) : Nat × Nat :=
  if f.mem ≤ 3 then (1, f.inst)
  else if f.mem = 4 then (2, 8 * (f.die - 4) + f.bank / 16)
  else if f.mem ≤ 6 then (3, f.inst)
  else (4, f.die)

/-- Repairs and exclusions after a run of the march: a bank that rung 1 covers is repaired, another takes the next rung, each exclusion
once (R412). -/
def State.bstFix (s : State) (l : List BstFailure) : State :=
  let banks := l.foldl (fun (acc : List BstFailure) f => if acc.any fun g => failBank g == failBank f then acc else acc ++ [f]) []
  let good := banks.filter fun f => (s.bankSpares l f).2
  let s' := good.foldl (fun s f => (s.bankSpares l f).1.foldl (fun s e => s.bstRepair f e.1 e.2) s) s
  let out := ((banks.filter fun f => !(s.bankSpares l f).2).map fun f => (f.die, bstTile f, f.mem, bstRung f)).eraseDups
  out.foldl (fun s e => (s.bstRetire e.1 e.2.1 e.2.2.1 e.2.2.2.1 e.2.2.2.2).exclude e.1 e.2.2.2.1 e.2.2.2.2) s'

/-- The runs of a test (R408, R411, R412): the failing reads of a run are recorded and repaired; after a repair the march runs again over the
repaired memories. `seen` names the memory of each failure so far. -/
def State.bstRuns (algo : Nat) : Nat → Nat → List (Nat × Nat × Nat) → List BstFailure → State → State
  | 0, _, _, _, s => s
  | n + 1, r, seen, fs, s =>
    let bad := marchFails algo (fs.filter (·.run = r))
    let l := bad.map (·.1)
    if l = [] then s
    else
      let s' := (State.bstFails s seen bad).bstFix l
      let again := fs.filter fun f => l.any (fun g => bstKey g == bstKey f) &&
        l.all (fun g => bstKey g != bstKey f || (s.bankSpares l g).2)
      State.bstRuns algo n (r + 1) (l.map bstKey ++ seen) again s'

/-- The march of a test under an algorithm, with the reads that the hardware upsets. -/
def State.bstTest (s : State) (algo : Nat) (fs : List BstFailure) : State :=
  State.bstRuns algo (fs.foldl (fun m f => max m f.run) 0 + 1) 0 [] fs s

/-- A failed logic test makes the tile unusable (R409, R412). -/
def State.bstLogic (s : State) (k : Nat) : State :=
  let s := s.setReg (pgBST (k / 48) + 0x44) (s.reg (pgBST (k / 48) + 0x44) ||| 2)
  (s.bstRetire (k / 48) (k % 48) 0 1 (k % 48)).tileUnusable k

/-! The rotation map. -/

/-- The ROTATION record: logical tile, state and test age of each physical tile (R414; assumption entry 27). -/
def State.rotationBytes (s : State) : List Byte :=
  (List.range 192).flatMap fun k => bytesLE 1 (s.role k).lt ++ bytesLE 1 (s.role k).state ++ bytesLE 2 (s.role k).ageH

def State.rotationWrite (s : State) : State := s.logQueue 5 s.rotationBytes

/-- Usable positions of a die. -/
def State.usable (s : State) (d : Nat) : List Nat := (dieTiles d).filter fun k => (s.role k).state ≠ 3

/-- Logical tile that the Logbook's map gives a physical tile; none without a record. -/
def mapLt (last : Option (List Byte)) (k : Nat) : Option Nat := last.map fun bs => ofBytesLE ((bs.drop (4 * k)).take 1)

/-- The map of a die at start-up: the Logbook's where it names only usable tiles, else ascending positions (R414). -/
def State.buildMap (s : State) (last : Option (List Byte)) (d : Nat) : State :=
  let named := (dieTiles d).filter fun k => (mapLt last k).any (· < 46)
  let kept := last.isSome && decide (named.length = 46) && named.all fun k => (s.role k).state ≠ 3
  let us := s.usable d
  let age (k : Nat) : Nat := match last with
    | some bs => ofBytesLE ((bs.drop (4 * k + 2)).take 2)
    | none => 0
  (us.zip (List.range us.length)).foldl (fun s e =>
    let lt := if kept then (mapLt last e.1).getD 0x3F else if e.2 < 46 then e.2 else 0x3F
    s.modRole e.1 fun _ => ⟨if lt < 46 then 0 else 1, if lt < 46 then lt else 0x3F, false, false, false, age e.1, 0⟩) s

/-- CAPACITY_DEGRADED (R415). -/
def State.degraded (s : State) : State :=
  let count (d : Nat) : Nat := (s.usable d).length
  let mask := toMask ((List.range 4).filter fun d => count d < 46)
  { s with sys.capacity := true }.event (pgBST 8) { code := 0x0807, die := 8, c0 := mask, c1 := ((List.range 4).map count).foldl min 48 }

/-- BST_CFG (R420). -/
def State.bstCfg (s : State) (lo w : Nat) : Nat := s.regField (pgBST 8 + 0x40) lo w

/-- Start-up self-test under the algorithm that the configuration record selects, and the rotation map (R412 to R415). -/
def State.startTest (s : State) (algo : Nat) (failures : List BstFailure) (logicFail : List Nat) : State :=
  let s := (s.stk.repair.filter fun e => e.action = 0x43).foldl (fun s e => s.exclude e.stack e.channel e.row) s
  let s := s.bstTest algo failures
  let s := logicFail.foldl State.bstLogic s
  let last := s.logRecord 5
  let s := (List.range 4).foldl (fun s d => s.buildMap last d) s
  let s := { s with sys.bstDone := true }
  let s := if s.sys.capacity || (List.range 4).any fun d => (s.usable d).length < 46 then s.degraded else s
  s.rotationWrite

/-! Due tiles. -/

/-- A scheduled tile falls due; a deferral limit of 0 requests the rotation at once (R416, R417). -/
def State.tileDue (s : State) (k limit : Nat) : State :=
  let s := s.modRole k fun r => { r with due := true }
  if limit = 0 then { s with thr.rotWanted := true } else s

/-- A suspect mark, which also makes the tile due (R390). -/
def State.tileSuspect (s : State) (k : Nat) : State :=
  (s.modRole k fun r => { r with suspect := true }).tileDue k (s.bstCfg 24 8)

/-- A quarantine, which requests a rotation at once (R402, R416). -/
def State.tileQuarantine (s : State) (k : Nat) : State :=
  (s.modRole k fun r => { r with quarantine := true }).tileDue k 0

/-- TEST_AGE_DUE: a scheduled tile falls due, a spare is tested at once (R416). -/
def execTestAgeDue (die pos : Nat) (s : State) : Host.Outcome State Fault Refusal :=
  .next (
    let k := 48 * die + pos
    let d := s.bstCfg 8 8
    if d = 0 then s
    else
      let s := s.modRole k fun r => { r with ageH := min (24 * d) 0xFFFF }
      if (s.role k).state = 0 then s.tileDue k (s.bstCfg 16 8)
      else if (s.role k).state = 1 then s.modRole k fun r => { r with state := 2 }
      else s)

/-- ROTATION_REQUEST: a due tile has reached its deferral limit (R417). -/
def execRotationRequest (s : State) : Host.Outcome State Fault Refusal :=
  .next (if allTiles.any fun k => (s.role k).state = 0 && (s.role k).due then { s with thr.rotWanted := true } else s)

/-- The due tile of a die that moves first: quarantine, then suspect, then greatest age, then lowest position (R417). -/
def State.firstDue (s : State) (d : Nat) : Option Nat :=
  minBy (fun k =>
    let r := s.role k
    ((if r.quarantine then 0 else 1) * 2 + (if r.suspect then 0 else 1)) * 2 ^ 24 + (0xFFFF - min r.ageH 0xFFFF) * 2 ^ 8 + k % 48)
    ((dieTiles d).filter fun k => (s.role k).state = 0 && (s.role k).due)

/-- One die at a rotation point: its due tile and the spare that takes the role; a quarantine waits for a spare under test, and
without one raises CAPACITY_DEGRADED (R402, R417 to R419). -/
def State.rotateDie (s : State) (d : Nat) : State :=
  match s.firstDue d with
  | none => s
  | some k =>
    match (dieTiles d).find? fun j => (s.role j).state = 1 with
    | some j => s.modDie d fun e => { e with migrating := some (k % 48, j % 48) }
    | none =>
      if (s.role k).quarantine && !(dieTiles d).any fun j => (s.role j).state = 2 then s.degraded else s

/-- A quarantined tile of some die waits for the test of its die's other spare. -/
def State.rotationWaits (s : State) : Bool :=
  (List.range 4).any fun d => (s.die d).migrating.isSome ||
    ((s.firstDue d).any fun k => (s.role k).quarantine) && (dieTiles d).any fun j => (s.role j).state = 2

/-- ROTATION_POINT: no context is in a step state (R265, R417). While the C-dies are power-gated no mesh traffic flows, so no role moves (R23). -/
def execRotationPoint (s : State) : Host.Outcome State Fault Refusal :=
  .next (if s.cGated || s.anyStep || s.dies.any fun e => e.2.migrating.isSome then s
  else
    let s := (List.range 4).foldl State.rotateDie s
    { s with thr.rotWanted := s.thr.rotWanted && s.rotationWaits })

/-! Migration. -/

/-- The four pages of a physical tile. -/
def tilePages (k : Nat) : List Nat := [pgTIL (k / 48) (k % 48), pgARY (k / 48) (k % 48), pgVEC (k / 48) (k % 48), pgPOR (k / 48) (k % 48)]

/-- A TILE reset of a physical tile (R489, R491); where its clock setting changes the island settles (R32). -/
def State.tileReset (s : State) (k : Nat) : State :=
  let old := s
  let s := { s with tiles := s.tiles.set k TileSt.reset }
  let s := (s.dropRegs fun a r => r.tile && (tilePages k).contains (pageBase a)).settle old [k]
  { s with sys.hdrOff := (tilePages k).foldl (fun l p => insertNat p l) s.sys.hdrOff }

/-- The role of one physical tile passes to another with its contents (R266); the freed tile is reset and under test (R418). -/
def State.migrate (s : State) (a b : Nat) : State :=
  let r := s.role a
  let t := s.tile a
  let u := s.tile b
  let s := { s with tiles := s.tiles.set b { t with running := [], helping := none, settle := u.settle } }
  let s := s.modRole b fun x => { x with state := 0, lt := r.lt }
  let s := s.modRole a fun x => { x with state := 2, lt := 0x3F, due := false }
  s.tileReset a

/-- MIGRATION_COMPLETE: the map changes and is written; held STEP commands go on when every die is done (R265, R266, R496). -/
def execMigrationComplete (die : Nat) (s : State) : Host.Outcome State Fault Refusal :=
  .next (match if s.cGated then none else (s.die die).migrating with
  | none => s
  | some (a, b) =>
    let s := s.migrate (48 * die + a) (48 * die + b)
    let s := (s.modDie die fun e => { e with migrating := none }).rotationWrite
    { s with thr.rotWanted := s.thr.rotWanted && s.rotationWaits })

/-- FIELD_TEST_COMPLETE, under BST_CFG.ALGO: the tile becomes a spare, its marks clear and its age restarts; or it is unusable (R412, R418). -/
def execFieldTestComplete (die pos : Nat) (failures : List BstFailure) (logicOk : Bool) (s : State) :
    Host.Outcome State Fault Refusal :=
  .next (
    let k := 48 * die + pos
    if (s.role k).state = 2 then
      let fs := failures.map fun f => { f with die := die, inst := pos, mem := if 1 ≤ f.mem ∧ f.mem ≤ 3 then f.mem else 1 }
      let s := s.bstTest (s.bstCfg 0 1) fs
      let s := if logicOk then s else s.bstLogic k
      let s := if (s.role k).state = 3 then s
        else s.modRole k fun r => { r with state := 1, lt := 0x3F, suspect := false, quarantine := false, due := false, ageH := 0, transients := 0 }
      s.rotationWrite
    else s)

end Sys2Proof.Machine
end

