-- ==== Sys2Proof/Machine/Security.lean ====
section
/-! DEFINITION. The security island's boot (R456 to R469): images, identity, owner and configuration records, measurements,
trials. Record layouts that the manual leaves open are those of assumption entry 27. -/

namespace Sys2Proof.Machine

/-! The manufacture region (R464, R494): identity digest first, then the certificate chain at 0x1000 as length and bytes. -/

def helperBase : Nat := 0x1800000
def State.helper (s : State) : List Byte := s.log.flash.readN helperBase 0x1000
def State.idDigest (s : State) : Digest := s.log.flash.readN helperBase 32
def State.certChain (s : State) : List Byte :=
  s.log.flash.readN (helperBase + 0x1004) (min (s.log.flash.num (helperBase + 0x1000) 4) 0x7E000)

/-- The bytes of an ASCII string. -/
def ascii (t : String) : List Byte := t.toUTF8.toList.map fun b => BitVec.ofNat 8 b.toNat

/-! Images (R458, R459). -/

/-- The payload of a firmware slot's record, where it is complete (R495). -/
def State.slotImage (s : State) (slot : Nat) : Option (List Byte) := s.logRecord (0x10 + slot)

def imgSvn (i : List Byte) : Nat := bField i 4 4
def imgBuild (i : List Byte) : Nat := bField i 8 4
def imgRoot (i : List Byte) : List Byte := (i.drop 0x80).take 1312
def imgBody (i : List Byte) : List Byte := (i.drop 0x1000).take (bField i 0x10 8)

/-- FW_STATE: per slot the trial failures and the rejected mark, then SVN and BUILD of the last good image. -/
def State.fwState (s : State) : List Byte := takeD 0#8 12 ((s.logRecord 2).getD [])
def fwFails (w : List Byte) (slot : Nat) : Nat := bField w (2 * slot) 1
def fwRejected (w : List Byte) (slot : Nat) : Bool := bField w (2 * slot + 1) 1 != 0

/-- FW_STATE with a slot's two bytes replaced. -/
def fwPut (w : List Byte) (slot fails : Nat) (rejected : Bool) : List Byte :=
  w.take (2 * slot) ++ bytesLE 1 fails ++ bytesLE 1 (b2n rejected) ++ w.drop (2 * slot + 2)

/-- The first check of R459 that an image fails; 0 when it is valid. -/
def imageReason (img : Option (List Byte)) (counter : Nat) (rejected : Bool) : Nat :=
  match img with
  | none => 1
  | some i =>
    if i.length < 0x1000 ∨ bField i 0 4 ≠ 1 ∨ zeros ((i.drop 0xC).take 4) = false ∨ zeros ((i.drop 0x38).take 72) = false ∨
        zeros ((i.drop 0xF14).take 236) = false ∨ i.length < 0x1000 + bField i 0x10 8 then 1
    else if sha3 (imgRoot i) ≠ Config.rootDigest then 2
    else if !Config.mldsaVerify (imgRoot i) (i.take 0x80) (ascii "KXV-FW")
        ((i.drop 0x5A0).take 2420) then 3
    else if sha3 (imgBody i) ≠ (i.drop 0x18).take 32 then 4
    else if imgSvn i < counter then 5
    else if rejected then 6
    else 0

def State.slotReason (s : State) (slot : Nat) : Nat := imageReason (s.slotImage slot) (s.arb 0) (fwRejected s.fwState slot)

/-- The slot that boots: the valid image with the higher SVN, then BUILD, then slot A (R460). -/
def State.bootSlot (s : State) : Option Nat :=
  let a := s.slotReason 0
  let b := s.slotReason 1
  let v (k : Nat) : Nat := match s.slotImage k with
    | some i => imgSvn i * 2 ^ 32 + imgBuild i
    | none => 0
  if a = 0 ∧ b = 0 then some (if v 0 < v 1 then 1 else 0)
  else if a = 0 then some 0
  else if b = 0 then some 1
  else none

/-! Measurements (R468). -/

/-- A digest measured into a slot, with its event-log entry. -/
def State.measure (s : State) (slot index : Nat) (d : Digest) : State :=
  let s := { s with sec.meas := modAt (fun m => sha3 (m ++ d)) slot s.sec.meas }
  if s.sec.events.length < 128 then { s with sec.events := s.sec.events ++ [(slot, index, d)] }
  else { s with sec.logFull := true }

/-- A measurement slot back to 32 bytes of 0 (R469). -/
def State.clearMeas (s : State) (slot : Nat) : State :=
  { s with sec.meas := modAt (fun _ => List.replicate 32 0#8) slot s.sec.meas }

/-! Owner and configuration records (R466, R467). -/


/-- An owner enrolment record: identity digest, owner key, OWNER_SEQ, signature. 0, or the reason of R476. -/
def ownerReason (r : Option (List Byte)) (root : List Byte) (id : Digest) (counter : Nat) : Nat :=
  match r with
  | none => 1
  | some b =>
    if b.length ≠ 1348 + 2420 then 2
    else if !Config.mldsaVerify root (b.take 1348) (ascii "KXV-OWN") (b.drop 1348) then 2
    else if b.take 32 ≠ id then 3
    else if bField b 1344 4 < counter then 4
    else 0

/-- Entries of a configuration record: tag and value; none where they do not fit (R467). -/
def cfgEntries : Nat → List Byte → Option (List (Nat × List Byte))
  | 0, _ => none
  | _ + 1, [] => some []
  | n + 1, bs =>
    let len := bField bs 2 2
    let size := alignUp (4 + len) 4
    if bs.length < size then none
    else (cfgEntries n (bs.drop size)).map fun t => (bField bs 0 2, (bs.drop 4).take len) :: t

/-- The length that a tag's value must have; none for an unknown tag. Tag 0x0009 may have any. -/
def cfgLen (tag : Nat) : Option Nat :=
  if tag = 1 ∨ tag = 2 then some 2
  else if tag = 3 then some 12
  else if tag = 4 then some 8
  else if tag = 5 ∨ tag = 6 ∨ tag = 8 then some 4
  else if tag = 7 then some 1
  else none

/-- The values of an entry are in their ranges: JWARN, JTHROTTLE, PKG_W (R482, R484). -/
def cfgValue (tag : Nat) (v : List Byte) : Bool :=
  if tag = 8 then
    let w := bField v 0 1
    let t := bField v 1 1
    let p := bField v 2 2
    decide (70 ≤ w ∧ w ≤ 100 ∧ 75 ≤ t ∧ t ≤ 104 ∧ w < t ∧ 600 ≤ p ∧ p ≤ 1500)
  else true

/-- The first invalid entry's tag, if any (R467). -/
def cfgBad : List Nat → List (Nat × List Byte) → Option Nat
  | _, [] => none
  | seen, (t, v) :: rest =>
    if seen.contains t then some t
    else if t = 9 then cfgBad (t :: seen) rest
    else match cfgLen t with
      | none => some t
      | some n => if v.length = n && cfgValue t v then cfgBad (t :: seen) rest else some t

/-- Bytes of a configuration record before its signature. -/
def cfgSigned (b : List Byte) : List Byte := b.take (b.length - 2420)

/-- A configuration record: identity digest, CFG_SEQ, entries, signature. (0, _), or the reason and tag of R476. -/
def configReason (r : Option (List Byte)) (owner : Option (List Byte)) (id : Digest) (counter : Nat) : Nat × Nat :=
  match r, owner with
  | none, _ => (1, 0)
  | some _, none => (2, 0)
  | some b, some pk =>
    if b.length < 36 + 2420 then (2, 0)
    else if !Config.mldsaVerify pk (cfgSigned b) (ascii "KXV-CFG") (b.drop (b.length - 2420)) then (2, 0)
    else if b.take 32 ≠ id then (3, 0)
    else if bField b 32 4 < counter then (4, 0)
    else match cfgEntries (b.length + 1) ((cfgSigned b).drop 36) with
      | none => (5, 0)
      | some es => match cfgBad [] es with
        | some t => (5, t)
        | none => (0, 0)

/-- The value of a tag in the record in force, where the record is valid. -/
def State.cfgTag (s : State) (tag : Nat) : Option (List Byte) :=
  if s.sec.config then
    match s.logRecord 4 with
    | some b => ((cfgEntries (b.length + 1) ((cfgSigned b).drop 36)).getD []).find? (·.1 = tag) |>.map (·.2)
    | none => none
  else none

/-- The configuration acts: device identifier, profiles, budgets, granules, BST_CFG, thresholds, routes (R467, R491). -/
def State.applyConfig (s : State) : State :=
  let s := match s.cfgTag 2 with
    | some v => s.setReg (pgLNK 0 + 0x48) (bField v 0 2)
    | none => s
  let s := match s.cfgTag 3 with
    | some v => (List.range 12).foldl (fun (s : State) p => s.setReg (pgLNK p + 0x40) (putField (s.reg (pgLNK p + 0x40)) 3 1 (bField v p 1))) s
    | none => s
  let s := match s.cfgTag 4 with
    | some v => (List.range 4).foldl (fun (s : State) d => s.setReg (pgPWR d + 0x40) (bField v (2 * d) 2)) s
    | none => s
  let s := match s.cfgTag 5 with
    | some v => (List.range 4).foldl (fun (s : State) m =>
        { s.setReg (pgRSV m + 0x40) (bField v m 1) with rsv.acting := s.rsv.acting.set m (bField v m 1) }) s
    | none => s
  let s := match s.cfgTag 6 with
    | some v => s.setReg (pgBST 8 + 0x40) (bField v 0 4 &&& 0xFFFFFF01)
    | none => s
  let s := match s.cfgTag 8 with
    | some v => ((List.range 10).foldl (fun (s : State) d =>
        s.setReg (pgTHM d + 0x40) (bField v 0 1 * 2 ^ 16 + bField v 1 1 * 2 ^ 24)) s).setReg (pgPKGP + 0x48) (bField v 2 2)
    | none => s
  match s.cfgTag 9 with
  | some v => { s with sec.routes := v }
  | none => s

/-! Boot. -/

/-- A security record (R476). -/
def State.secRec (s : State) (code c0 c1 : Nat) : State := s.event pgSEC { code := code, die := 8, c0 := c0, c1 := c1 }

/-- The record of a type as it will stand once every write in the queue is done: a later change builds on it, not on the record that is still in
force (R463: writes in arrival order). -/
def State.logNext (s : State) (type : Nat) : Option (List Byte) := match (s.log.queue.filter (·.1 = type)).getLast? with
  | some e => some e.2
  | none => s.logRecord type

/-- An anti-rollback counter with the raises that wait to be written. -/
def State.arbNext (s : State) (i : Nat) : Nat := match s.logNext 1 with
  | none => 0
  | some bs => bField bs (4 * i) 4

/-- FW_STATE with the changes that wait to be written. -/
def State.fwNext (s : State) : List Byte := takeD 0#8 12 ((s.logNext 2).getD [])

/-- The counters raised to values above them (R463); they are written when one rises, and none falls. -/
def State.raiseCounters (s : State) (v : List Nat) : State :=
  let new := (List.range 3).map fun k => max (s.arbNext k) (nth 0 k v)
  if new = (List.range 3).map s.arbNext then s else s.logQueue 1 (new.flatMap (bytesLE 4))

/-- Identity key: up to four attempts (R464, R465). -/
def State.bootIdentity (s : State) : State :=
  let ok := (List.range 4).any fun n => Config.pufOk s.helper n
  let s := { s with sec.identity := ok }
  let s := (List.range 8).foldl (fun s i => s.setReg (pgSEC + 0x60 + 4 * i) (bField s.idDigest (4 * i) 4)) s
  if ok then s else s.secRec 0x0704 4 0

/-- Owner enrolment and configuration, their measurements and counters (R461 step 4, R466, R468). -/
def State.bootRecords (s : State) (root : List Byte) : State :=
  let o := s.logRecord 3
  let ro := ownerReason o root s.idDigest (s.arb 1)
  let pk := if ro = 0 then ((o.getD []).drop 32).take 1312 else []
  let c := s.logRecord 4
  let rc := configReason c (if ro = 0 then some pk else none) s.idDigest (s.arb 2)
  let z := List.replicate 32 0#8
  let s := { s with sec.owner := ro = 0, sec.config := rc.1 = 0, sec.ownerPk := pk }
  let s := if ro = 0 then s else s.secRec 0x0705 ro 0
  let s := if rc.1 = 0 then s else s.secRec 0x0706 rc.1 rc.2
  let s := s.measure 2 4 (if ro = 0 then sha3 (o.getD []) else z)
  let s := s.measure 2 5 (if rc.1 = 0 then sha3 (c.getD []) else z)
  let s := s.measure 2 6 (takeD 0#8 32 (bytesLE 4 (s.arb 0) ++ bytesLE 4 (s.arb 1) ++ bytesLE 4 (s.arb 2)))
  s.raiseCounters [0, if ro = 0 then bField (o.getD []) 1344 4 else 0, if rc.1 = 0 then bField (c.getD []) 32 4 else 0]

/-- Boot steps 1 to 5 (R461). Without a valid image: recovery (R460). -/
def State.boot (s : State) : State :=
  let s := { s with sec.meas := List.replicate 8 (List.replicate 32 0#8), sec.events := [], sec.logFull := false }
  let s := s.measure 0 1 Config.romDigest
  let ra := s.slotReason 0
  let rb := s.slotReason 1
  let s := if ra = 0 then s else s.secRec 0x0702 0 ra
  let s := if rb = 0 then s else s.secRec 0x0702 1 rb
  let s := { s with sec.imageReason := [ra, rb] }
  match s.bootSlot with
  | none => { s with sec.recovery := true }.secRec 0x0701 ra rb
  | some k =>
    let i := (s.slotImage k).getD []
    let w := s.fwState
    let good := (s.logRecord 2).isSome && decide (bField w 4 4 = imgSvn i) && decide (bField w 8 4 = imgBuild i)
    let s := { s with sec.booted := some k, sec.svn := imgSvn i, sec.build := imgBuild i, sec.trial := !good }
    let s := (s.measure 1 2 (sha3 (i.take 0x80))).measure 1 3 ((i.drop 0x18).take 32)
    ((s.bootIdentity).bootRecords (imgRoot i)).applyConfig

/-- TRIAL_GOOD: once bring-up has completed, the image's SVN and BUILD are recorded and the counter rises (R462, R463). -/
def execTrialGood (s : State) : Host.Outcome State Fault Refusal :=
  .next (if s.sec.trial && s.ready then
    let w := s.fwNext
    let s := { s with sec.trial := false }.logQueue 2 (w.take 4 ++ bytesLE 4 s.sec.svn ++ bytesLE 4 s.sec.build)
    s.raiseCounters [s.sec.svn]
  else s)

/-- A record written to completion at once. -/
def State.logNow (s : State) (type : Nat) (payload : List Byte) : State :=
  { ({ s with log.queue := [(type, payload)], log.tries := 0 }.logEnd true) with log.queue := s.log.queue, log.tries := s.log.tries }

end Sys2Proof.Machine
end

