-- ==== Sys2Proof/Machine/Power.lean ====
section
/-! DEFINITION. Rails (R477 to R479), resets (R489 to R491), power states (R486 to R488), bring-up (R493), trips and clocks
(R485, R520, R523), and trials that fail (R462). -/

namespace Sys2Proof.Machine

/-! Rails: 2 VDD_X, 3 VDD_M, 4 to 7 VDD_C0 to VDD_C3, 8 VDD1_S, 9 VDD2_S, 10 VDDQ, 11 VDDA_LNK, 12 VDDA_PCI (R477). -/

def allRails : List Nat := (List.range 11).map (· + 2)

/-- Enable order of a rail (R477). -/
def railOrder (r : Nat) : Nat := if r = 2 then 1 else if r = 3 then 2 else if r < 8 then 3 else if r < 11 then 4 else 5

/-- The rails whose enables rise next: the four C-die rails together, 1 ms apart (R478). -/
def nextRails (enabled : List Nat) : List Nat :=
  match allRails.filter fun r => !enabled.contains r with
  | [] => []
  | r :: _ => if r = 4 then [4, 5, 6, 7].filter fun k => !enabled.contains k else [r]

/-- The endpoint may link: VDD_X and VDDA_PCI are up, no recovery (R460, R493). -/
def State.endpointUp (s : State) : Bool := s.sys.rails.good.contains 2 && s.sys.rails.good.contains 12 && !s.sec.recovery

/-- The next enables rise once every enabled rail is good; at the end the sequence is over (R478). -/
def State.railsOn (s : State) : State :=
  let r := s.sys.rails
  if r.seqUp && r.enabled.all fun k => r.good.contains k then
    match nextRails r.enabled with
    | [] => { s with sys.rails := { r with seqUp := false } }
    | ks => { s with sys.rails := { r with enabled := ks.foldl (fun l k => insertNat k l) r.enabled } }
  else s

/-- Power-down starts: the highest enable falls, the others follow (R478). -/
def railsDown (r : Rails) : Rails := { r with enabled := r.enabled.dropLast, seqDown := r.good != [] || r.enabled != [], seqUp := false }

/-! Resets. -/

/-- What survives a package reset: the Logbook, the trip latch, the rails; and, of the model, the queue, the outputs, the free
counter and the host's memory (R489). RST_STATUS holds the cause. A sweep in progress is remembered, with the repairs
made on the spare while it ran (R319, R323). -/
def State.pkgCore (s : State) (cause : Nat) : State :=
  let r := State.reset
  let up := decide (s.sys.pstate < 3) && !s.sys.stopped
  let latch := match s.sys.tripLatch with
    | some (1, _) => 256
    | some _ => 512
    | none => 0
  { r with
    pending := s.pending, free := s.free, out := s.out,
    host.mem := s.host.mem, host.linkUp := up && s.sys.rails.good.contains 2 && s.sys.rails.good.contains 12,
    log.flash := s.log.flash,
    stk.st := s.stk.st.filterMap fun e => if e.2.sweep.isSome then some (e.1, { StackSt.reset with sweep := e.2.sweep }) else none,
    stk.groups := s.stk.groups.filter fun e => (s.stackSt (e.1 / 68)).sweep.isSome && decide (e.1 / 4 % 17 = 16),
    sys.rails := if up then { s.sys.rails with seqUp := false, seqDown := false } else ⟨[], [], false, false⟩,
    sys.tripLatch := s.sys.tripLatch, sys.tripNew := s.sys.tripNew, sys.taps := s.sys.taps,
    regs := [(pgRST + 0x44, BitVec.ofNat 32 (16 * cause + latch))] }

/-- A package reset; leaving A3 has a cause of its own (R489, R492). -/
def State.pkgReset (s : State) (cause : Nat) : State := s.pkgCore (if s.sys.pstate = 3 && !s.sys.stopped then 6 else cause)

/-- POR: the ramp of VDD_AON (R489). -/
def State.porReset (s : State) : State :=
  let t := { s with sys.pstate := 3, sys.stopped := true }.pkgCore 1
  { t with sys.taps := [⟨0x01, []⟩, ⟨0x01, []⟩] }

def execPor (s : State) : Host.Outcome State Fault Refusal := .next s.porReset

/-- MRST# low for at least 1 us holds the device in package reset (R520). -/
def execMrst (s : State) : Host.Outcome State Fault Refusal :=
  .next { s.pkgReset 2 with sys.mrstLow := true }

/-- The rise of MRST# starts bring-up (R520). -/
def execMrstRise (s : State) : Host.Outcome State Fault Refusal := .next { s with sys.mrstLow := false }

/-- A context after FLR: nothing is kept (R491; ring indices: assumption entry 28). -/
def CtxSt.flr (_ : CtxSt) : CtxSt := CtxSt.reset

/-- The Reserve cache of every M-die is written back and invalidated (R300). -/
def State.flushCaches (s : State) : State := { s with rsv.cache := [] }

/-- Exit from A2 (R482, R487): the C-dies are powered, every ceiling is 16. -/
def State.leaveA2 (s : State) : State :=
  { s with sys.pstate := 0, sys.unparking := false, sys.parking := false, thr.ceilPkg := 16, thr.pkgCool := 0,
           dies := s.dies.map fun e => (e.1, { e.2 with ceilPwr := 16, ceilThm := 16, windows := 0, cool := 0 }) }

/-- Function-level reset (R378, R469, R490, R491). -/
def State.flrReset (s : State) : State :=
  let s := if s.sys.pstate = 2 then s.leaveA2 else if s.sys.pstate = 1 then { s with sys.pstate := 0 } else s
  let s := s.endCoel
  let s := allCtx.foldl (fun (s : State) c => ((s.ctxWipe c).modCx c CtxSt.flr).clearMeas (4 + c.num)) s
  let old := s
  let s := ((s.dropRegs fun _ r => r.flr).settle old allTiles).flushCaches
  { s with tiles := s.tiles.map fun e => (e.1, { TileSt.reset with settle := e.2.settle }),
           host.evtHead := 0, host.evtTail := 0, host.msixHold := [], host.msixDue := [], host.msixPend := [], host.fails := [],
           plt.readers := [], plt.restoring := [], plt.rx := none,
           chk := s.chk.map fun e => if e.1 = 0 then (e.1, { e.2 with scan := false, finish := false }) else (e.1, ChkSt.reset e.1),
           sys.hdrReady := false, sys.injSeen := [], shadow := [] }

def execFlr (s : State) : Host.Outcome State Fault Refusal := .next (if s.busUp then s.flrReset else s)

/-- PERST#: a function-level reset and a reset of the link; ignored under MRST# and in A3 (R489, R490, R520). -/
def execPerst (s : State) : Host.Outcome State Fault Refusal :=
  .next (if s.sys.mrstLow || decide (s.sys.pstate = 3) || s.sys.stopped then s
  else { s.flrReset with host.linkUp := s.endpointUp })

/-! RST_CTRL. -/

/-- A request is refused (R486). -/
def State.rstRefused (s : State) : State := s.setReg (pgRST + 0x44) (s.reg (pgRST + 0x44) ||| 8)

/-- A background command runs: an on-demand plate or a staged load (R445). -/
def State.background (s : State) : Bool :=
  (s.plt.readers.any fun r => r.copyTo.isNone && r.tag.isSome) || s.plt.restoring.any fun e => e.2.stage

def State.parkReq (s : State) : State :=
  if decide (s.sys.pstate < 2) && !s.anyStep && !s.background && s.fab.coel.isNone then { s with sys.parking := true }
  else s.rstRefused

def State.unparkReq (s : State) : State := if s.sys.pstate = 2 then { s with sys.unparking := true } else s.rstRefused

/-- A3: only VDD_AON and VDD_LOG stay up; what A3 keeps is what PKG keeps (R486, R488, R491). -/
def State.darkReq (s : State) : State :=
  if s.anyArmed || decide (s.sys.pstate = 3) then s.rstRefused
  else
    let t := s.pkgCore (s.regField (pgRST + 0x44) 4 4)
    { t with host.linkUp := false, sys.pstate := 3, sys.rails := railsDown s.sys.rails }

/-- Bits set among [3:0]. -/
def rstBits (v : Nat) : Nat := (maskBits 4 v).length

/-- A write of RST_CTRL (R492). -/
def State.rstCtrl (s : State) (v : Nat) : State :=
  if 1 < rstBits v then s.rstRefused
  else if bitAt v 0 then s.pkgReset 3
  else if bitAt v 1 then s.parkReq
  else if bitAt v 2 then s.unparkReq
  else if bitAt v 3 then s.darkReq
  else s

/-- A write of RST_CTRL that carries bit b. -/
def State.rstWrite (s : State) (v b : Nat) : State := if bitAt v b then s.access fun s => s.rstCtrl v else s

def execPkg (v : W32) (s : State) : Host.Outcome State Fault Refusal := .next (s.rstWrite v.toNat 0)

def execPark (v : W32) (s : State) : Host.Outcome State Fault Refusal := .next (s.rstWrite v.toNat 1)

def execUnpark (v : W32) (s : State) : Host.Outcome State Fault Refusal := .next (s.rstWrite v.toNat 2)

def execDark (v : W32) (s : State) : Host.Outcome State Fault Refusal := .next (s.rstWrite v.toNat 3)

/-- A context at entry to A2: IDLE, no program; committed state, rings and staged load kept (R487). -/
def CtxSt.parked (x : CtxSt) : CtxSt :=
  { x with state := .idle, loaded := false, armed := false, paused := false, prog := none, prev := none, run := none,
           nonfinite := [], saturated := [], empty := [], kidShards := [], phases := [], engBars := [] }

/-- A2_ENTRY: once drains, copies and an incoming buddy plate have ended (R487, R491). A field test under way is lost and the
tile keeps its state (R419). -/
def execA2Entry (s : State) : Host.Outcome State Fault Refusal :=
  .next (if s.sys.parking && !s.anyStep && decide (s.plt.readers = []) && s.plt.rx.isNone && decide (s.plt.restoring = []) &&
      s.fab.coel.isNone then
    let s := s.flushCaches
    { s with sys.parking := false, sys.pstate := 2, cx := s.cx.map CtxSt.parked, catalogue := [], tiles := [], fab.plans := [],
             fab.grads := [] }
  else s)

/-- A2_EXIT_COMPLETE (R487). -/
def execA2ExitComplete (s : State) : Host.Outcome State Fault Refusal :=
  .next (if s.sys.unparking && decide (s.sys.pstate = 2) then
    allCtx.foldl (fun s c => State.skipBad c ringMax s) s.leaveA2 else s)

/-- Nothing runs that would keep the device from A1 (R486). -/
def State.quiet (s : State) : Bool :=
  !s.anyStep && (s.cx.all fun x => x.fg.isNone) && (allCtx.all fun c => !s.canTake c || (s.headEntry c).isNone || s.held c) &&
    decide (s.plt.readers = []) && decide (s.plt.restoring = []) && s.plt.rx.isNone && s.fab.coel.isNone && s.chk.all fun e => !e.2.scan

/-- A1_ENTRY: A1_DELAY has passed with nothing to do and A1_EN is set (R486, R492). -/
def execA1Entry (s : State) : Host.Outcome State Fault Refusal :=
  .next (if s.ready && decide (s.sys.pstate = 0) && bitAt (s.reg (pgRST + 0x48)) 16 && s.quiet && !s.sys.parking
    then { s with sys.pstate := 1 } else s)

def execA1Exit (s : State) : Host.Outcome State Fault Refusal := .next s.wake

/-! Rail and clock faults, thermal trip. -/

/-- The device stops: every island at once, stack contents lost; it waits in the rail state of A3 (R479, R485). -/
def State.stopAll (s : State) (kind which : Nat) (rails : Rails) : State :=
  let t := s.pkgCore (s.regField (pgRST + 0x44) 4 4)
  { t with host.linkUp := false, sys.pstate := 3, sys.stopped := true, sys.rails := rails, sys.tripLatch := some (kind, which),
           sys.tripNew := true }

/-- A rail fault: the enables fall in reverse order (R479). -/
def State.railFault (s : State) (kind which : Nat) : State :=
  if s.sys.stopped then s else s.stopAll kind which (railsDown s.sys.rails)

/-- RAIL_PG_RISE; ignored while the enable is low (R478, R520). The endpoint links once its rails are up (R493). -/
def execRailPgRise (r : Nat) (s : State) : Host.Outcome State Fault Refusal :=
  .next (if s.sys.rails.enabled.contains r && !s.sys.rails.good.contains r then
    let s := { s with sys.rails.good := insertNat r s.sys.rails.good }
    let s := { s with host.linkUp := s.host.linkUp || (s.endpointUp && decide (r = 2 ∨ r = 12)) }
    s.railsOn
  else s)

def execRailPgTimeout (r : Nat) (s : State) : Host.Outcome State Fault Refusal :=
  .next (if s.sys.rails.seqUp && s.sys.rails.enabled.contains r && !s.sys.rails.good.contains r then s.railFault 2 r else s)

def execRailPgFall (r : Nat) (s : State) : Host.Outcome State Fault Refusal :=
  .next (if s.sys.rails.enabled.contains r && s.sys.rails.good.contains r then s.railFault 2 r else s)

/-- The rail whose enable fell last. -/
def lastDown (enabled : List Nat) : Option Nat := (allRails.filter fun r => !enabled.contains r).head?

/-- The next enable falls in reverse order: a power-good of a lowered rail has fallen, or 10 ms have passed since the last enable fell on a rail whose
power-good was not up (R478). -/
def execRailPgFallAtPowerDown (r : Nat) (s : State) : Host.Outcome State Fault Refusal :=
  .next (
    let q := s.sys.rails
    if q.seqDown && !q.enabled.contains r && (q.good.contains r || decide (lastDown q.enabled = some r)) then
      let good := eraseNat r q.good
      let enabled := q.enabled.dropLast
      { s with sys.rails := { q with good := good, enabled := enabled, seqDown := good != [] || enabled != [] } }
    else s)

/-- THERMAL_TRIP: every enable but VDD_AON and VDD_LOG falls, THERMTRIP# goes low, the die is latched (R485). -/
def execThermalTrip (die : Nat) (s : State) : Host.Outcome State Fault Refusal :=
  .next (if s.sys.stopped || decide (s.sys.pstate = 3) then s
  else { s.stopAll 1 die ⟨[], s.sys.rails.good, false, s.sys.rails.good != []⟩ with sys.thermTrip := true })

/-- COEL_FAIL of this device (R355). -/
def State.coelFail (s : State) (p : Nat) : State := s.event (pgCOL 0) { code := 0x0405, die := 8, unit := 8, c0 := p, c2 := s.devId }

/-- The range of a transfer that failed on this device holds unspecified bytes (R355). -/
def State.coelRangeLost (s : State) (k : Coel) : State := s.loseKeys ((List.range k.len).map fun i => 2 ^ 48 + k.addr + i)

/-- The parent port of a Coelostat transfer is lost: the transfer fails on this device, which reports it upward, and its command ends
(R355). -/
def State.coelLost (s : State) (p : Nat) : State := match s.fab.coel with
  | some k =>
    if !k.root && decide (k.parent = p) then
      let s := (s.coelRangeLost k).coelFail p
      let seq := s.host.seq
      ((s.emit (.coelReport (k.failed ++ [s.devId]))).endCoel).complete k.ctx k.tag 2 0x0405 noAlm seq
    else s
  | none => s

/-- A port that carries buddy traffic is lost: the buddy cannot be reached on it, and the buddy half of each drain ends (R366, R370). -/
def State.buddyLost (s : State) (p : Nat) : State :=
  if s.buddyPorts.contains p then (s.plt.readers.filter fun r => r.buddy).foldl (fun s r => s.targetFail r) s else s

/-- A port goes down (R329): LINK_DOWN. -/
def State.portDown (s : State) (p : Nat) : State :=
  if (s.port p).state = 3 then s
  else (((s.modPort p fun q => { q with state := 3 }).event (pgLNK p)
    { code := 0x0402, die := 8 + p / 6, c0 := p, c2 := s.devId }).coelLost p).buddyLost p

/-- CLOCK_LOSS: 0 to 3 REFCLK_C, 4 REFCLK_MX, 5 REFCLK_AON, 6 and 7 REFCLK_LNK, 8 REFCLK_PCIE (R523). -/
def execClockLoss (clk : Nat) (s : State) : Host.Outcome State Fault Refusal :=
  .next (if clk < 6 then s.railFault 3 clk
  else if clk < 8 then (List.range 6).foldl (fun s i => s.portDown (6 * (clk - 6) + i)) s
  else { s with host.linkUp := false })

/-! Bring-up (R493). -/

/-- Step 3: the trip latch is recorded at the first boot after it (R479, R485, R523). -/
def State.recordTrip (s : State) : State :=
  if s.sys.tripNew then
    let s := { s with sys.tripNew := false }
    match s.sys.tripLatch with
    | some (1, d) => s.event pgKPR { code := 0x0612, die := 8, c0 := d }
    | some (2, r) => s.event pgKPR { code := 0x0603, die := 8, c0 := railOrder r }
    | some (_, c) => s.event pgKPR { code := 0x0605, die := 8, c0 := c }
    | none => s
  else s

/-- The repair map of the Logbook (R324, R414). -/
def State.loadRepair (s : State) : State :=
  let bs := (s.logRecord 6).getD []
  { s with stk.repair := (List.range (bs.length / 16)).map fun i => RepairEnt.parse ((bs.drop (16 * i)).take 16) }

/-- The start-up march of tag 0x0007; without a record March C- (R414, R467). -/
def State.startAlgo (s : State) : Nat := bField ((s.cfgTag 7).getD []) 0 1 % 2

/-- Step 7 on one port: trained, or down after three failures; a long round trip is reported (R328, R329, R339). -/
def State.trainPort (s : State) (p : Nat) (ok : Bool) (rtt : Nat) : State :=
  let s := s.setReg (pgLNK p + 0x4C) rtt
  if (s.port p).state = 3 then s
  else if ok then
    let s := s.modPort p fun _ => { PortSt.reset with state := 2, credit := [16, 16, 16, 16] }
    if 2600 < rtt then
      (s.setReg (pgLNK p + 0x40) (s.reg (pgLNK p + 0x40) ||| 0x10)).event (pgLNK p)
        { code := 0x0403, die := 8 + p / 6, c0 := p, c2 := s.devId }
    else s
  else (s.modPort p fun q => { q with fails := 3 }).portDown p

/-- The action of a bring-up step that completed (R493). -/
def State.bringupDo (s : State) (k : Nat) (rep : BringupReport) : State :=
  if k = 2 then
    let s := s.boot
    if s.sec.recovery then s
    else { s with sys.bringup := 2, sys.rails.seqUp := true }.railsOn
  else if k = 3 then { s with sys.bringup := 3 }.recordTrip
  else if k = 4 then { s with sys.bringup := 4 }
  else if k = 5 then { s with sys.bringup := 5 }.loadRepair.startTest s.startAlgo rep.failures rep.logicFail
  else if k = 6 then
    let v := (s.cfgTag 1).getD [0#8, 0xFF#8]
    { s with sys.bringup := 6 }.stackInit (bField v 0 1) (bField v 1 1)
  else if k = 7 then
    let s := { s with sys.bringup := 7 }
    if s.devId = 0xFFFF then s
    else (List.range 12).foldl (fun s p => s.trainPort p (nth false p rep.portOk) (nth 0 p rep.rtt)) s
  else { s with sys.bringup := 8, sys.hdrReady := true, sys.hdrOff := [] }.flushEarly

/-- BRINGUP_STEP_COMPLETE: the next step ends; a failed one records BRINGUP_FAIL and sets FAILED (R493). -/
def execBringupStepComplete (rep : BringupReport) (s : State) : Host.Outcome State Fault Refusal :=
  .next (
    let k := s.sys.bringup + 1
    if s.sys.stopped || decide (s.sys.pstate = 3) || s.sys.mrstLow || s.sys.failed || s.sec.recovery || decide (8 < k) ||
        (decide (k = 3) && !allRails.all fun r => s.sys.rails.good.contains r) then s
    else if rep.ok then s.bringupDo k rep
    else { s with sys.failed := true }.event pgKPR { code := 0x0604, die := 8, c0 := k, c1 := rep.unit })

/-- TRIAL_TIMEOUT: the failure is counted; after two the slot is rejected; a package reset follows (R462). -/
def execTrialTimeout (s : State) : Host.Outcome State Fault Refusal :=
  .next (match s.sec.booted with
  | some k =>
    if s.sec.trial then
      let n := fwFails s.fwState k + 1
      let svn := s.sec.svn
      let s := (s.logNow 2 (fwPut s.fwState k n (2 ≤ n))).pkgReset 5
      if 2 ≤ n then s.secRec 0x0703 k svn else s
    else s
  | none => s)

end Sys2Proof.Machine
end

