-- ==== Sys2Proof/Machine/Fabric.lean ====
section
/-! DEFINITION. What the fabric ports transmit (R330 to R336, R339 to R341, R356, R357): messages, flits, sequence numbers, credits. What they
receive is in Link. -/

namespace Sys2Proof.Machine

/-! Flits (R330). -/

def flitHdr (b : List Byte) : Nat := ofBytesLE (b.take 8)
def flitVC (b : List Byte) : Nat := field (flitHdr b) 0 2
def flitKind (b : List Byte) : Nat := field (flitHdr b) 2 2
def flitSeq (b : List Byte) : Nat := field (flitHdr b) 4 12
def flitAck (b : List Byte) : Nat := field (flitHdr b) 16 12
def flitDest (b : List Byte) : Nat := field (flitHdr b) 40 16
/-- The low word of the trailer: POISON, LAST and CHUNKS. -/
def flitTrail (b : List Byte) : Nat := ofBytesLE ((b.drop 248).take 4)
def flitLast (b : List Byte) : Bool := bitAt (flitTrail b) 15
/-- The valid chunks of a flit, each with its poison bit. -/
def flitChunks (b : List Byte) : List (List Byte × Bool) :=
  (List.range (field (flitTrail b) 16 4)).map fun i => ((b.drop (8 + 16 * i)).take 16, bitAt (flitTrail b) i)

/-- A flit with a new header, its CRC formed. -/
def flitForm (hdr : Nat) (b : List Byte) : List Byte :=
  let x := bytesLE 8 hdr ++ takeD 0#8 244 (b.drop 8)
  x ++ bytesLE 4 (crc32c x)

/-- The flit is whole and its CRC agrees. -/
def flitOk (b : List Byte) : Bool := decide (b.length = 256) && decide (crc32c (b.take 252) = ofBytesLE (b.drop 252))

/-! Messages (R331). -/

/-- The header of a message. -/
structure MsgHdr where
  src : Nat
  ctx : Nat
  attempt : Nat
  stepMsg : Bool
  plan : Nat
  stepLo : Nat
  offset : Nat
  length : Nat
  deriving DecidableEq, Repr

def MsgHdr.bytes (h : MsgHdr) : List Byte :=
  bytesLE 2 h.src ++ bytesLE 1 (h.ctx % 4 + 4 * (h.attempt % 2) + 8 * b2n h.stepMsg) ++ bytesLE 1 0 ++ bytesLE 2 h.plan ++
    bytesLE 2 h.stepLo ++ bytesLE 5 h.offset ++ bytesLE 3 h.length

def MsgHdr.parse (b : List Byte) : MsgHdr :=
  { src := bField b 0 2, ctx := bField b 2 1 % 4, attempt := field (bField b 2 1) 2 1, stepMsg := bitAt (bField b 2 1) 3, plan := bField b 4 2,
    stepLo := bField b 6 2, offset := bField b 8 5, length := bField b 0xD 3 }

/-- The chunks of a message: its header, then its data; a chunk is poisoned that holds a byte of a poisoned 64-byte unit of the segment
(R332). -/
def msgChunks (h : MsgHdr) (data : List Byte) (poison : List Nat) : List (List Byte × Bool) :=
  (h.bytes, false) :: (List.range (ceilDiv data.length 16)).map fun i =>
    let x := (data.drop (16 * i)).take 16
    (x, (unitsOf (h.offset + 16 * i) x.length).any poison.contains)

/-- A data flit of up to 15 chunks; the port fills in the header's other fields and the CRC. -/
def chunkFlit (vc dest : Nat) (cs : List (List Byte × Bool)) (last : Bool) : List Byte :=
  let mask := toMask ((List.range cs.length).filter fun i => (nth ([], false) i cs).2)
  flitForm (vc + 2 ^ 40 * dest) (List.replicate 8 0#8 ++ takeD 0#8 240 (cs.flatMap fun c => takeD 0#8 16 c.1) ++
    bytesLE 4 (mask + 2 ^ 15 * b2n last + 2 ^ 16 * cs.length))

/-- The flits of a message (R330, R331). -/
def msgFlits (vc dest : Nat) (h : MsgHdr) (data : List Byte) (poison : List Nat) : List (List Byte) :=
  let cs := msgChunks h data poison
  let n := ceilDiv cs.length 15
  (List.range n).map fun i => chunkFlit vc dest ((cs.drop (15 * i)).take 15) (decide (i + 1 = n))

def seqNext (n : Nat) : Nat := (n + 1) % 4096

/-- ACK: the highest SEQ received in order. -/
def PortSt.ack (q : PortSt) : Nat := (q.rxSeq + 4095) % 4096

/-- The virtual channel whose credits the next flit returns, and how many (R330, R334). -/
def PortSt.credits (q : PortSt) : Nat × Nat :=
  match (List.range 4).find? fun v => decide (nth 0 v q.owed ≠ 0) with
  | some v => (v, min (nth 0 v q.owed) 1023)
  | none => (0, 0)

/-- Header fields that a port fills in. -/
def PortSt.header (q : PortSt) (vc kind seq dest : Nat) : Nat :=
  let (cv, cn) := q.credits
  vc + 4 * kind + 16 * seq + 2 ^ 16 * q.ack + 2 ^ 28 * cv + 2 ^ 30 * cn + 2 ^ 40 * dest

/-- The credits and the ACK that a flit carried are no longer due. -/
def PortSt.paid (q : PortSt) : PortSt :=
  let (cv, cn) := q.credits
  { q with owed := modAt (· - cn) cv q.owed, ackedIn := 0 }

/-- An idle flit (kind 1) or a retry request for `seq` (kind 2). -/
def State.sendBare (s : State) (p kind seq : Nat) : State :=
  let q := s.port p
  (s.emit (.flit p (flitForm (q.header 3 kind seq 0) []))).modPort p PortSt.paid

/-! Transmitting. -/

def lnkInj (p : Nat) : Nat := pgLNK p + 0x44

/-- The injection of R356 acts on a data flit of virtual channel vc: 0 drop, 1 corrupt, 2 reorder. -/
def State.lnkFires (s : State) (p vc : Nat) : State × Option Nat :=
  let w := s.reg (lnkInj p)
  if bitAt w 0 && bitAt (field w 3 4) vc then
    let n := (s.port p).injSeen + 1
    let s := s.modPort p fun q => { q with injSeen := n }
    if bitAt w 7 && n % 2 ^ field w 8 5 ≠ 0 then (s, none)
    else
      let w := putField w 16 16 (field w 16 16 + 1)
      (s.setReg (lnkInj p) (if bitAt w 7 then w else w - 1), some (field w 1 2))
  else (s, none)

/-- Bit 0 of payload byte SEQ mod 240 inverted after the CRC is formed (R357). -/
def corrupt (b : List Byte) : List Byte := modAt (· ^^^ 1#8) (8 + flitSeq b % 240) b

/-- A data flit goes out, as the port's injection leaves it (R357). A held flit follows the next eligible one. -/
def State.putFlit (s : State) (p : Nat) (b : List Byte) : State :=
  let elig := bitAt (s.regField (lnkInj p) 3 4) (flitVC b)
  let held := (s.port p).heldFlit
  let (s, k) := s.lnkFires p (flitVC b)
  let out (s : State) : State :=
    if k = some 0 then s
    else if k = some 1 then s.emit (.flit p (corrupt b))
    else s.emit (.flit p b)
  if k = some 2 ∧ held = none then s.modPort p fun q => { q with heldFlit := some b }
  else
    let s := out s
    match held with
    | some h => if elig then (s.emit (.flit p h)).modPort p fun q => { q with heldFlit := none } else s
    | none => s

/-- Virtual channels in the order in which the transmitter serves them: control, then the rotation (R333). -/
def PortSt.order (q : PortSt) : List Nat := 3 :: (List.range 3).map fun i => (q.rot + i) % 3

/-- The first queued flit of a channel; while a message is being sent, of the source that sends it (R331). -/
def PortSt.headOf (q : PortSt) (v : Nat) : Option (Nat × List Byte) :=
  q.txQueue.find? fun f => flitVC f.2 = v && (q.lock.get f.1 v == f.1)

/-- The next flit that may go: its channel has a flit and a credit, and the replay buffer has room (R333, R334, R336). -/
def PortSt.nextFlit (q : PortSt) : Option (Nat × Nat × List Byte) :=
  if q.state ≠ 2 ∨ 1152 ≤ q.replay.length then none
  else q.order.findSome? fun v => if nth 0 v q.credit = 0 then none else (q.headOf v).map fun f => (v, f)

/-- A credit is lent to a channel and returned to its transmitter (R334). -/
def PortSt.lend (q : PortSt) (vc : Nat) : PortSt := { q with used := modAt (· + 1) vc q.used, owed := modAt (· + 1) vc q.owed }

/-- A flit has taken a slot: its channel asks for a credit of the shared pool, and has it at once while the pool has one (R334). -/
def PortSt.ask (q : PortSt) (vc : Nat) : PortSt :=
  if q.used.sum < 1028 then q.lend vc else if q.asks.contains vc then q else { q with asks := q.asks ++ [vc] }

/-- A slot is free again: a lent credit goes back to the pool and on to the channel that asked first; a reserved one is due to its
transmitter (R334). -/
def PortSt.slotFree (q : PortSt) (vc : Nat) : PortSt :=
  if nth 0 vc q.used = 0 then { q with owed := modAt (· + 1) vc q.owed }
  else
    let q := { q with used := modAt (· - 1) vc q.used }
    match q.asks with
    | v :: t => { q with asks := t }.lend v
    | [] => q

/-- A payload has left the receive buffer of a port (R334). -/
def State.freeRx (s : State) (p vc : Nat) (b : List Byte) : State :=
  s.modPort p fun q => { q with rxBuf := q.rxBuf.erase b }.slotFree vc

/-- Queued flits of a port go out while they may. -/
def State.pump (p : Nat) : Nat → State → State
  | 0, s => s
  | n + 1, s =>
    let q := s.port p
    match q.nextFlit with
    | none => s
    | some (v, src, b) =>
      let f := flitForm (q.header v 0 q.txSeq (flitDest b)) b
      let s := s.modPort p fun q =>
        { q.paid with txQueue := q.txQueue.erase (src, b), replay := q.replay ++ [(src, f)], txSeq := seqNext q.txSeq,
                      credit := modAt (· - 1) v q.credit, rot := if v = 3 then q.rot else (v + 1) % 3,
                      lock := if flitLast b then q.lock.drop (· == v) else q.lock.set v src }
      let s := (s.putFlit p f).incReg64 (pgLNK p + 0x50) 1
      State.pump p n (if src < 12 then s.freeRx src v b else s)

def State.pumpAll (s : State) (p : Nat) : State := State.pump p ((s.port p).txQueue.length) s

/-! This device's own messages (R339 to R341). -/

/-- LINK_ROUTE (R341): a flit meets an unreachable entry. -/
def State.unroutable (s : State) (p vc dest : Nat) : State :=
  s.event (pgLNK p) { code := 0x0404, die := 8 + p / 6, c0 := p, c1 := vc, c2 := dest }

/-- Own flits join the queue of a port. -/
def State.queueOwn (s : State) (p : Nat) (fs : List (List Byte)) : State :=
  (s.modPort p fun q => { q with txQueue := q.txQueue ++ fs.map fun f => (12, f), ownPut := q.ownPut + fs.length }).pumpAll p

/-- A message of this device leaves X-die x for a device by the port that the forwarding table names; at an unreachable entry each of
its flits is discarded (R340, R341; assumption entry 74). -/
def State.sendTo (s : State) (x vc dest : Nat) (fs : List (List Byte)) : State :=
  let e := s.fwdEntry x dest
  if e < 12 then s.queueOwn e fs
  else if e = 0xE then s
  else fs.foldl (fun (s : State) _ => s.unroutable (6 * x) vc dest) s

/-- What a line that completes in the receiver waits for: every own flit queued so far acknowledged (R352). -/
def State.ownFlits (s : State) : List (Nat × Nat) :=
  (List.range 12).filterMap fun p => if (s.port p).ownAck = (s.port p).ownPut then none else some (p, (s.port p).ownPut)

end Sys2Proof.Machine
end

