-- ==== Sys2Proof/Machine/Coelostat.lean ====
section
/-! DEFINITION. Coelostat transfers (R353 to R355, R431, R446). -/

namespace Sys2Proof.Machine

/-- The tree of a command: port toward the parent and ports toward the children (R353, R446). -/
def State.coelTree (s : State) (p : List Byte) (root : Bool) : Nat × List Nat :=
  if bitAt (bField p 0x28 1) 0 then (bField p 0x29 1, maskBits 12 (bField p 0x2A 2))
  else (if root then 0xF else s.regField colTree 0 4, s.kids)

/-- No absent stack of contiguous mode lies between the ends of a range (R304). -/
def State.stkThrough (s : State) (a n : Nat) : Bool :=
  s.mapMode = 0 || ((List.range 8).all fun k => decide (k * 0xC00000000 < a + n ∧ a < (k + 1) * 0xC00000000) → s.mapStacks.contains k)

/-- The range meets no private region, staging region, stash slot, buddy slot or footprint of a KIND other than BCAST (R353). -/
def State.coelRangeOk (s : State) (a n : Nat) : Bool :=
  let slots := 2 * s.reg64 (pgPLT + 0xD0)
  (n == 0 || (s.stkHas a && s.stkHas (a + n - 1) && s.stkThrough a n)) && decide (a + n ≤ s.privBase) &&
    !meet a n (s.rxBase 0) slots &&
    allCtx.all fun c => match (s.cxt c).prog with
      | none => true
      | some p =>
        (s.stagePrints c (s.planStage c)).all (fun e => !meet a n e.1 e.2) &&
        (List.range p.ncat).all fun j =>
          let d := s.desc c j
          let len := if d.kind = 3 then 2 * d.bankBytes else if d.kind = 5 then recField d.word 0x10 8 else d.footLen
          decide (d.space ≠ 2 ∨ d.kind = 6) || !meet a n (((d.base : Nat) : Int) + d.footLo).toNat len

/-- Registers of the page of check unit 15 that the transfer saves (R431). -/
def State.coelSaved (s : State) : List (Nat × W32) :=
  (s.regs.filter fun e => decide (pgCHK 15 + 0x40 ≤ e.1) && decide (e.1 < pgCHK 15 + 0x1000)).map fun e => (e.1, e.2)

/-- One message of the transfer, written here and sent on to the children with its poisoned 64-byte units, numbered in the range (R332,
R354). -/
def State.coelWrite (s : State) (k : Coel) (off : Nat) (bs : List Byte) (poison : List Nat) : State :=
  let s := ((s.stkWrite (k.addr + off) bs).cacheRange (k.addr + off) bs.length true).stkPoison
    (poison.flatMap fun u => let lo := max off (64 * u); unitsOf (k.addr + lo) (min (off + bs.length) (64 * u + 64) - lo))
  let s := k.children.foldl (fun s p => s.emit (.coelData p off bs poison)) s
  { s with fab.coel := some { k with written := k.written + bs.length } }

/-- The root reads its host memory and sends messages of at most 1 MiB (R354). -/
def State.coelRead (s : State) (k : Coel) (host : Nat) : State :=
  (List.range (ceilDiv k.len 0x100000)).foldl (fun s i =>
    let off := i * 0x100000
    match s.fab.coel with
    | some k =>
      let n := min 0x100000 (k.len - off)
      s.coelWrite k off (s.hostRead (host + off) n)
        ((unitsOf off n).filter fun u => (unitsOf (host + 64 * u) (min 64 (k.len - 64 * u))).any s.host.poison.contains)
    | none => s) s

/-- COELOSTAT after it is taken (R353, R439). -/
def State.coelCmd (s : State) (c : Ctx) (t : CmdTag) (p : List Byte) : State :=
  let host := bField p 8 8
  let a := bField p 0x10 8
  let n := bField p 0x18 8
  let root := decide (bField p 0 2 = s.devId)
  let (parent, children) := s.coelTree p root
  if !zeros ((p.drop 2).take 6) || decide (2 ≤ bField p 0x28 1) || decide (4096 ≤ bField p 0x2A 2) || !zeros (p.drop 0x2C) then
    s.refuseCode c t 0x0809
  else if root && !s.inInput c host n then s.refuseCode c t 0x0808
  else if !s.coelRangeOk a n || (root != decide (parent = 0xF)) || decide (11 < children.length) ||
      (!root && decide (12 ≤ parent)) || children.contains parent then s.refuseCode c t 0x0809
  else
    let k : Coel := { ctx := c, root := root, addr := a, len := n, crc := bField p 0x20 8, parent := parent, children := children,
                      written := 0, ownOk := none, kids := [], failed := [], failSeq := 0, tag := t, saved := s.coelSaved }
    let s := { s with fab.coel := some k }
    if root then s.coelRead k host else s

/-- A COELOSTAT waits until no context is in a step state and unit 15 is free (R431, R446). -/
def execCoelostat (c : Ctx) (s : State) : Host.Outcome State Fault Refusal :=
  .next (s.takeIf c 0x30 (fun s => !s.anyStep && s.fab.coel.isNone && !(s.chkSt 15).scan) fun s => s.coelCmd c)

/-- COELOSTAT_MESSAGE: data from the parent (R332, R354). -/
def execCoelostatMessage (offset : Nat) (data : List Byte) (s : State) (poison : List Nat := []) : Host.Outcome State Fault Refusal :=
  .next (match s.fab.coel with
  | none => s
  | some k =>
    if k.root || decide (k.len < offset + data.length) || decide (0x100000 < data.length) || k.ownOk.isSome then s
    else s.coelWrite k offset data (poison.filter (unitsOf offset data.length).contains))

/-- This device and its whole subtree have reported: the report goes up, and the command ends (R354, R355). The root's list of
failed devices goes with its completion (assumption entry 34). -/
def State.coelEnd (s : State) : State := match s.fab.coel with
  | none => s
  | some k =>
    if k.ownOk.isSome && k.children.all k.kids.contains then
      let s := s.emit (.coelReport k.failed)
      let s := s.endCoel
      if k.failed = [] then s.done k.ctx k.tag
      else s.complete k.ctx k.tag 2 0x0405 noAlm k.failSeq
    else s

/-- The device's own check of the whole range (R354, R355). -/
def State.coelCheck (s : State) (k : Coel) : State :=
  let ok := decide (crc64 (s.stkRead k.addr k.len) = k.crc)
  let s := if ok then s else (s.coelRangeLost k).coelFail k.parent
  { s with fab.coel := some { k with ownOk := some ok, failed := if ok then k.failed else k.failed ++ [s.devId],
                                     failSeq := if ok then 0 else s.host.seq } }.coelEnd

/-- COELOSTAT_REPORT: a child's report, or this device's own check once the range is written (R354). -/
def execCoelostatReport (child : Option Nat) (failed : List Nat) (s : State) : Host.Outcome State Fault Refusal :=
  .next (match s.fab.coel, child with
  | none, _ => s
  | some k, none => if k.ownOk.isNone && decide (k.len ≤ k.written) then s.coelCheck k else s
  | some k, some p =>
    if k.children.contains p && !k.kids.contains p then
      { s with fab.coel := some { k with kids := k.kids ++ [p], failed := k.failed ++ failed } }.coelEnd
    else s)

end Sys2Proof.Machine
end

