-- ==== Sys2Proof/Machine/Lines.lean ====
section
/-! DEFINITION. Ephemeris lines (R240 to R258): the layout of a line, the sequencer's place in the table, loops and ADVANCE, the
accesses of a line for interlocks and poison (R238, R397), and what a line's unit does as one record `Fx`. -/

namespace Sys2Proof.Machine

/-! The line (R243). -/

structure Line where
  op : Nat
  lflags : Nat
  ctl : Nat
  d : List Nat
  waits : List Nat
  posts : List Nat
  pcost : Nat
  lclass : Nat
  rsv : Nat
  deriving DecidableEq, Repr

def Line.parse (w : Nat) : Line :=
  { op := field w 0 8, lflags := field w 8 8, ctl := field w 16 64,
    d := (List.range 4).map fun i => field w (80 + 16 * i) 16,
    waits := (List.range 4).map fun i => field w (144 + 10 * i) 10,
    posts := (List.range 4).map fun i => field w (184 + 10 * i) 10,
    pcost := field w 224 12, lclass := field w 236 4, rsv := field w 240 16 }

def Line.advance (l : Line) : Bool := bitAt l.lflags 0
def Line.trimOk (l : Line) : Bool := bitAt l.lflags 1
def Line.fence (l : Line) : Bool := bitAt l.lflags 2 || l.op == 3
/-- A field of OPCTL. -/
def Line.f (l : Line) (lo w : Nat) : Nat := field l.ctl lo w
def Line.bit (l : Line) (i : Nat) : Bool := bitAt l.ctl i
/-- Descriptor slot i. -/
def Line.s (l : Line) (i : Nat) : Nat := nth 0xFFFF i l.d

/-- NUM and KIND of a token reference. -/
def refNum (r : Nat) : Nat := r % 256
def refKind (r : Nat) : Nat := r / 256

/-- Slots of a line with ADVANCE in an iteration: each named slot plus the loops' steps (R255). -/
def Line.advanced (l : Line) (add : Nat) : Line :=
  if l.advance then { l with d := l.d.map fun j => if j = 0xFFFF then j else j + add } else l

/-! The sequencer's place (R245, R255). -/

/-- Sum of the enclosing loops' steps over the iterations done. -/
def loopAdd (fs : List LoopFrame) : Nat := (fs.map fun f => f.done * f.step).sum

/-- ITER of R291: outer * inner COUNT + inner. -/
def loopIter : List LoopFrame → Nat
  | [] => 0
  | [f] => f.done
  | f :: g :: _ => g.done * f.count + f.done

/-- After the last line of loop bodies: the next iteration, or the line after (R255). -/
def loopNext (line : Nat) : List LoopFrame → Nat × List LoopFrame
  | [] => (line + 1, [])
  | f :: t =>
    if line = f.last then
      if f.done + 1 < f.count then (f.first, { f with done := f.done + 1 } :: t) else loopNext line t
    else (line + 1, f :: t)

/-- The head moves past the line it holds (R245, R255). -/
def TileCtx.next (x : TileCtx) (l : Line) : TileCtx :=
  let x := { x with issued := x.issued + 1, executed := x.executed + 1 }
  if l.op = 1 then
    { x with line := x.line + 1, loops := ⟨x.line + 1, x.line + l.f 0 14, 0, l.f 14 16, l.f 30 16⟩ :: x.loops }
  else if l.op = 3 then { x with ended := true }
  else { x with line := (loopNext x.line x.loops).1, loops := (loopNext x.line x.loops).2 }

/-- The line at local number n of context c on physical tile k. -/
def State.lineAt (s : State) (k : Nat) (c : Ctx) (n : Nat) : Line :=
  Line.parse ((s.tile k).eph.get 0#256 (s.ephBase (k / 48) c + n)).toNat

/-- The head line, its slots advanced. -/
def State.headLine (s : State) (k : Nat) (c : Ctx) : Line :=
  let x := s.tctx k c
  (s.lineAt k c x.line).advanced (loopAdd x.loops)

/-- Context c has a line to issue on physical tile k: the step runs, and the head line is not past STEPEND (R185, R394, R486). -/
def State.seqLine (s : State) (k : Nat) (c : Ctx) : Bool :=
  let x := s.cxt c
  decide (x.state = .running) && !(s.tctx k c).ended && decide (s.sys.pstate < 2) &&
    (match x.run with
     | some r => !r.replaying
     | none => false)

/-- A pause stops the clock of tile k's island: its own settling, or one of the whole package (R32, R481). -/
def State.islandStopped (s : State) (k : Nat) : Bool := (s.tile k).settle || s.thr.pkgPause

/-- A stack halt holds tile k: from the commit of its running pass, at once without one (R313). -/
def State.tileHalted (s : State) (k : Nat) : Bool := s.anyHalt && !(s.tile k).running.any fun r => decide (r.unit = .pass)

/-- The sequencer of context c may issue on physical tile k: it has a line, and neither a pause of the context, of the island or of the
package, nor a stack halt holds it (R32, R313, R453, R481). -/
def State.seqActive (s : State) (k : Nat) (c : Ctx) : Bool :=
  s.seqLine k c && !(s.cxt c).paused && !s.islandStopped k && !s.tileHalted k

/-! Accesses. -/

/-- Elements that a line reads or writes through a descriptor. -/
structure Acc where
  v : Env
  cat : Nat
  d : Desc
  lins : List Nat
  deriving DecidableEq, Repr

/-- Elements of local index j, the scale elements of an MX tensor with them (R229). -/
def State.acc (s : State) (v : Env) (j : Nat) (lins : List Nat) : List Acc :=
  let d := s.desc v.c j
  let a : Acc := ⟨v, j, d, lins⟩
  if d.isMX then
    let sd := s.mxScaleOf v d
    [a, ⟨v, d.scale % 65536, sd, (lins.map (d.mxScaleLin sd)).eraseDups⟩]
  else [a]

/-- All elements of local index j; none for an unused slot. -/
def State.accAll (s : State) (v : Env) (j : Nat) : List Acc :=
  if j = 0xFFFF then [] else s.acc v j (List.range (s.desc v.c j).count)

/-- Keys of the bytes of accesses (R238). -/
def accKeys (as : List Acc) : List Nat :=
  as.flatMap fun a => a.lins.flatMap fun l => (a.d.elBytes (a.v.off a.d) l).map (a.v.space a.d).byteKey

/-- Marks of the bits that accesses reach: 256 times the key of a byte plus a mask of its bits (R233). -/
def accMarks (as : List Acc) : List Nat :=
  as.flatMap fun a => a.lins.flatMap fun l =>
    if a.d.planes = 0 then (a.d.elBytes (a.v.off a.d) l).map fun b => 256 * (a.v.space a.d).byteKey b + 255
    else (List.range a.d.planes).map fun p =>
      let b := a.d.bitAddr (a.v.off a.d) l p
      256 * (a.v.space a.d).byteKey (b / 8) + 2 ^ (b % 8)

/-- Marks of two writes meet in a bit. -/
def marksMeet (a b : List Nat) : Bool := a.any fun m => b.any fun n => decide (m / 256 = n / 256) && decide ((m % 256) &&& (n % 256) ≠ 0)

/-- Key of a vector register among the byte keys. -/
def regKey (r : Nat) : Nat := 2 ^ 70 + r

/-- Two lists of keys meet. -/
def keysMeet (a b : List Nat) : Bool := a.any fun k => b.contains k

def Flags.none : Flags := ⟨[], [], []⟩

/-- Flags of elements written through local index j by line n (R99). -/
def WFlags.at' (f : WFlags) (j n : Nat) : Flags :=
  ⟨f.nonfinite.map fun e => ⟨j, e, n⟩, if f.saturated then [j] else [], []⟩

def Flags.or (a b : Flags) : Flags := ⟨a.nonfinite ++ b.nonfinite, a.saturated ++ b.saturated, a.empty ++ b.empty⟩

/-- What a failed check of a pass or vector line reports (R403): its code and the record's COORD0 to COORD3. -/
structure Mis where
  code : Nat
  row : Nat
  col : Nat
  slab : Nat
  block : Nat
  deriving DecidableEq, Repr

/-- What a line does: its unit and the UNIT number of its records (R291); the bytes and registers that it reads and writes; the
live accesses that consume poison (R397); banks and arrays of an array line; the fault that a check at issue finds (R290);
whether a rerun may repeat it (R180); its effect with the flags that it raises, what the checks of that run report, and the run's
signature, all under the upsets that the run meets (R380, R387); a remote post (R257); the plan on which a hand-off line waits
(R352). -/
structure Fx where
  unit : Unit'
  unitNo : Nat := 0
  reads : List Acc := []
  writes : List Acc := []
  live : List Acc := []
  regsR : List Nat := []
  regsW : List Nat := []
  arrays : Nat := 0
  banks : List Nat := []
  release : Bool := false
  fault : Option FRec := none
  replayable : Bool := true
  run : List Upset → State → State × Flags := fun _ s => (s, Flags.none)
  mis : List Upset → State → Option Mis := fun _ _ => none
  sig : State → Nat := fun _ => 0
  remote : Option (Nat × Nat) := none
  plan : Option Nat := none

def Fx.readKeys (x : Fx) : List Nat := accKeys x.reads ++ x.regsR.map regKey
def Fx.writeKeys (x : Fx) : List Nat := accKeys x.writes ++ x.regsW.map regKey
def Fx.writeMarks (x : Fx) : List Nat := accMarks x.writes ++ x.regsW.map fun r => 256 * regKey r + 255

/-- A line being looked at: where it stands and its operands. -/
structure LCtx where
  k : Nat               -- physical tile
  on : Nat              -- the tile whose arrays run a pass: a helper's or peer's for its block or run (R262, R389)
  part : Option Nat     -- the row block that runs there (R262)
  c : Ctx
  n : Nat               -- local line number
  iter : Nat
  no : Nat              -- issue number
  l : Line
  v : Env
  lt : Nat
  step : Nat
  deriving DecidableEq, Repr

/-- A record about the line (R291). -/
def LCtx.frec (x : LCtx) (code source unit cat : Nat) : FRec :=
  ({ code := code, ctx := x.c.num, source := source, unit := unit, line := x.n, cat := cat, iter := x.iter,
     step := x.step } : FRec).at x.k x.lt

def State.lctx (s : State) (k : Nat) (c : Ctx) : LCtx :=
  let x := s.tctx k c
  { k := k, on := k, part := none, c := c, n := x.line, iter := loopIter x.loops, no := x.issued + 1, l := s.headLine k c, v := (s.cxt c).env c k,
    lt := (s.role k).lt, step := (s.cxt c).stepNo }

/-! Overlap and alias questions (R124, R165, R167, R289, R290). -/

/-- First and last+1 byte of a descriptor's footprint, as keys. -/
def Desc.footKeys (d : Desc) (v : Env) : Nat × Nat :=
  let a := ((d.base + v.off d : Nat) + d.footLo).toNat
  ((v.space d).byteKey a, (v.space d).byteKey a + d.footLen)

/-- Footprints of two tensors are disjoint. -/
def footApart (v : Env) (d e : Desc) : Bool :=
  let (a, b) := d.footKeys v
  let (x, y) := e.footKeys v
  decide (b ≤ x) || decide (y ≤ a)

/-- Tuples up to which the checker enumerates an output (R289). -/
def enumMax : Nat := 16777216

/-- A byte of the output lies in the input: decided byte by byte where the footprints meet. -/
def Desc.overlaps (v : Env) (d e : Desc) : Bool :=
  !footApart v d e && keysMeet ((d.allBytes (v.off d)).map (v.space d).byteKey) ((e.allBytes (v.off e)).map (v.space e).byteKey)

/-- The overlap question, over both banks of a pair (R124, R228). -/
def Desc.meets (v : Env) (d e : Desc) : Bool :=
  if d.kind = 3 ∨ e.kind = 3 then Desc.overlaps { v with bankB := false } d e || Desc.overlaps { v with bankB := true } d e else Desc.overlaps v d e

/-- Footprints that are not disjoint, over both banks of a pair (R289). -/
def Desc.near (v : Env) (d e : Desc) : Bool :=
  if d.kind = 3 ∨ e.kind = 3 then !footApart { v with bankB := false } d e || !footApart { v with bankB := true } d e else !footApart v d e

/-- The question is left to issue (R289). -/
def Desc.late (d : Desc) : Bool := decide (enumMax < d.count)

/-- Tensors with the scale tensors of those in an MX format (R229). -/
def State.withScales (s : State) (c : Ctx) (js : List Nat) : List Nat :=
  js.flatMap fun j => let d := s.desc c j; if d.isMX then [j, d.scale % 65536] else [j]

/-- Two index tuples of a descriptor reach one byte, or one bit of a plane (R165). -/
def Desc.aliased (d : Desc) : Bool :=
  let ps := (List.range d.count).map fun l => d.pos (coordsOf d.ext l)
  ps.eraseDups.length != ps.length

end Sys2Proof.Machine
end

