-- ==== Sys2Proof/Machine/Arrays.lean ====
section
/-! DEFINITION. Matrix arrays (R79 to R140): slab results, banks and their reload, profiles, the output stage, the checks of a pass
(R381 to R387), and what ALD, AOSP, AMM and AOUT do. -/

namespace Sys2Proof.Machine

/-! Functions of one or two operands named by a code 0x00 to 0x10 (R153). -/

def actFn (code a b : Nat) : Nat :=
  if code = 0x00 then (if isNan32 a then nan32 else a)
  else if code = 0x01 then (if isNan32 a then nan32 else if fgt a 0 then a else 0)
  else if code = 0x02 then (if fgt a 0 then a else fmul a b)
  else if code = 0x03 then fsigmoid a
  else if code = 0x04 then ftanh a
  else if code = 0x05 then fgelu a
  else if code = 0x06 then fsilu a
  else if code = 0x07 then fsoftplus a
  else if code = 0x08 then fexp a
  else if code = 0x09 then flog a
  else if code = 0x0A then frcp a
  else if code = 0x0B then fsqrt a
  else if code = 0x0C then frsqrt a
  else if code = 0x0D then ferf a
  else if code = 0x0E then fabs a
  else if code = 0x0F then fneg a
  else fmul a a

/-- The function with bits of its multiplication inverted (R383): 0x02 multiplies its two operands where the first is not above 0, 0x10
its first with itself. -/
def actMul (code a b : Nat) : Option (Nat × Nat) := if code = 0x02 && !fgt a 0 then some (a, b) else if code = 0x10 then some (a, a) else none
def actBits (m code a b : Nat) : Nat := match actMul code a b with
  | some p => if m = 0 then actFn code a b else fmulBits m p.1 p.2
  | none => actFn code a b

/-! Upsets of a run, by the place that they name. -/

/-- The bits that the upsets selected by `f` invert. -/
def upBits (us : List Upset) (f : Upset → Option Nat) : Nat := us.foldl (fun m u => match f u with
  | some b => m ^^^ 2 ^ b
  | none => m) 0

def accBits (us : List Upset) (i n b : Nat) : Nat := upBits us fun u => match u with
  | .acc r c k x => if r = i ∧ c = n ∧ k = b then some (x % 80) else none
  | _ => none
def residueBits (us : List Upset) (i n b : Nat) : Nat := upBits us fun u => match u with
  | .residue r c k x => if r = i ∧ c = n ∧ k = b then some (x % 3) else none
  | _ => none
def productBits (us : List Upset) (i n k : Nat) : Nat := upBits us fun u => match u with
  | .product r c q x => if r = i ∧ c = n ∧ q = k then some (x % 22) else none
  | _ => none
def cellColBits (us : List Upset) (i a b : Nat) : Nat := upBits us fun u => match u with
  | .cellCol r q k x => if r = i ∧ q = a ∧ k = b then some (x % 104) else none
  | _ => none
def cellRowBits (us : List Upset) (n b : Nat) : Nat := upBits us fun u => match u with
  | .cellRow c k x => if c = n ∧ k = b then some (x % 104) else none
  | _ => none
def outBits (us : List Upset) (i n : Nat) (act : Bool) : Nat := upBits us fun u => match u with
  | .out r c g x => if r = i ∧ c = n ∧ g = act then some (x % 48) else none
  | _ => none

/-- Bits `m` of a two's complement number of `w` bits inverted. -/
def flipInt (w m : Nat) (a : Int) : Int := if m = 0 then a else signed w (unsigned w a ^^^ m)

/-! Slab results (R79 to R86). -/

/-- An exact accumulator with the special products that bypass it (R80, R81). -/
structure ExAcc where
  acc : Int
  nan : Bool
  pinf : Bool
  ninf : Bool
  deriving DecidableEq, Repr

/-- A finite element as an integer of its format's least step (R381). -/
def stepInt (f : FFmt) (n d : Nat) : Nat := n * 2 ^ (f.bias + f.fbits - 1) / d

/-- Weight of the least step as an exponent: 2 to the minus this (R76, R381). -/
def stepExp (f : FFmt) : Nat := f.bias + f.fbits - 1

/-- A finite element as a signed integer of its format's least step; 0 for the others (R381). -/
def stepSigned (f : FFmt) (e : Nat) : Int := match f.decode e with
  | .fin s n d => if s then -(stepInt f n d : Nat) else (stepInt f n d : Nat)
  | _ => 0

/-- r(I) = I mod 7, 0 to 6 (R381). -/
def res7 (i : Int) : Nat := (i % 7).toNat

/-- A product enters the accumulator (R80, R81). -/
def ExAcc.add (fa fw : FFmt) (z : ExAcc) (p : Nat × Nat) : ExAcc :=
  match fa.decode p.1, fw.decode p.2 with
  | .nan, _ => { z with nan := true }
  | _, .nan => { z with nan := true }
  | .inf s, .inf t => if s = t then { z with pinf := true } else { z with ninf := true }
  | .inf s, .fin t n _ => if n = 0 then { z with nan := true } else if s = t then { z with pinf := true } else { z with ninf := true }
  | .fin s n _, .inf t => if n = 0 then { z with nan := true } else if s = t then { z with pinf := true } else { z with ninf := true }
  | .fin s n d, .fin t m e =>
    let v : Int := (stepInt fa n d * stepInt fw m e : Nat)
    { z with acc := if s = t then z.acc + v else z.acc - v }

/-- The accumulator rounded once with its exact multiplier; none: a block scale of 0xFF (R81 to R83). -/
def ExAcc.round (z : ExAcc) (mult : Option FVal) : Nat :=
  match mult with
  | none => nan32
  | some m =>
    if z.nan || (z.pinf && z.ninf) then nan32
    else if z.pinf then rnd32 (.inf false)
    else if z.ninf then rnd32 (.inf true)
    else if z.acc = 0 then 0
    else rnd32 (mulV (intV z.acc) m)

def exactSum (fa fw : FFmt) (ps : List (Nat × Nat)) : ExAcc := ps.foldl (ExAcc.add fa fw) ⟨0, false, false, false⟩

/-- One level of the tree of R84: neighbours added, an odd last one kept. -/
def treeLevel : List Nat → List Nat
  | a :: b :: t => fadd a b :: treeLevel t
  | l => l

/-- The tree over at most 64 products (R84). -/
def treeSum (l : List Nat) : Nat :=
  nth 0 0 (treeLevel (treeLevel (treeLevel (treeLevel (treeLevel (treeLevel l))))))

/-- The multiplier of an MX block: its LSB and both scales; none with a scale of 0xFF (R83). -/
def mxMult (fa fw : FFmt) (xa xw : Nat) : Option FVal :=
  if xa = 0xFF ∨ xw = 0xFF then none
  else some (scaleV (.fin false 1 (2 ^ (stepExp fa + stepExp fw))) ((xa : Int) + xw - 254))

/-- The products of a slab by MX block; one block for the other formats (R83). -/
def slabBlocks (mx : Bool) (ps : List (Nat × Nat)) : List (List (Nat × Nat)) :=
  if mx && decide (32 < ps.length) then [ps.take 32, ps.drop 32] else [ps]

/-- The accumulator at the end of a block, some of its bits inverted. -/
def blockSum (fa fw : FFmt) (m : Nat) (ps : List (Nat × Nat)) : ExAcc :=
  let z := exactSum fa fw ps
  { z with acc := flipInt 80 m z.acc }

/-- A slab result from the raw elements in ascending k (R82 to R84): format codes of activation and weight, the two per-tensor
scales of plain FP8, the block scales of MX; the bits inverted of each block's accumulator and of each product. -/
def slabRun (acc prod : Nat → Nat) (ca cw : Nat) (ps : List (Nat × Nat)) (sa sw : Nat) (xa xw : List Nat) : Nat :=
  let fa := fmtFloat ca
  let fw := fmtFloat cw
  if ca = 7 ∨ ca = 8 then treeSum (((List.range ps.length).zip ps).map fun p => rnd32 (fa.mulBits (prod p.1) p.2.1 p.2.2))
  else if fmtMX ca then
    let b0 := (blockSum fa fw (acc 0) (ps.take 32)).round (mxMult fa fw (nth 0x7F 0 xa) (nth 0x7F 0 xw))
    if ps.length ≤ 32 then b0
    else fadd b0 ((blockSum fa fw (acc 1) (ps.drop 32)).round (mxMult fa fw (nth 0x7F 1 xa) (nth 0x7F 1 xw)))
  else (blockSum fa fw (acc 0) ps).round (some (mulV (.fin false 1 (2 ^ (stepExp fa + stepExp fw))) (mulV (val32 sa) (val32 sw))))

/-- A slab result that no upset meets. -/
def slabResult (ca cw : Nat) (ps : List (Nat × Nat)) (sa sw : Nat) (xa xw : List Nat) : Nat :=
  slabRun (fun _ => 0) (fun _ => 0) ca cw ps sa sw xa xw

/-- One iteration of the compensated loop (R92): (hi, lo) and the next slab. -/
def compStep (hi lo x : Nat) : Nat × Nat :=
  let t := fadd hi x
  let z := fsub t hi
  let e := fadd (fsub hi (fsub t z)) (fsub x z)
  (t, if nonFinite32 t then 0 else fadd lo e)

/-! Banks (R106 to R118). -/

/-- Key of bank b of array a. -/
def bankKey (a b : Nat) : Nat := 4 * a + b

/-- Arrays that a line names. -/
def Line.arrays (l : Line) : List Nat := maskBits 4 (l.f 0 4)

/-- Banks of ALD and AMM: the named bank, or all four in horizon form (R108). -/
def Line.banksOf (l : Line) : List Nat := if l.bit 4 then [0, 1, 2, 3] else [l.f 5 2]

/-- Bank keys of ALD and AMM. -/
def Line.bankKeys (l : Line) : List Nat := l.arrays.flatMap fun a => l.banksOf.map (bankKey a)

/-- Columns of an array in a form (R108). -/
def formWidth (form : Nat) : Nat := if form = 1 then 256 else 64

/-- Local linear index of weight (k, n): dimension 0 is N, or K under TRANSPOSE (R229). -/
def Desc.weightLin (d : Desc) (tr : Bool) (k n : Nat) : Nat := if tr then k + d.e 0 * n else n + d.e 0 * k
def Desc.weightK (d : Desc) (tr : Bool) : Nat := if tr then d.e 0 else d.e 1
def Desc.weightN (d : Desc) (tr : Bool) : Nat := if tr then d.e 1 else d.e 0

/-- The tag that an ALD records (R107). -/
def State.aldTag (s : State) (x : LCtx) : BankTag :=
  let d := s.desc x.c (x.l.s 0)
  { ctx := x.c, tile := x.k, cat := x.l.s 0, form := x.l.f 4 1, slab := x.l.f 16 16, nbase := x.l.f 32 16,
    transpose := x.l.bit 7, scale := d.scale, kcount := min 64 (d.weightK (x.l.bit 7) - 64 * x.l.f 16 16) }

/-- Weight columns that a load brings into array a: first N index and count. -/
def BankTag.cols (t : BankTag) (a : Nat) : List Nat :=
  (List.range (formWidth t.form)).map fun c => 64 * t.nbase + a * formWidth t.form + c

/-- K indices of bank b of a load (R108). -/
def BankTag.ks (t : BankTag) (b : Nat) : List Nat :=
  let all := (List.range t.kcount).map (64 * t.slab + ·)
  if t.form = 1 then (all.drop (16 * b)).take 16 else all

/-- Elements that a load reads for bank b of array a. -/
def BankTag.lins (t : BankTag) (d : Desc) (a b : Nat) : List Nat :=
  (t.cols a).flatMap fun n => if n < d.weightN t.transpose then (t.ks b).map fun k => d.weightLin t.transpose k n else []

/-- The contents of bank b of array a under a load: weights, MX scales and the checksum column (R114, R115, R138). -/
def State.bankLoad (s : State) (v : Env) (t : BankTag) (a b : Nat) : Bank :=
  let d := s.desc v.c t.cat
  let nn := d.weightN t.transpose
  let cols := (t.cols a).map fun n =>
    (t.ks b).map fun k => if n < nn then s.elRaw v d (d.weightLin t.transpose k n) else 0
  let scales := (t.cols a).map fun n => (List.range 2).map fun i =>
    if d.isMX && decide (n < nn) && decide (32 * i < t.kcount)
    then s.mxScale v d (d.weightLin t.transpose (64 * t.slab + 32 * i) n) else 0x7F
  let f := fmtFloat d.fmt
  let wsum := (List.range (t.ks b).length).map fun i => (cols.map fun col => stepSigned f (nth 0 i col)).sum
  { tag := some t, fmt := d.fmt, cols := cols, scales := scales, wsum := wsum }

def TileSt.bank (t : TileSt) (key : Nat) : Bank := t.banks.get Bank.empty key

/-- The environment of the load that a tag records: the tile whose store it read. -/
def State.tagEnv (s : State) (t : BankTag) : Env := (s.cxt t.ctx).env t.ctx t.tile

/-- A bank of a tile filled by a recorded load. -/
def State.fillBank (s : State) (k key : Nat) (t : BankTag) : State :=
  s.modTile k fun x => { x with banks := x.banks.set key (s.bankLoad (s.tagEnv t) t (key / 4) (key % 4)) }

/-- Key under which the last horizon load of the array of a bank is known (R118). -/
def horizonKey (key : Nat) : Nat := 16 + key / 4

/-- Keys under which an ALD is known: its banks, and the array's horizon load. -/
def Line.loadKeys (l : Line) : List Nat := l.bankKeys ++ (if l.bit 4 then l.arrays.map (16 + ·) else [])

/-- The load that an AMM expects in a bank: the ALD of this step that last filled it; for the horizon form the horizon ALD that last filled
all four banks (R118). -/
def State.expected (s : State) (x : LCtx) (key : Nat) : Option BankTag :=
  ((s.tctx x.k x.c).loaded.find? (·.1 = if x.l.bit 4 then horizonKey key else key)).map (·.2)

/-- Banks of an AMM whose tag is not the expected load's (R118); an empty tag counts, as a reset of the context that overwrote the bank
leaves it (R107; assumption entry 76). -/
def State.reloads (s : State) (x : LCtx) : List (Nat × BankTag) :=
  x.l.bankKeys.filterMap fun key =>
    match s.expected x key with
    | some t => if ((s.tile x.on).bank key).tag = some t then none else some (key, t)
    | none => none

/-- The reload (R118): each bank again, each repeated ALD counted once in EVENT_COUNT of the ARY page. -/
def State.reload (s : State) (x : LCtx) : State :=
  let rs := s.reloads x
  let s := rs.foldl (fun s e => s.fillBank x.on e.1 e.2) s
  ((rs.map (·.2)).eraseDups).foldl (fun s _ => s.countEvent (pgARY (x.on / 48) (x.on % 48))) s

/-! ALD (R114 to R117). -/

def State.aldFx (s : State) (x : LCtx) : Fx :=
  let t := s.aldTag x
  let d := s.desc x.c t.cat
  let acc := s.acc x.v t.cat ((x.l.arrays.flatMap fun a => x.l.banksOf.flatMap (t.lins d a)).eraseDups)
  { unit := .ald, unitNo := 1 + nth 0 0 x.l.arrays, reads := acc, live := acc, banks := x.l.bankKeys, arrays := x.l.f 0 4,
    run := fun _ s =>
      let s := x.l.bankKeys.foldl (fun s key => s.fillBank x.k key t) s
      (s.modTctx x.k x.c fun y =>
        { y with loaded := x.l.loadKeys.foldl (fun l key => l.set key t) y.loaded,
                 held := x.l.bankKeys.map (fun key => (key, t.cat)) ++ y.held.filter fun h => !x.l.bankKeys.contains h.1 },
       Flags.none) }

/-! AOSP and profiles (R119, R120). -/

def State.aospFx (s : State) (x : LCtx) : Fx :=
  let acc := s.accAll x.v (x.l.s 0)
  { unit := .aosp, unitNo := 1, reads := acc, live := acc,
    run := fun _ s =>
      let p := BitVec.ofNat 256 (ofBytesLE (s.footBytes x.v (s.desc x.c (x.l.s 0))))
      (s.modTctx x.k x.c fun y => { y with profiles := y.profiles.set (x.l.f 0 3) p }, Flags.none) }

/-- An output-stage profile (R119). -/
structure Profile where
  scaleMode : Nat
  biasMode : Nat
  act : Nat
  savePre : Bool
  scaleImm : Nat
  scaleIdx : Nat
  biasIdx : Nat
  preIdx : Nat
  actImm : Nat
  deriving DecidableEq, Repr

def Profile.parse (w : Nat) : Profile :=
  { scaleMode := recField w 0 1, biasMode := recField w 1 1, act := recField w 2 1, savePre := bitAt (recField w 3 1) 0,
    scaleImm := recField w 4 4, scaleIdx := recField w 8 2, biasIdx := recField w 0xC 2, preIdx := recField w 0x10 2,
    actImm := recField w 0x14 4 }

/-- The profile that a pass uses; an identity for a raw AMM. -/
def State.profile (s : State) (k : Nat) (c : Ctx) (slot : Nat) : Profile :=
  Profile.parse (((s.tctx k c).profiles.get 0#256 slot).toNat)

/-- Vectors that a profile reads. -/
def Profile.vectors (p : Profile) : List Nat :=
  (if p.scaleMode = 2 then [p.scaleIdx] else []) ++ (if p.biasMode = 1 then [p.biasIdx] else [])

/-- The scale of column n. -/
def State.outScale (s : State) (v : Env) (p : Profile) (n : Nat) : Option Nat :=
  if p.scaleMode = 1 then some p.scaleImm else if p.scaleMode = 2 then some (s.elF32 v (s.desc v.c p.scaleIdx) n) else none

/-- Steps 2 to 4 of the output stage for column n: the pre-activation value and the activation's (R128), with bits of the two products
inverted; a NaN leaves as the canonical one (R74). -/
def State.outStage (s : State) (v : Env) (p : Profile) (m : Bool → Nat) (n x : Nat) : Nat × Nat :=
  let bi := if p.biasMode = 1 then some (s.elF32 v (s.desc v.c p.biasIdx) n) else none
  let y := match s.outScale v p n, bi with
    | none, none => canon32 x
    | some a, none => fmulBits (m false) x a
    | none, some b => fadd x b
    | some a, some b => ffmaBits (m false) x a b
  (y, actBits (m true) p.act y p.actImm)

/-- The product check of a column's output stage (R383, R386). -/
def State.outBad (s : State) (v : Env) (p : Profile) (m : Bool → Nat) (n x : Nat) : Bool :=
  let y := (s.outStage v p m n x).1
  ((s.outScale v p n).any fun a => fFP32.prodBad (m false) x a) || (actMul p.act y p.actImm).any fun e => fFP32.prodBad (m true) e.1 e.2

/-- The reduction of a row: value and column (R129). -/
def redStep (mx : Bool) (w : Option (Nat × Nat)) (e : Nat × Nat) : Option (Nat × Nat) :=
  match w with
  | none => some e
  | some b =>
    if (if mx then fgt e.1 b.1 else fgt b.1 e.1) || (isNan32 e.1 && !isNan32 b.1) then some e else some b

/-! The pass (R121 to R133). -/

/-- What a pass needs beside its rows: whether the output stage runs, the reduction, the mask, the profile, the columns. -/
structure Pass where
  final : Bool
  red : Nat
  masked : Bool
  prof : Profile
  rows : List Nat
  cols : List Nat
  deriving DecidableEq, Repr

/-- Rows of a pass, or of the row block of 4,096 that runs apart (R261). -/
def LCtx.rows (x : LCtx) (n : Nat) : List Nat := match x.part with
  | none => List.range n
  | some b => (List.range n).filter fun i => i / 4096 = b

/-- Row i is live (R126). -/
def State.rowLive (s : State) (x : LCtx) (masked : Bool) (i : Nat) : Bool :=
  !masked || s.elRaw x.v (s.desc x.c (x.l.s 3)) i == 1

/-- Local linear index of (n, row) in an output: dimension 0 is N, dimension 1 the row (R229). -/
def Desc.outLin (d : Desc) (n i : Nat) : Nat := n + d.e 0 * i

/-- The element of a RED output for row i: rank 1, or extent 1 on dimension 0 (assumption entry 30). -/
def Desc.redLin (d : Desc) (i : Nat) : Nat := if d.rank ≤ 1 then i else d.e 0 * i

/-- FILL of R223. -/
def Desc.fills (d : Desc) : Bool := bitAt d.modes 0

/-- The values that row i brings into D1 and the PRE tensor: `vals` are the running results (pairs under a raw compensated
pass) by column. -/
def State.passRow (s : State) (x : LCtx) (p : Pass) (ups : List Upset) (i : Nat) (vals : List (Nat × Nat × Nat)) : List OutEl × List OutEl :=
  let d1 := s.desc x.c (x.l.s 1)
  let dp := s.desc x.c p.prof.preIdx
  if p.final then
    let st := vals.map fun e => (e.1, s.outStage x.v p.prof (outBits ups i e.1) e.1 e.2.1)
    let pre := if p.prof.savePre then st.map fun e => { lin := dp.outLin e.1 i, val := e.2.1, snd := dp.lone : OutEl } else []
    if p.red = 0 then (st.map fun e => { lin := d1.outLin e.1 i, val := e.2.2, snd := d1.lone : OutEl }, pre)
    else
      match (st.map fun e => (e.2.2, e.1)).foldl (redStep (p.red = 1)) none with
      | some (z, n) => ([{ lin := d1.redLin i, val := z, snd := n : OutEl }], pre)
      | none => ([], pre)
  else (vals.map fun e => { lin := d1.outLin e.1 i, val := e.2.1, snd := e.2.2 : OutEl }, [])

/-- The fills of masked row i (R127). -/
def State.passFill (s : State) (x : LCtx) (p : Pass) (i : Nat) : List OutEl × List OutEl :=
  let d1 := s.desc x.c (x.l.s 1)
  let dp := s.desc x.c p.prof.preIdx
  let f (d : Desc) (l : Nat) : OutEl := { lin := l, raw := some d.fillRaw, quiet := true }
  (if d1.fills then (if p.red = 0 then p.cols.map fun n => f d1 (d1.outLin n i) else [f d1 (d1.redLin i)]) else [],
   if p.final && p.prof.savePre && dp.fills then p.cols.map fun n => f dp (dp.outLin n i) else [])

/-- The writes of a whole pass with their flags. -/
def State.passWrite (s : State) (x : LCtx) (p : Pass) (out : List (List OutEl × List OutEl)) : State × Flags :=
  let j := x.l.s 1
  let (s, f1) := s.writeEls x.v (s.desc x.c j) (out.flatMap (·.1))
  let pre := out.flatMap (·.2)
  if pre = [] then (s, f1.at' j x.n)
  else
    let (s, fp) := s.writeEls x.v (s.desc x.c p.prof.preIdx) pre
    (s, (f1.at' j x.n).or (fp.at' p.prof.preIdx x.n))

/-- Elements that a pass may write in D1 and the PRE tensor. -/
def State.passOuts (s : State) (x : LCtx) (p : Pass) : List Acc :=
  let d1 := s.desc x.c (x.l.s 1)
  let dp := s.desc x.c p.prof.preIdx
  s.acc x.v (x.l.s 1) (if p.red = 0 then p.rows.flatMap fun i => p.cols.map fun n => d1.outLin n i else p.rows.map d1.redLin) ++
    (if p.final && p.prof.savePre then s.acc x.v p.prof.preIdx (p.rows.flatMap fun i => p.cols.map fun n => dp.outLin n i) else [])

/-- The overlap question of a pass left to issue (R124, R289). -/
def State.passOverlap (s : State) (x : LCtx) (outs ins : List Nat) : Option FRec :=
  (s.withScales x.c outs).findSome? fun o =>
    let d := s.desc x.c o
    if d.late && (s.withScales x.c ins).any fun i => Desc.meets x.v d (s.desc x.c i) then some (x.frec 0x0234 1 1 o) else none

/-! Signatures (R387). -/

/-- The bytes of the elements written to a tensor: rows in order, each element zero-extended to whole bytes, an MX scale behind its
block. -/
def State.sigBytes (s : State) (v : Env) (d : Desc) (rows : List (List Nat)) : List Byte :=
  let el (l : Nat) : List Byte := bytesLE (ceilDiv d.elBits 8) (s.elRaw v d l)
  if d.isMX then rows.flatMap fun r => (chunksOf 32 (r.length / 32 + 1) r).flatMap fun b =>
      b.flatMap el ++ (match b with
        | l :: _ => bytesLE 1 (s.mxScale v d l)
        | [] => [])
  else rows.flatMap fun r => r.flatMap el

/-- The signature of a run, read from what it wrote: D1, then the PRE tensor; rows masked under KEEP stay out. -/
def State.passSig (s : State) (x : LCtx) (p : Pass) : Nat :=
  let d1 := s.desc x.c (x.l.s 1)
  let dp := s.desc x.c p.prof.preIdx
  let own (d : Desc) : List Nat := p.rows.filter fun i => d.fills || s.rowLive x p.masked i
  crc64 (s.sigBytes x.v d1 ((own d1).map fun i => if p.red = 0 then p.cols.map (d1.outLin · i) else [d1.redLin i]) ++
    (if p.final && p.prof.savePre then s.sigBytes x.v dp ((own dp).map fun i => p.cols.map (dp.outLin · i)) else []))

/-- Slots of a line that name a tensor. -/
def named (l : List Nat) : List Nat := l.filter (· ≠ 0xFFFF)

/-! AMM. -/

/-- Trim may split the pass into row blocks of 4,096 (R261). -/
def State.splits (s : State) (x : LCtx) : Bool :=
  (match (s.cxt x.c).prog with
    | some p => p.trim
    | none => false) && x.l.op == 0x22 && x.l.trimOk && !x.l.bit 4 && decide (8192 ≤ (s.desc x.c (x.l.s 0)).e 1)


def State.ammPass (s : State) (x : LCtx) : Pass :=
  let d0 := s.desc x.c (x.l.s 0)
  let nn (a : Nat) : Nat := match s.expected x (bankKey a (nth 0 0 x.l.banksOf)) with
    | some t => (s.desc x.c t.cat).weightN t.transpose
    | none => 0
  let w := formWidth (x.l.f 4 1)
  { final := x.l.bit 9, red := if x.l.bit 9 then x.l.f 13 2 else 0, masked := x.l.bit 15,
    prof := s.profile x.k x.c (x.l.f 10 3), rows := x.rows (d0.e 1),
    cols := x.l.arrays.flatMap fun a =>
      ((List.range w).map fun c => 64 * x.l.f 32 16 + a * w + c).filter fun n => decide (n < nn a) }

/-- K indices of the slab. -/
def State.ammKs (s : State) (x : LCtx) : List Nat :=
  let d0 := s.desc x.c (x.l.s 0)
  let j := x.l.f 16 16
  (List.range (min 64 (d0.e 0 - 64 * j))).map (64 * j + ·)

/-- The array that computes column n, and the column's place in it (R108). -/
def LCtx.colPlace (x : LCtx) (n : Nat) : Nat × Nat :=
  let w := formWidth (x.l.f 4 1)
  ((n - 64 * x.l.f 32 16) / w, (n - 64 * x.l.f 32 16) % w)

/-- The first bank of the pass that serves column n. -/
def State.bankOf (s : State) (x : LCtx) (n : Nat) : Bank :=
  (s.tile x.on).bank (bankKey (x.colPlace n).1 (nth 0 0 x.l.banksOf))

/-- Weights of column n in ascending k, with its block scales, from the tile's banks (R108). -/
def State.columnOf (s : State) (x : LCtx) (n : Nat) : List Nat × List Nat :=
  let (a, c) := x.colPlace n
  (x.l.banksOf.flatMap fun b => nth [] c ((s.tile x.on).bank (bankKey a b)).cols, nth [] c (s.bankOf x n).scales)

/-- Activations of row i of the slab, in ascending k. -/
def State.ammActs (s : State) (x : LCtx) (i : Nat) : List Nat :=
  let d0 := s.desc x.c (x.l.s 0)
  (s.ammKs x).map fun k => s.elRaw x.v d0 (k + d0.e 0 * i)

/-- Block scales of row i of the slab. -/
def State.ammScales (s : State) (x : LCtx) (i : Nat) : List Nat :=
  let d0 := s.desc x.c (x.l.s 0)
  if d0.isMX then ((s.ammKs x).filter fun k => k % 32 = 0).map fun k => s.mxScale x.v d0 (k + d0.e 0 * i) else []

/-- The slab result of row i and column n (R122). -/
def State.ammSlab (s : State) (x : LCtx) (ups : List Upset) (i : Nat) (row xa : List Nat) (n : Nat) : Nat :=
  let d0 := s.desc x.c (x.l.s 0)
  let col := s.columnOf x n
  let b := s.bankOf x n
  let sw := match b.tag with
    | some t => t.scale
    | none => 0
  slabRun (accBits ups i n) (productBits ups i n) d0.fmt b.fmt (row.zip col.1) d0.scale sw xa col.2

/-- The running result of row i and column n: value, and second word of a raw pair (R122). -/
def State.ammRun (s : State) (x : LCtx) (i n slab : Nat) : Nat × Nat :=
  let acc := x.l.bit 7
  let comp := x.l.bit 8
  let d2 := s.desc x.c (x.l.s 2)
  let inRaw := if acc then s.elRaw x.v d2 (d2.outLin n i) else 0
  if comp then
    let p := if acc then compStep (inRaw % 2 ^ 32) (inRaw / 2 ^ 32) slab else (slab, 0)
    if x.l.bit 9 then (fadd p.1 p.2, 0) else p
  else (if acc then fadd (inRaw % 2 ^ 32) slab else slab, 0)

/-- The running results of a live row by column. -/
def State.ammVals (s : State) (x : LCtx) (p : Pass) (ups : List Upset) (i : Nat) : List (Nat × Nat × Nat) :=
  let row := s.ammActs x i
  let xa := s.ammScales x i
  p.cols.map fun n => (n, s.ammRun x i n (s.ammSlab x ups i row xa n))

/-- Row i of an AMM: live rows compute, masked rows fill (R122, R126, R127). -/
def State.ammRow (s : State) (x : LCtx) (p : Pass) (ups : List Upset) (i : Nat) : List OutEl × List OutEl :=
  if s.rowLive x p.masked i then s.passRow x p ups i (s.ammVals x p ups i) else s.passFill x p i

/-- An array's accumulators. -/
def TileSt.accs (t : TileSt) (a : Nat) : List (BitVec 80) := t.acc.get (List.replicate 4096 0#80) a

/-- What the row buffer and the accumulator files hold after the pass (R106, R108); no result depends on them. The j-th live row stands in
row j mod 16 of the buffer, zeros behind its last K index; its column c in accumulator 64 * (j mod 64) + c of its array, or 256 * (j mod 16) + c
in horizon form, with the sum of its last block (assumption entry 77). -/
def State.keepRow (s : State) (x : LCtx) (p : Pass) (ups : List Upset) : State :=
  let d0 := s.desc x.c (x.l.s 0)
  let live := p.rows.filter (s.rowLive x p.masked)
  let w := formWidth (x.l.f 4 1)
  let kept := ((List.range live.length).zip live).drop (live.length - 4096 / w)
  let exact := d0.isMX || d0.fmt == 3 || d0.fmt == 4
  let sum (i n : Nat) : BitVec 80 :=
    let bs := slabBlocks d0.isMX ((s.ammActs x i).zip (s.columnOf x n).1)
    let b := bs.length - 1
    BitVec.ofInt 80 (blockSum (fmtFloat d0.fmt) (fmtFloat (s.bankOf x n).fmt) (accBits ups i n b) (nth [] b bs)).acc
  s.modTile x.on fun t =>
    { t with rowBuf := (kept.drop (kept.length - 16)).foldl (fun l e => modAt (fun _ => takeD 0 64 (s.ammActs x e.2)) (e.1 % 16) l) t.rowBuf,
             acc := if exact then x.l.arrays.foldl (fun (l : Tbl (List (BitVec 80))) a =>
                l.set a (kept.foldl (fun f e => (List.range w).foldl (fun f c =>
                  modAt (fun _ => sum e.2 (64 * x.l.f 32 16 + a * w + c)) (w * (e.1 % (4096 / w)) + c) f) f) (t.accs a))) t.acc
              else t.acc }

/-! The checks of an array pass (R381 to R385). -/

/-- The residue sum over a block's products (R381). -/
def rho (fa fw : FFmt) (ps : List (Nat × Nat)) : Nat :=
  ps.foldl (fun r p => (r + res7 (stepSigned fa p.1) * res7 (stepSigned fw p.2)) % 7) 0

/-- Every column of the arrays of a pass, those beyond the weights' extent with them (R115). -/
def LCtx.cells (x : LCtx) : List Nat :=
  let w := formWidth (x.l.f 4 1)
  x.l.arrays.flatMap fun a => (List.range w).map fun c => 64 * x.l.f 32 16 + a * w + c

/-- Products of row i and column n by block. -/
def State.cellPairs (s : State) (x : LCtx) (row : List Nat) (n : Nat) : List (List (Nat × Nat)) :=
  slabBlocks (s.desc x.c (x.l.s 0)).isMX (row.zip (s.columnOf x n).1)

/-- COORD3 of a residue or checksum record: the block of an MX pair (R403). -/
def State.blockNo (s : State) (x : LCtx) (b : Nat) : Nat := if (s.desc x.c (x.l.s 0)).isMX then b else full32

/-- The residue check of row i (R382): the accumulator of each column and block against its residue sum. -/
def State.residueMis (s : State) (x : LCtx) (ups : List Upset) (i : Nat) : Option Mis :=
  let fa := fmtFloat (s.desc x.c (x.l.s 0)).fmt
  let row := s.ammActs x i
  x.cells.findSome? fun n =>
    let fw := fmtFloat (s.bankOf x n).fmt
    let bs := s.cellPairs x row n
    ((List.range bs.length).zip bs).findSome? fun e =>
      if res7 (blockSum fa fw (accBits ups i n e.1) e.2).acc = rho fa fw e.2 ^^^ residueBits ups i n e.1 then none
      else some ⟨0x0501, i, n, x.l.f 16 16, s.blockNo x e.1⟩

/-- The product check of row i of a BF16 or FP16 pass (R383); COORD3 is the column's lane in its array. -/
def State.productMis (s : State) (x : LCtx) (ups : List Upset) (i : Nat) : Option Mis :=
  let fa := fmtFloat (s.desc x.c (x.l.s 0)).fmt
  let row := s.ammActs x i
  x.cells.findSome? fun n =>
    let ps := row.zip (s.columnOf x n).1
    if ((List.range ps.length).zip ps).any fun e => fa.prodBad (productBits ups i n e.1) e.2.1 e.2.2
    then some ⟨0x0502, i, n, x.l.f 16 16, (x.colPlace n).2⟩ else none

/-- The product check of a row's output stage (R383, R386); COORD3 is the lane. -/
def State.outMis (s : State) (x : LCtx) (p : Pass) (ups : List Upset) (slab i : Nat) (vals : List (Nat × Nat × Nat)) : Option Mis :=
  if p.final then vals.findSome? fun e =>
    if s.outBad x.v p.prof (outBits ups i e.1) e.1 e.2.1 then some ⟨0x0502, i, e.1, slab, e.1 % 64⟩ else none
  else none

/-- K indices of block b among `ks`. -/
def blockPart {α : Type} (mx : Bool) (b : Nat) (ks : List α) : List α := if mx then (ks.drop (32 * b)).take 32 else ks

/-- Comparisons of the checksum column and row of array `a` over live rows for the exact pairs (R138, R139, R384): row or column that
disagrees, per block. -/
def State.exactSums (s : State) (x : LCtx) (ups : List Upset) (live : List Nat) (a : Nat) : Option Mis :=
  let d0 := s.desc x.c (x.l.s 0)
  let fa := fmtFloat d0.fmt
  let mx := d0.isMX
  let cols := x.cells.filter fun n => (x.colPlace n).1 = a
  let fw := fmtFloat (s.bankOf x (nth 0 0 cols)).fmt
  let acts := live.map fun i => (i, s.ammActs x i)
  let ws := cols.map fun n => (n, (s.columnOf x n).1)
  let wsum := x.l.banksOf.flatMap fun b => ((s.tile x.on).bank (bankKey a b)).wsum
  let nk := (s.ammKs x).length
  let A (i n b : Nat) (r w : List Nat) : Int := (blockSum fa fw (accBits ups i n b) (blockPart mx b (r.zip w))).acc
  let dot (f g : List Int) : Int := ((f.zip g).map fun e => e.1 * e.2).sum
  (List.range (if mx && decide (32 < nk) then 2 else 1)).findSome? fun b =>
    (acts.findSome? fun r =>
      let c := dot (blockPart mx b (r.2.map (stepSigned fa))) (blockPart mx b wsum)
      if flipInt 104 (cellColBits ups r.1 a b) c = (ws.map fun w => A r.1 w.1 b r.2 w.2).sum then none
      else some ⟨0x0503, r.1, full32, x.l.f 16 16, s.blockNo x b⟩).or
    (let asum := (List.range nk).map fun k => (acts.map fun r => stepSigned fa (nth 0 k r.2)).sum
     ws.findSome? fun w =>
      let c := dot (blockPart mx b asum) (blockPart mx b (w.2.map (stepSigned fw)))
      if flipInt 104 (cellRowBits ups w.1 b) c = (acts.map fun r => A r.1 w.1 b r.2 w.2).sum then none
      else some ⟨0x0503, full32, w.1, x.l.f 16 16, s.blockNo x b⟩)

/-- Absent partners leave the other. -/
def optComb {α : Type} (f : α → α → α) : Option α → Option α → Option α
  | a, none => a
  | none, b => b
  | some a, some b => some (f a b)

/-- One level of the lane tree. -/
def optLevel {α : Type} (f : α → α → α) : List (Option α) → List (Option α)
  | a :: b :: t => optComb f a b :: optLevel f t
  | l => l

/-- Lanes by index mod Wr in ascending index, then the tree (R168). -/
def laneTree {α : Type} (f : α → α → α) (wr : Nat) (xs : List (Nat × α)) : Option α :=
  let lanes := (List.range wr).map fun l =>
    (xs.filter fun e => e.1 % wr = l).foldl (fun acc e => optComb f acc (some e.2)) none
  let up := optLevel f
  match up (up (up (up (up (up (up lanes)))))) with
  | a :: _ => a
  | [] => none

/-- A comparison of R385: what disagrees is named by row and column; checksum output c, sum s and bound M. -/
structure HalfCmp where
  row : Nat
  col : Nat
  c : Nat
  s : Nat
  m : Nat
  deriving DecidableEq, Repr

/-- Not finite: skipped (R385). -/
def HalfCmp.skip (h : HalfCmp) : Bool := nonFinite32 h.c || nonFinite32 h.s || nonFinite32 h.m

/-- |c - s| > 2^-10 * M + 2^-126 (R385). -/
def HalfCmp.bad (h : HalfCmp) : Bool := !h.skip && fgt (fabs (fsub h.c h.s)) (fadd (fmul 0x3A800000 h.m) 0x00800000)

/-- An FP32 output of a checksum cell with bits inverted, each bit of the cell acting on bit mod 32 (assumption entry 77). -/
def cellBits (us : List Upset) (f : List Upset → Nat) (c : Nat) : Nat := c ^^^ (f us % 2 ^ 32 ^^^ f us / 2 ^ 32 % 2 ^ 32 ^^^ f us / 2 ^ 64 % 2 ^ 32 ^^^ f us / 2 ^ 96)

/-- The comparisons of array `a` of a BF16 or FP16 pass, rows first (R385). -/
def State.halfCmps (s : State) (x : LCtx) (ups : List Upset) (live : List Nat) (a : Nat) : List HalfCmp :=
  let d0 := s.desc x.c (x.l.s 0)
  let fa := fmtFloat d0.fmt
  let cols := x.cells.filter fun n => (x.colPlace n).1 = a
  let fw := fmtFloat (s.bankOf x (nth 0 0 cols)).fmt
  let acts := live.map fun i => (i, s.ammActs x i)
  let ws := cols.map fun n => (n, (s.columnOf x n).1)
  let nk := (s.ammKs x).length
  let abs (f : FFmt) (e : Nat) : Nat := e % 2 ^ (f.width - 1)
  let up (f : FFmt) (e : Nat) : Nat := rnd32 (f.decode e)
  let sum (f : FFmt) (es : List Nat) : Nat :=
    (exactSum f fE4M3 (es.map fun e => (e, 0x38))).round (some (.fin false 1 (2 ^ (stepExp f + stepExp fE4M3))))
  let lanes (es : List (Nat × Nat)) : Nat := (laneTree fadd 128 es).getD 0
  let slab (i n : Nat) (r w : List Nat) : Nat := slabRun (accBits ups i n) (productBits ups i n) d0.fmt (s.bankOf x n).fmt (r.zip w) 0 0 [] []
  let dot (f g : List Nat) : Nat := treeSum ((f.zip g).map fun e => fmul e.1 e.2)
  let wsum (m : Nat → Nat) : List Nat := (List.range nk).map fun k => sum fw (ws.map fun w => m (nth 0 k w.2))
  let asum (m : Nat → Nat) : List Nat := (List.range nk).map fun k => sum fa (acts.map fun r => m (nth 0 k r.2))
  (acts.map fun r =>
    ⟨r.1, full32, cellBits ups (fun u => cellColBits u r.1 a 0) (dot (r.2.map (up fa)) (wsum id)),
      lanes (ws.map fun w => (w.1, slab r.1 w.1 r.2 w.2)), dot (r.2.map fun e => up fa (abs fa e)) (wsum (abs fw))⟩) ++
  ws.map fun w =>
    ⟨full32, w.1, cellBits ups (fun u => cellRowBits u w.1 0) (dot (asum id) (w.2.map (up fw))),
      lanes (acts.map fun r => (r.1, slab r.1 w.1 r.2 w.2)), dot (asum (abs fa)) (w.2.map fun e => up fw (abs fw e))⟩

/-- The pair is BF16 or FP16. -/
def State.halfPair (s : State) (x : LCtx) : Bool := (s.desc x.c (x.l.s 0)).fmt == 7 || (s.desc x.c (x.l.s 0)).fmt == 8

/-- Live rows by checksum row: those of each row block under trim (R137, R262). -/
def State.checkRows (s : State) (x : LCtx) (p : Pass) (split : Bool) : List (List Nat) :=
  let live := p.rows.filter (s.rowLive x p.masked)
  if split then ((List.range (ceilDiv ((s.desc x.c (x.l.s 0)).e 1) 4096)).map fun b => live.filter fun i => i / 4096 = b).filter (· ≠ []) else [live]

/-- The first mismatch of a run: residues or products, then the output stage, row by row; then checksum columns and rows (R380). -/
def State.ammMis (s : State) (x : LCtx) (p : Pass) (split : Bool) (ups : List Upset) : Option Mis :=
  let live := p.rows.filter (s.rowLive x p.masked)
  (live.findSome? fun i => (if s.halfPair x then s.productMis x ups i else s.residueMis x ups i).or
    (s.outMis x p ups (x.l.f 16 16) i (s.ammVals x p ups i))).or
  ((s.checkRows x p split).findSome? fun rows => x.l.arrays.findSome? fun a =>
    if s.halfPair x then ((s.halfCmps x ups rows a).find? HalfCmp.bad).map fun h => ⟨0x0503, h.row, h.col, x.l.f 16 16, full32⟩
    else s.exactSums x ups rows a)

/-- Comparisons that a run skips (R385). -/
def State.skipped (s : State) (x : LCtx) (p : Pass) (split : Bool) (ups : List Upset) : Nat :=
  if s.halfPair x then
    ((s.checkRows x p split).map fun rows => (x.l.arrays.map fun a => ((s.halfCmps x ups rows a).filter HalfCmp.skip).length).sum).sum
  else 0

/-- The tag of a bank agrees with OPCTL (R121, R123). -/
def State.tagOk (s : State) (x : LCtx) (key : Nat) : Bool :=
  match ((s.tile x.on).bank key).tag with
  | some t => decide (t.ctx = x.c) && decide (t.form = x.l.f 4 1) && decide (t.slab = x.l.f 16 16) && decide (t.nbase = x.l.f 32 16)
  | none => false

def State.ammFx (s : State) (x : LCtx) : Fx :=
  let p := s.ammPass x
  let d0 := s.desc x.c (x.l.s 0)
  let d2 := s.desc x.c (x.l.s 2)
  let rows := p.rows
  let a0 (rs : List Nat) := s.acc x.v (x.l.s 0) (rs.flatMap fun i => (s.ammKs x).map fun k => k + d0.e 0 * i)
  let a2 (rs : List Nat) := if x.l.bit 7 then s.acc x.v (x.l.s 2) (rs.flatMap fun i => p.cols.map fun n => d2.outLin n i) else []
  let mask := if p.masked then s.accAll x.v (x.l.s 3) else []
  let vecs := if p.final then p.prof.vectors.flatMap fun j => s.acc x.v j p.cols else []
  let again := (s.reloads x).flatMap fun e =>
    s.acc (s.tagEnv e.2) e.2.cat (e.2.lins (s.desc x.c e.2.cat) (e.1 / 4) (e.1 % 4))
  let liveRows := rows.filter (s.rowLive x p.masked)
  let heldOf := ((s.tctx x.k x.c).held.map (·.2)).eraseDups
  let outs := x.l.s 1 :: (if p.final && p.prof.savePre then [p.prof.preIdx] else [])
  let ins := named [x.l.s 0, if x.l.bit 7 then x.l.s 2 else 0xFFFF, if p.masked then x.l.s 3 else 0xFFFF] ++
    (if p.final then p.prof.vectors else []) ++ heldOf
  { unit := .pass, unitNo := 1 + nth 0 0 x.l.arrays, arrays := x.l.f 0 4, banks := x.l.bankKeys, release := x.l.bit 48,
    reads := a0 rows ++ a2 rows ++ mask ++ vecs ++ again, writes := s.passOuts x p,
    live := mask ++ a0 liveRows ++ a2 liveRows ++ vecs ++ again,
    fault :=
      if x.l.bankKeys.all ((s.reload x).tagOk x) then s.passOverlap x outs ins
      else some (x.frec 0x0233 1 (1 + nth 0 0 x.l.arrays) (x.l.s 0)),
    run := fun ups s =>
      let s := s.reload x
      let n := s.skipped x p (s.splits x) ups
      let r := s.passWrite x p (rows.map (s.ammRow x p ups))
      let t := r.1.keepRow x p ups
      (if n = 0 then t else t.incReg (pgARY (x.on / 48) (x.on % 48) + 0x1C) n, r.2),
    mis := fun ups s => (s.reload x).ammMis x p (s.splits x) ups,
    sig := fun s => s.passSig x p }

/-! AOUT (R132, R133). -/

def State.aoutPass (s : State) (x : LCtx) : Pass :=
  let d0 := s.desc x.c (x.l.s 0)
  { final := true, red := x.l.f 3 2, masked := x.l.bit 5, prof := s.profile x.k x.c (x.l.f 0 3), rows := x.rows (d0.e 1),
    cols := List.range (d0.e 0) }

def State.aoutVals (s : State) (x : LCtx) (p : Pass) (i : Nat) : List (Nat × Nat × Nat) :=
  let d0 := s.desc x.c (x.l.s 0)
  p.cols.map fun n =>
    let r := s.elRaw x.v d0 (d0.outLin n i)
    (n, if x.l.bit 6 then fadd (r % 2 ^ 32) (r / 2 ^ 32) else r % 2 ^ 32, 0)

def State.aoutRow (s : State) (x : LCtx) (p : Pass) (ups : List Upset) (i : Nat) : List OutEl × List OutEl :=
  if s.rowLive x p.masked i then s.passRow x p ups i (s.aoutVals x p i) else s.passFill x p i

def State.aoutFx (s : State) (x : LCtx) : Fx :=
  let p := s.aoutPass x
  let d0 := s.desc x.c (x.l.s 0)
  let rows := p.rows
  let a0 (rs : List Nat) := s.acc x.v (x.l.s 0) (rs.flatMap fun i => p.cols.map fun n => d0.outLin n i)
  let mask := if p.masked then s.accAll x.v (x.l.s 3) else []
  let vecs := p.prof.vectors.flatMap fun j => s.acc x.v j p.cols
  let heldOf := ((s.tctx x.k x.c).held.map (·.2)).eraseDups
  { unit := .pass, unitNo := 1, arrays := 0xF, reads := a0 rows ++ mask ++ vecs, writes := s.passOuts x p,
    live := mask ++ a0 (rows.filter (s.rowLive x p.masked)) ++ vecs,
    fault := s.passOverlap x (x.l.s 1 :: (if p.prof.savePre then [p.prof.preIdx] else []))
      (named [x.l.s 0, if p.masked then x.l.s 3 else 0xFFFF] ++ p.prof.vectors ++ heldOf),
    run := fun ups s => s.passWrite x p (rows.map (s.aoutRow x p ups)),
    mis := fun ups s => (rows.filter (s.rowLive x p.masked)).findSome? fun i => s.outMis x p ups 0 i (s.aoutVals x p i),
    sig := fun s => s.passSig x p }

end Sys2Proof.Machine
end

