-- ==== Sys2Proof/Machine/Vector.lean ====
section
/-! DEFINITION. The vector chain (R141 to R181): chain records, stages, reductions, registers, softmax, gather and scatter. -/

namespace Sys2Proof.Machine

/-! Chain records (R150, R151). -/

structure Stage where
  ty : Nat
  a : Nat
  b : Nat
  c : Nat
  param : Nat
  deriving DecidableEq, Repr

structure Chain where
  bf : Bool
  outReg : Bool
  oreg : Nat
  mask : Nat
  out2 : Nat
  drop : Nat
  cvt : Nat
  stages : List Stage
  deriving DecidableEq, Repr

def Chain.parse (bs : List Byte) : Chain :=
  { bf := bitAt (bField bs 1 1) 0, outReg := bitAt (bField bs 1 1) 1, oreg := field (bField bs 2 1) 0 5, mask := bField bs 4 2,
    out2 := bField bs 6 2, drop := bField bs 8 4, cvt := bField bs 0xC 4,
    stages := (List.range (min 8 (bField bs 0 1))).map fun i =>
      let o := 0x10 + 6 * i
      ⟨bField bs o 1, bField bs (o + 1) 1, bField bs (o + 2) 1, bField bs (o + 3) 1, bField bs (o + 4) 2⟩ }

/-- Lanes of a mode (R141). -/
def lanesOfMode (bf : Bool) : Nat := if bf then 256 else 128

/-- The record names an operand code in some stage. -/
def Chain.uses (r : Chain) (code : Nat) : Bool := r.stages.any fun g => g.a == code || g.b == code || g.c == code

/-- The last stage. -/
def Chain.last (r : Chain) : Stage := nth ⟨0, 0, 0, 0, 0⟩ (r.stages.length - 1) r.stages

/-- The dimension of the reduction that ends the chain. -/
def Chain.redDim (r : Chain) : Option Nat := if 0xC0 ≤ r.last.ty then some (r.last.param % 8) else none

/-- A value rounded to BF16 and widened again in BF16 mode (R142). -/
def bfRound (bf : Bool) (x : Nat) : Nat := if bf then ofBF16 (toBF16 x) else x

/-! Stages (R153 to R158). -/

/-- CVT: target format, overflow mode, rounding; the value widened back and whether SAT applied (R158). -/
def cvtStage (param seed n stream e x : Nat) : Nat × Bool :=
  let t := param % 8
  let rnd : Rnd := if bitAt param 3 then .sr (philoxWord seed n stream e) else .rne
  let m := field param 4 2
  let ovf : Ovf := if m = 1 then .sat else if m = 2 then .nonsat else if t = 3 then .sat else .nonsat
  if t = 4 then
    let c := convInt 8 rnd (val32 x)
    (rnd32 (intV (signed 8 c.enc)), c.sat)
  else
    let f := if t = 0 then fBF16 else if t = 1 then fFP16 else if t = 2 then fE5M2 else fE4M3
    let c := f.conv ovf rnd (val32 x)
    (rnd32 (f.decode c.enc), c.sat)

/-- The FP32 result of a stage that is no reduction, with the SAT of CVT; `e` is the element's index in D0's global shape. -/
def stageFn (r : Chain) (seed n e : Nat) (g : Stage) (a b c : Nat) : Nat × Bool :=
  let t := g.ty
  let one (x : Bool) : Nat := if x then one32 else 0
  if t ≤ 0x10 then (actFn t a b, false)
  else if t = 0x40 then (if isNan32 a then nan32 else if fgt a 0 then (if isNan32 b then nan32 else b) else 0, false)
  else if t = 0x41 then
    (if isNan32 a then nan32 else if fgt a 0 then (if isNan32 b then nan32 else b) else fmul b c, false)
  else if t = 0x42 then (fdsigmoid a b, false)
  else if t = 0x43 then (fdtanh a b, false)
  else if t = 0x44 then (fmul b a, false)
  else if t = 0x45 then (fdsoftplus a b, false)
  else if t = 0x46 then (fdgelu a b, false)
  else if t = 0x47 then (fdsilu a b, false)
  else if t = 0x80 then (fadd a b, false)
  else if t = 0x81 then (fsub a b, false)
  else if t = 0x82 then (fmul a b, false)
  else if t = 0x83 then (ffma a b c, false)
  else if t = 0x84 then (fdiv a b, false)
  else if t = 0x85 then (fmax a b, false)
  else if t = 0x86 then (fmin a b, false)
  else if t = 0x87 then (one (fgt a b), false)
  else if t = 0x88 then (one (fge a b), false)
  else if t = 0x89 then (one (feq a b), false)
  else if t = 0x8A then
    let y := if !isZero32 c && !isNan32 c then a else b
    (if isNan32 y then nan32 else y, false)
  else if t = 0x8B then cvtStage g.param seed n r.cvt e a
  else (if b ≤ philoxWord seed n r.drop e then fmul a c else 0, false)

/-- Operands of one lane: the elements of D0 and D1, the immediates, the registers. -/
structure LaneIn where
  d0 : Nat
  d1 : Nat
  ctl : Nat
  reg : Nat → Nat

/-- The value of an operand code; `res` are the results so far (R151). -/
def LaneIn.op (i : LaneIn) (res : List Nat) (code : Nat) : Nat :=
  if code = 1 then i.d0
  else if code = 2 then i.d1
  else if code = 3 then i.ctl % 2 ^ 32
  else if code = 4 then i.ctl / 2 ^ 32
  else if code = 5 then nth 0 (res.length - 1) res
  else if 0x10 ≤ code ∧ code < 0x18 then nth 0 (code - 0x10) res
  else if 0x20 ≤ code then i.reg (code - 0x20)
  else 0

/-- An operand read that R159 watches holds a NaN. -/
def LaneIn.nan (i : LaneIn) (code : Nat) : Bool :=
  ((1 ≤ code && code ≤ 4) || 0x20 ≤ code) && isNan32 (i.op [] code)

/-- What a lane's pass through the chain gives: results of the stages, a NaN read, a SAT of CVT. -/
structure LaneOut where
  res : List Nat
  nan : Bool
  sat : Bool
  deriving DecidableEq, Repr

/-- The stages in order; a reduction hands its operand on, a NaN as the canonical one (R74, R142, R153, R159). -/
def runStages (r : Chain) (seed n e : Nat) (i : LaneIn) (o : LaneOut) : List Stage → LaneOut
  | [] => o
  | g :: t =>
    let a := i.op o.res g.a
    let nan := o.nan || i.nan g.a || (g.ty != 0x8C && i.nan g.b) || i.nan g.c
    if 0xC0 ≤ g.ty then { o with res := o.res ++ [canon32 a], nan := nan }
    else
      let y := stageFn r seed n e g a (i.op o.res g.b) (i.op o.res g.c)
      runStages r seed n e i ⟨o.res ++ [bfRound r.bf y.1], nan, o.sat || y.2⟩ t

/-! Reductions (R168 to R170). -/

/-- The combination of two pairs of value and index (R168, R170). -/
def redComb (ty : Nat) (a b : Nat × Nat) : Nat × Nat :=
  if ty = 0xC1 then (fmul a.1 b.1, 0)
  else if ty = 0xC0 ∨ ty = 0xC2 then (fadd a.1 b.1, 0)
  else if isNan32 a.1 && isNan32 b.1 then (if a.2 < b.2 then a else b)
  else if isNan32 a.1 then a
  else if isNan32 b.1 then b
  else if feq a.1 b.1 then (if a.2 < b.2 then a else b)
  else if fgt a.1 b.1 = decide (ty = 0xC3) then a else b

/-- Result of a reduction over the live inputs in ascending index; none with no live input. -/
def reduceAll (ty d : Nat) (xs : List (Nat × Nat)) : Option (Nat × Nat) :=
  match laneTree (redComb ty) (if d = 0 then 128 else 1) (xs.map fun e => (e.1, (e.2, e.1))) with
  | none => none
  | some r => some (if ty = 0xC2 then (fdiv r.1 (fofNat xs.length), 0) else r)

/-- The empty result: value and index (R169). -/
def emptyRed (ty : Nat) : Nat × Nat :=
  (if ty = 0xC1 then one32 else if ty = 0xC3 then 0xFF800000 else if ty = 0xC4 then 0x7F800000 else 0, 0xFFFFFFFF)

/-! VCH (R160 to R167). -/

/-- The chain record of a line. -/
def State.chain (s : State) (x : LCtx) : Chain := Chain.parse (s.footBytes x.v (s.desc x.c (x.l.s 3)))

/-- Element `lin` of D0 is live (R162). -/
def State.vecLive (s : State) (x : LCtx) (mask lin : Nat) : Bool :=
  decide (mask = 0xFFFF) || s.elRaw x.v (s.desc x.c mask) lin == 1

/-- Element `l` of a register in a mode (R146). -/
def vregEl (bf : Bool) (r : BitVec 4096) (l : Nat) : Nat :=
  if bf then field r.toNat (16 * l) 16 * 2 ^ 16 else field r.toNat (32 * l) 32

/-- The registers of a context on a tile. -/
def State.vreg (s : State) (k : Nat) (c : Ctx) (r : Nat) : BitVec 4096 := (s.tctx k c).vregs.get 0#4096 r

/-- The lane's inputs for element `lin` of the nest. -/
def State.laneIn (s : State) (x : LCtx) (r : Chain) (lin : Nat) : LaneIn :=
  let d0 := s.desc x.c (x.l.s 0)
  let lane := nth 0 0 (coordsOf d0.ext lin) % lanesOfMode r.bf
  { d0 := if r.uses 1 then bfRound r.bf (s.elF32 x.v d0 lin) else 0,
    d1 := if r.uses 2 then bfRound r.bf (s.elF32 x.v (s.desc x.c (x.l.s 1)) lin) else 0,
    ctl := x.l.ctl, reg := fun v => vregEl r.bf (s.vreg x.k x.c v) lane }

/-- The chain's run for one element. -/
def State.vecLane (s : State) (x : LCtx) (r : Chain) (lin : Nat) : LaneOut :=
  runStages r x.v.seed x.v.n ((s.desc x.c (x.l.s 0)).gidx lin) (s.laneIn x r lin) ⟨[], false, false⟩ r.stages

/-- The last result of a lane. -/
def LaneOut.final (o : LaneOut) : Nat := nth 0 (o.res.length - 1) o.res

/-- One output element of a chain: its linear index in D2's shape, value, index word, whether its reduction was empty, the flags
of its lanes. -/
structure VOut where
  lin : Nat
  val : Nat
  idx : Nat
  empty : Bool
  nan : Bool
  sat : Bool
  deriving DecidableEq, Repr

/-- The outputs of a chain in ascending linear index of the nest. -/
def State.vchOuts (s : State) (x : LCtx) (r : Chain) : List VOut :=
  let d0 := s.desc x.c (x.l.s 0)
  match r.redDim with
  | none =>
    ((List.range d0.count).filter (s.vecLive x r.mask)).map fun l =>
      let o := s.vecLane x r l
      ⟨l, o.final, 0, false, o.nan, o.sat⟩
  | some d =>
    let oext := modAt (fun _ => 1) d d0.ext
    (List.range (oext.foldl (· * ·) 1)).map fun m =>
      let y := coordsOf oext m
      let ins := (List.range (d0.e d)).map fun i => (i, linOf d0.ext (modAt (fun _ => i) d y))
      let outs := (ins.filter fun e => s.vecLive x r.mask e.2).map fun e => (e.1, s.vecLane x r e.2)
      let red := reduceAll r.last.ty d (outs.map fun e => (e.1, e.2.final))
      let v := red.getD (emptyRed r.last.ty)
      ⟨m, bfRound r.bf v.1, v.2, red.isNone, outs.any (·.2.nan), outs.any (·.2.sat)⟩

/-- Reduce-write: writes to one element combine in ascending order (R166); the sum raises no flag only where none of its parts does. -/
def reduceWrite (d : Desc) (off : Nat) (els : List OutEl) : List OutEl :=
  els.foldl (fun acc e =>
    if acc.any fun f => d.addr off f.lin = d.addr off e.lin then
      acc.map fun f => if d.addr off f.lin = d.addr off e.lin then { f with val := fadd f.val e.val, quiet := f.quiet && e.quiet } else f
    else acc ++ [e]) []

/-- REDUCE_WRITE of R223. -/
def Desc.reduces (d : Desc) : Bool := bitAt d.modes 7

/-- The elements that a vector line writes through a tensor, combined under reduce-write (R166). Fills of masked elements stand first: the
manual does not say whether they combine (assumption entry 78). -/
def State.writeVec (s : State) (v : Env) (d : Desc) (fills els : List OutEl) : State × WFlags :=
  s.writeEls v d (fills ++ (if d.reduces then reduceWrite d (v.off d) els else els))

/-- Lanes of a register changed. -/
def vregPut (bf : Bool) (r : BitVec 4096) (l x : Nat) : BitVec 4096 :=
  if bf then BitVec.ofNat 4096 (putField r.toNat (16 * l) 16 (toBF16 x)) else BitVec.ofNat 4096 (putField r.toNat (32 * l) 32 x)

def State.setVreg (s : State) (k : Nat) (c : Ctx) (r : Nat) (v : BitVec 4096) : State :=
  s.modTctx k c fun t => { t with vregs := t.vregs.set r v }

/-- The writes of a chain (R151, R159, R162, R166, R169, R170). -/
def State.vchWrite (s : State) (x : LCtx) (r : Chain) : State × Flags :=
  let d0 := s.desc x.c (x.l.s 0)
  let outs := s.vchOuts x r
  if r.outReg then
    let v := outs.foldl (fun v o =>
      vregPut r.bf v (nth 0 0 (coordsOf d0.ext o.lin) % lanesOfMode r.bf) o.val) (s.vreg x.k x.c r.oreg)
    (s.setVreg x.k x.c r.oreg v, Flags.none)
  else
    let j := x.l.s 2
    let d2 := s.desc x.c j
    let fills := if r.redDim = none && d2.fills then
        ((List.range d0.count).filter fun l => !s.vecLive x r.mask l).map fun l =>
          { lin := l, raw := some d2.fillRaw, quiet := true : OutEl }
      else []
    let els := outs.map fun o => { lin := o.lin, val := o.val, snd := d2.lone, quiet := o.empty : OutEl }
    let out2 := if r.out2 ≠ 0xFFFF ∧ (r.last.ty = 0xC3 ∨ r.last.ty = 0xC4) then
        outs.map fun o => { lin := o.lin, raw := some o.idx, quiet := true : OutEl }
      else []
    let nans := (outs.filter (·.nan)).map fun o => d2.gidx o.lin
    let (s, f) := s.writeVec x.v d2 fills els
    let s := if out2 = [] then s else (s.writeEls x.v (s.desc x.c r.out2) out2).1
    let f : WFlags := ⟨f.nonfinite ++ nans, f.saturated || outs.any (·.sat)⟩
    (s, { f.at' j x.n with empty := if outs.any (·.empty) then [j] else [] })

/-- Every stride, dimensions in order, exceeds all that the dimensions below it reach: then no two index tuples share a
position. -/
def spread : Nat → List (Nat × Int) → Bool
  | _, [] => true
  | reach, (e, t) :: l => if e ≤ 1 then spread reach l else decide (reach < t.natAbs) && spread (reach + (e - 1) * t.natAbs) l

/-- The pair of index tuples of R165: lowest second index, then lowest first. -/
def Desc.aliasPair (d : Desc) : Option (Nat × Nat) :=
  let p (l : Nat) : Int := d.pos (coordsOf d.ext l)
  if spread 0 (d.ext.zip d.stride) then none
  else (List.range d.count).findSome? fun j => ((List.range j).find? fun i => p i = p j).map fun i => (i, j)

/-- Two descriptors name every index tuple at the same address in the same format (R167); the stride of a dimension of extent 1 reaches no
address. -/
def inPlace (v : Env) (d e : Desc) : Bool :=
  decide (d.fmt = e.fmt) && decide (d.space = e.space) && decide (d.base + v.off d = e.base + v.off e) &&
    decide (d.ext = e.ext) && (List.range 5).all fun i => decide (d.e i ≤ 1) || decide (d.s i = e.s i)

/-- Alias and overlap questions of a vector line left to issue (R165, R167, R289). -/
def State.vecIssue (s : State) (x : LCtx) (outs ins : List Nat) : Option FRec :=
  (s.withScales x.c outs).findSome? fun o =>
    let d := s.desc x.c o
    match (if d.reduces || !d.late then none else d.aliasPair) with
    | some (i, j) => some { x.frec 0x0243 1 5 o with c0 := i % 2 ^ 32, c1 := i / 2 ^ 32, c2 := j % 2 ^ 32, c3 := j / 2 ^ 32 }
    | none =>
      if (s.withScales x.c ins).any fun i => d.late && Desc.meets x.v d (s.desc x.c i) && !inPlace x.v d (s.desc x.c i) then some (x.frec 0x0244 1 5 o)
      else none

/-- A line is replayable unless an output overlaps an input (R180). -/
def notOver (reads writes : List Acc) : Bool := !keysMeet (accKeys writes) (accKeys reads)

def State.vchFx (s : State) (x : LCtx) : Fx :=
  let r := s.chain x
  let d0 := s.desc x.c (x.l.s 0)
  let all := List.range d0.count
  let live := all.filter (s.vecLive x r.mask)
  let ins (ls : List Nat) : List Acc :=
    (if r.uses 1 then s.acc x.v (x.l.s 0) ls else []) ++ (if r.uses 2 then s.acc x.v (x.l.s 1) ls else [])
  let mask := s.accAll x.v r.mask
  let recd := s.accAll x.v (x.l.s 3)
  let outs := if r.outReg then [] else named [x.l.s 2, r.out2]
  let writes := outs.flatMap (s.accAll x.v)
  { unit := .vec, unitNo := 5, reads := ins all ++ mask ++ recd, writes := writes, live := mask ++ recd ++ ins live,
    regsR := (List.range 32).filter fun v => r.uses (0x20 + v), regsW := if r.outReg then [r.oreg] else [],
    fault := s.vecIssue x outs (named [x.l.s 0, x.l.s 1, x.l.s 3, r.mask]),
    replayable := notOver ((named [x.l.s 0, x.l.s 1]).flatMap (s.accAll x.v) ++ mask ++ recd) writes && !(r.outReg && r.uses (0x20 + r.oreg)),
    run := fun _ s => s.vchWrite x r }

/-! VLD and VST (R148). -/

def State.vldFx (s : State) (x : LCtx) : Fx :=
  let bf := x.l.bit 5
  let acc := s.accAll x.v (x.l.s 0)
  { unit := .vec, unitNo := 5, reads := acc, live := acc, regsW := [x.l.f 0 5],
    run := fun _ s =>
      let d := s.desc x.c (x.l.s 0)
      let v := (List.range (d.e 0)).foldl (fun v i => vregPut bf v i (s.elF32 x.v d i)) 0#4096
      (s.setVreg x.k x.c (x.l.f 0 5) v, Flags.none) }

def State.vstFx (s : State) (x : LCtx) : Fx :=
  let bf := x.l.bit 5
  { unit := .vec, unitNo := 5, writes := s.accAll x.v (x.l.s 0), regsR := [x.l.f 0 5],
    run := fun _ s =>
      let d := s.desc x.c (x.l.s 0)
      let r := s.vreg x.k x.c (x.l.f 0 5)
      let (s, f) := s.writeVec x.v d [] ((List.range (d.e 0)).map fun i => { lin := i, val := vregEl bf r i, snd := d.lone : OutEl })
      (s, f.at' (x.l.s 0) x.n) }

/-! VSMX (R171, R172). -/

/-- A softmax row: the outputs, m and S, and whether the row was empty. -/
structure SmRow where
  y : List Nat
  m : Nat
  sum : Nat
  empty : Bool
  deriving DecidableEq, Repr

/-- The row of inputs, none where masked (R172). -/
def softmaxRow (scale : Nat) (xs : List (Option Nat)) : SmRow :=
  let zs := xs.map fun o => match o with
    | some v =>
      let z := fmul v scale
      if z = 0xFF800000 then none else some z
    | none => none
  let live := zs.filterMap id
  let k := (live.filter (· = 0x7F800000)).length
  if live.any isNan32 then ⟨xs.map fun _ => nan32, nan32, nan32, false⟩
  else if live = [] then ⟨xs.map fun _ => 0, 0xFF800000, 0, true⟩
  else if 0 < k then
    let n := fofNat k
    ⟨zs.map fun z => if z = some 0x7F800000 then fdiv one32 n else 0, 0x7F800000, n, false⟩
  else
    let m := live.foldl fmax 0xFF800000
    let es := zs.map fun z => z.map fun v => fexp (fsub v m)
    let sum := (laneTree fadd 128 (((List.range es.length).zip es).filterMap fun e => e.2.map fun v => (e.1, v))).getD 0
    ⟨es.map fun e => match e with
      | some v => fdiv v sum
      | none => 0, m, sum, false⟩

/-- Rows of D0 along dimension 0. -/
def Desc.rows (d : Desc) : Nat := (d.ext.drop 1).foldl (· * ·) 1

def State.vsmxRow (s : State) (x : LCtx) (r : Nat) : SmRow :=
  let d0 := s.desc x.c (x.l.s 0)
  let mask := if x.l.bit 32 then x.l.s 2 else 0xFFFF
  softmaxRow (x.l.f 0 32) ((List.range (d0.e 0)).map fun i =>
    let l := r * d0.e 0 + i
    if s.vecLive x mask l then some (s.elF32 x.v d0 l) else none)

def State.vsmxFx (s : State) (x : LCtx) : Fx :=
  let d0 := s.desc x.c (x.l.s 0)
  let mask := if x.l.bit 32 then x.l.s 2 else 0xFFFF
  let all := List.range d0.count
  let outs := x.l.s 1 :: (if x.l.bit 33 then [x.l.s 3] else [])
  let writes := outs.flatMap (s.accAll x.v)
  let reads := s.acc x.v (x.l.s 0) all ++ s.accAll x.v mask
  { unit := .vec, unitNo := 5, reads := reads, writes := writes,
    live := s.accAll x.v mask ++ s.acc x.v (x.l.s 0) (all.filter (s.vecLive x mask)),
    fault := s.vecIssue x outs (named [x.l.s 0, mask]), replayable := notOver reads writes,
    run := fun _ s =>
      let rows := (List.range d0.rows).map fun r => (r, s.vsmxRow x r)
      let d1 := s.desc x.c (x.l.s 1)
      let els := rows.flatMap fun e => ((List.range (d0.e 0)).zip e.2.y).map fun p =>
        { lin := e.1 * d0.e 0 + p.1, val := p.2, snd := d1.lone : OutEl }
      let (s, f1) := s.writeVec x.v d1 [] els
      let empty := if rows.any (·.2.empty) then [x.l.s 1] else []
      let f1 : Flags := { f1.at' (x.l.s 1) x.n with empty := empty }
      if x.l.bit 33 then
        let d3 := s.desc x.c (x.l.s 3)
        let (s, f3) := s.writeEls x.v d3 (rows.map fun e => { lin := e.1, val := e.2.m, snd := e.2.sum, quiet := e.2.empty : OutEl })
        (s, f1.or (f3.at' (x.l.s 3) x.n))
      else (s, f1) }

/-! Index resolution (R175). -/

/-- How an index resolves. -/
inductive Ix where
  | ok (i : Nat)
  | zero
  | negFault
  | rangeFault
  deriving DecidableEq, Repr

/-- One index against an extent under the modes of D1 (R175, R223). -/
def resolve (modes e : Nat) (i : Int) : Ix :=
  if i < 0 ∧ bitAt modes 1 = false then .negFault
  else
    let j := if i < 0 then i + e else i
    if j < 0 ∨ (e : Int) ≤ j then
      if field modes 2 2 = 0 then .rangeFault
      else if field modes 2 2 = 2 then .ok (if j < 0 then 0 else e - 1)
      else .zero
    else .ok j.toNat

/-- Raw indices of D1. -/
def State.rawIdx (s : State) (x : LCtx) : List Nat :=
  let d1 := s.desc x.c (x.l.s 1)
  (List.range (d1.e 0)).map fun p => s.elRaw x.v d1 p % 2 ^ 32

def State.resolved (s : State) (x : LCtx) (e : Nat) : List Ix :=
  (s.rawIdx x).map fun r => resolve (s.desc x.c (x.l.s 1)).modes e (signed 32 r)

/-- The fault of the lowest faulting position (R175). -/
def State.idxFault (s : State) (x : LCtx) (ix : List Ix) : Option FRec :=
  ((List.range ix.length).zip (ix.zip (s.rawIdx x))).findSome? fun e =>
    let rec1 (code : Nat) : FRec := { x.frec code 1 5 (x.l.s 1) with c0 := e.1, c1 := e.2.2 }
    match e.2.1 with
    | .negFault => some (rec1 0x0247)
    | .rangeFault => some (rec1 0x0248)
    | _ => none

/-- Coordinate of an element on a dimension replaced. -/
def Desc.relin (from' to' : Desc) (lin dim i : Nat) : Nat := linOf to'.ext (modAt (fun _ => i) dim (coordsOf from'.ext lin))

/-- Elements of one slice of a tensor. -/
def Desc.sliceLins (d : Desc) (dim i : Nat) : List Nat :=
  (List.range d.count).filter fun l => nth 0 dim (coordsOf d.ext l) = i

/-! VGTH (R174 to R176). -/

/-- Bytes of a slice (R176). -/
def Desc.sliceBytes (d : Desc) (dim : Nat) : Nat := ceilDiv (d.count / d.e dim * d.elBits) 8

/-- Hits of the row cache: 64 entries, first in, first out; slices above 4 KiB bypass it (R176). -/
def cacheHits (bytes : Nat) : List Nat → List Nat → Nat → Nat
  | _, [], n => n
  | cache, i :: t, n =>
    if 4096 < bytes then cacheHits bytes cache t n
    else if cache.contains i then cacheHits bytes cache t (n + 1)
    else cacheHits bytes (((if cache.length < 64 then cache else cache.drop 1)) ++ [i]) t n

/-- Slices that a gather fetches in order. -/
def fetched (ix : List Ix) : List Nat := ix.filterMap fun i => match i with
  | .ok n => some n
  | _ => none

/-- The source of element `lin` of D2; none for a slice of +0.0. -/
def State.gatherSrc (s : State) (x : LCtx) (ix : List Ix) (lin : Nat) : Option Nat :=
  let d0 := s.desc x.c (x.l.s 0)
  let d2 := s.desc x.c (x.l.s 2)
  let g := x.l.f 0 3
  match nth .zero (nth 0 g (coordsOf d2.ext lin)) ix with
  | .ok i => some (d2.relin d0 lin g i)
  | _ => none

def State.vgthFx (s : State) (x : LCtx) : Fx :=
  let d0 := s.desc x.c (x.l.s 0)
  let d2 := s.desc x.c (x.l.s 2)
  let ix := s.resolved x (d0.e (x.l.f 0 3))
  let all2 := List.range d2.count
  let reads := s.accAll x.v (x.l.s 0) ++ s.accAll x.v (x.l.s 1)
  let writes := s.accAll x.v (x.l.s 2)
  { unit := .vec, unitNo := 5, reads := reads, writes := writes,
    live := s.accAll x.v (x.l.s 1) ++ s.acc x.v (x.l.s 0) ((all2.filterMap (s.gatherSrc x ix)).eraseDups),
    fault := match s.vecIssue x [x.l.s 2] [x.l.s 0, x.l.s 1] with
      | some f => some f
      | none => s.idxFault x ix,
    replayable := notOver reads writes,
    run := fun _ s =>
      let els := all2.map fun l => { lin := l, snd := d2.lone, val := match s.gatherSrc x ix l with
        | some m => s.elF32 x.v d0 m
        | none => 0 : OutEl }
      let s := s.incReg (pgPOR (x.k / 48) (x.k % 48) + 0x4C) (cacheHits (d0.sliceBytes (x.l.f 0 3)) [] (fetched ix) 0)
      let (s, f) := s.writeVec x.v d2 [] els
      (s, f.at' (x.l.s 2) x.n) }

/-! VSCT (R177). -/

/-- Positions that select a target, ascending. -/
def positionsOf (ix : List Ix) (t : Nat) : List Nat := (List.range ix.length).filter fun p => nth .zero p ix = .ok t

/-- Targets selected, ascending. -/
def targetsOf (ix : List Ix) : List Nat := sortNat (fetched ix)

/-- The duplicate of the lowest second position (R177): first and second position and the index. -/
def firstDup (ix : List Ix) : Option (Nat × Nat × Nat) :=
  (List.range ix.length).findSome? fun j => match nth .zero j ix with
    | .ok t => ((List.range j).find? fun i => nth .zero i ix = .ok t).map fun i => (i, j, t)
    | _ => none

/-- Elements that a scatter writes, with the source elements of each in order (R177). -/
def State.scatterMap (s : State) (x : LCtx) (ix : List Ix) : List (Nat × List Nat) :=
  let d0 := s.desc x.c (x.l.s 0)
  let d2 := s.desc x.c (x.l.s 2)
  let g := x.l.f 0 3
  (targetsOf ix).flatMap fun t =>
    let ps := positionsOf ix t
    let ps := if x.l.f 3 2 = 1 then ps else ps.drop (ps.length - 1)
    (d2.sliceLins g t).map fun l => (l, ps.map fun p => d2.relin d0 l g p)

/-- Elements of D2 that NONFINITE names for the NaNs that a scatter reads, those of slices superseded or discarded with them (R159): where the
element would go, in slice 0 for a slice that goes nowhere (assumption entry 78). -/
def State.scatterNans (s : State) (x : LCtx) (ix : List Ix) : List Nat :=
  let d0 := s.desc x.c (x.l.s 0)
  let d2 := s.desc x.c (x.l.s 2)
  let g := x.l.f 0 3
  ((List.range d0.count).filter fun l => isNan32 (s.elF32 x.v d0 l)).map fun l =>
    d2.gidx (d0.relin d2 l g (match nth .zero (nth 0 g (coordsOf d0.ext l)) ix with
      | .ok t => t
      | _ => 0))

def State.vsctFx (s : State) (x : LCtx) : Fx :=
  let d0 := s.desc x.c (x.l.s 0)
  let d2 := s.desc x.c (x.l.s 2)
  let mode := x.l.f 3 2
  let ix := s.resolved x (d2.e (x.l.f 0 3))
  let m := s.scatterMap x ix
  let prior := if mode = 1 then s.acc x.v (x.l.s 2) (m.map (·.1)) else []
  let reads := s.accAll x.v (x.l.s 0) ++ s.accAll x.v (x.l.s 1)
  let writes := s.accAll x.v (x.l.s 2)
  { unit := .vec, unitNo := 5, reads := reads ++ prior, writes := writes,
    live := reads ++ prior,
    fault := match s.vecIssue x [x.l.s 2] [x.l.s 0, x.l.s 1] with
      | some f => some f
      | none => match s.idxFault x ix with
        | some f => some f
        | none =>
          if mode = 2 then (firstDup ix).map fun e => { x.frec 0x0249 1 5 (x.l.s 1) with c0 := e.1, c1 := e.2.1, c2 := e.2.2 }
          else none,
    replayable := notOver reads writes && decide (mode ≠ 1),
    run := fun _ s =>
      let els := m.map fun e =>
        let xs := e.2.map (s.elF32 x.v d0)
        { lin := e.1, snd := d2.lone,
          val := if mode = 1 then xs.foldl fadd (s.elF32 x.v d2 e.1) else nth 0 0 xs : OutEl }
      let nans := s.scatterNans x ix
      let (s, f) := s.writeVec x.v d2 [] els
      (s, ({ f with nonfinite := f.nonfinite ++ nans } : WFlags).at' (x.l.s 2) x.n) }

end Sys2Proof.Machine
end

