-- ==== Sys2Proof/Machine/Transfer.lean ====
section
/-! DEFINITION. PMOV (R257): copies and conversions between tensors, and the stash form (R190 to R195, R225, R234, R47). -/

namespace Sys2Proof.Machine

/-- The environment of D1: the store of tile DEST when D1 is in SPACE 0 (R257). -/
def State.pmovEnv (s : State) (x : LCtx) : Env :=
  let dest := x.l.f 0 8
  if (s.desc x.c (x.l.s 1)).space = 0 ∧ dest ≠ 0xFF then
    match s.physOf ⟨dest / 64, dest % 64⟩ with
    | some k => { x.v with tile := k }
    | none => x.v
  else x.v

/-- Equal formats for PMOV (R257). -/
def Desc.sameFormat (d e : Desc) : Bool :=
  decide (d.fmt = e.fmt) && (decide (d.fmt ≠ 3 ∧ d.fmt ≠ 4) || decide (d.scale = e.scale)) &&
    (!d.isMX || decide (d.mxAxis = e.mxAxis))

/-- Elements stored one by one, without the blocks of MX, and the poison of units written whole cleared. -/
def State.writeRaw (s : State) (v : Env) (d : Desc) (els : List OutEl) : State × WFlags :=
  let (s, f) := els.foldl (fun acc o =>
    let (s, f) := acc.1.elWrite v d o
    (s, acc.2.or f)) (s, WFlags.none)
  (s.spClean (v.space d) (fullUnits (d.coveredBytes (v.off d) (els.map (·.lin)))), f)

/-- The elements `lins` of D0 into D1: bits between equal formats, else converted (R257). -/
def State.pmovCopy (s : State) (x : LCtx) (lins : List Nat) : State × WFlags :=
  let d0 := s.desc x.c (x.l.s 0)
  let d1 := s.desc x.c (x.l.s 1)
  let w := s.pmovEnv x
  if d0.sameFormat d1 then s.writeRaw w d1 (lins.map fun l => { lin := l, raw := some (s.elRaw x.v d0 l) : OutEl })
  else s.writeEls w d1 (lins.map fun l => { lin := l, val := s.elF32 x.v d0 l, snd := d1.lone : OutEl })

/-! The stash (R190 to R195). -/

/-- A stash: the local index of its block input with the fields of its companion entry (R225). -/
structure Stash where
  idx : Nat
  compress : Bool
  place : Nat          -- 0 DEVICE, 1 DEVICE_SPILL, 2 HOST (R223)
  slot : Nat
  slotBytes : Nat
  hostOff : Nat
  block : Nat
  deriving DecidableEq, Repr

def State.stashOfIdx (s : State) (c : Ctx) (j : Nat) : Stash :=
  let d := s.desc c j
  let e := s.entry c d.stashIdx
  { idx := j, compress := bitAt d.modes 10, place := field d.modes 11 2, slot := (Desc.parse e).base,
    slotBytes := recField e 0x10 8, hostOff := recField e 0x18 8, block := recField e 0x20 2 }

/-- The tensor lies in the stash's slot, or at its place in the off-load window, which a stash with PLACE DEVICE has none of (R193). -/
def Stash.inSlot (h : Stash) (d : Desc) : Bool := decide (d.space = 2 ∧ d.base = h.slot)
def Stash.inWindow (h : Stash) (d : Desc) : Bool := decide (h.place ≠ 0 ∧ d.space = 3 ∧ d.base = h.hostOff)

/-- The stash that a PMOV moves: one of D0 and D1 lies in its slot or at its place in the window (assumption entry 31). -/
def State.pmovStash (s : State) (x : LCtx) : Option Stash :=
  let n := match (s.cxt x.c).prog with
    | some p => p.ncat
    | none => 0
  let d0 := s.desc x.c (x.l.s 0)
  let d1 := s.desc x.c (x.l.s 1)
  let at' (h : Stash) (d : Desc) : Bool := h.inSlot d || h.inWindow d
  ((x.l.s 0 :: x.l.s 1 :: List.range n).filter fun j => bitAt (s.desc x.c j).modes 9).findSome? fun j =>
    let h := s.stashOfIdx x.c j
    if (j = x.l.s 0 && at' h d1) || (j = x.l.s 1 && at' h d0) || h.inWindow d0 || h.inWindow d1 then some h else none

/-- Elements of an MX block by the linear index of its scale, in ascending order along the MX axis (R234). -/
def Desc.blockLins (d sd : Desc) (b : Nat) : List Nat :=
  let y := coordsOf sd.ext b
  let q := nth 0 d.mxAxis y
  ((List.range 32).map (32 * q + ·)).filterMap fun i =>
    if i < d.e d.mxAxis then some (linOf d.ext (modAt (fun _ => i) d.mxAxis y)) else none

/-- Element bytes from nibbles (R234). -/
def nibbles : List Nat → List Byte
  | a :: b :: t => BitVec.ofNat 8 (a % 16 + 16 * (b % 16)) :: nibbles t
  | [a] => [BitVec.ofNat 8 (a % 16)]
  | [] => []

/-- A block as it is kept: its scale and 16 element bytes; none for an elided block (R192). -/
def State.keptBlock (s : State) (v : Env) (d sd : Desc) (b : Nat) : Option (List Byte) :=
  let sc := s.elRaw v sd b
  let els := takeD 0 32 ((d.blockLins sd b).map (s.elRaw v d))
  if sc = 0 ∧ els.all (· = 0) = true then none else some (BitVec.ofNat 8 sc :: nibbles els)

/-- Bytes of the bitmap of n blocks (R192). -/
def bitmapBytes (n : Nat) : Nat := 64 * ceilDiv n 512

/-- The bitmap: bit b of the map is bit b mod 8 of byte b / 8. -/
def bitmapOf (bs : List Bool) : List Byte :=
  (List.range (bitmapBytes bs.length)).map fun i =>
    BitVec.ofNat 8 (toMask ((List.range 8).filter fun k => nth false (8 * i + k) bs))

/-- Kept blocks that fit a slot beside the bitmap (R193). -/
def Stash.fits (h : Stash) (n : Nat) : Nat := (h.slotBytes - bitmapBytes n) / 17

/-- Chunks of 64 KiB (R195). -/
def stashChunks (bs : List Byte) : List (List Byte) := chunksOf 65536 (bs.length / 65536 + 1) bs

/-- The chunk table: one CRC-64 a chunk (R195). -/
def stashTable (bs : List Byte) : List Byte := (stashChunks bs).flatMap fun c => bytesLE 8 (crc64 c)

/-- Where the chunk table of n window bytes stands (R195). -/
def Stash.tableAt (h : Stash) (n : Nat) : Nat := alignUp (h.hostOff + n) 64

/-- Bytes into the off-load window with their chunk table (R195). -/
def State.offload (s : State) (v : Env) (h : Stash) (bs : List Byte) : State :=
  let p : Space := ⟨3, v.tile, v.c⟩
  if bs = [] then s else (s.spWrite p h.hostOff bs).spWrite p (h.tableAt bs.length) (stashTable bs)

/-- The window bytes agree with their chunk table (R47). -/
def State.windowOk (s : State) (v : Env) (h : Stash) (n : Nat) : Bool :=
  let p : Space := ⟨3, v.tile, v.c⟩
  let t := stashTable (s.spRead p h.hostOff n)
  decide (s.spRead p (h.tableAt n) t.length = t)

/-- The blocks of the block input in order: each one's kept form. -/
def State.stashBlocks (s : State) (v : Env) (j : Nat) : List (Option (List Byte)) :=
  let d := s.desc v.c j
  let sd := s.mxScaleOf v d
  (List.range sd.count).map (s.keptBlock v d sd)

/-- The first block that does not fit under PLACE DEVICE (R193, R194). -/
def Stash.overflow (h : Stash) (bs : List (Option (List Byte))) : Option Nat :=
  if h.place = 0 then (((List.range bs.length).zip bs).filter (·.2.isSome))[h.fits bs.length]?.map (·.1) else none

/-- The compressed stash written (R192, R193). -/
def State.stashWrite (s : State) (v : Env) (h : Stash) : State :=
  let bs := s.stashBlocks v h.idx
  let kept := bs.filterMap id
  let map := bitmapOf (bs.map (·.isSome))
  let p : Space := ⟨2, v.tile, v.c⟩
  if h.place = 2 then s.offload v h (map ++ kept.flatten)
  else (s.spWrite p h.slot (map ++ (kept.take (h.fits bs.length)).flatten)).offload v h (kept.drop (h.fits bs.length)).flatten

/-- The bitmap of a stored stash, and whether the stored form starts in the window. -/
def State.storedMap (s : State) (v : Env) (h : Stash) (win : Bool) (n : Nat) : List Bool :=
  let bs := if win then s.spRead ⟨3, v.tile, v.c⟩ h.hostOff (bitmapBytes n) else s.spRead ⟨2, v.tile, v.c⟩ h.slot (bitmapBytes n)
  (List.range n).map fun b => bitAt (nth 0#8 (b / 8) bs).toNat (b % 8)

/-- Kept blocks of a stored stash that lie in the slot (R193). -/
def Stash.slotBlocks (h : Stash) (n kept : Nat) : Nat := min kept (h.fits n)

/-- Window bytes of a stored stash: the whole of it under PLACE HOST, else what does not fit the slot (R193). -/
def State.windowLen (s : State) (v : Env) (h : Stash) (n : Nat) : Nat :=
  let win := decide (h.place = 2)
  let kept := ((s.storedMap v h win n).filter id).length
  if win then bitmapBytes n + 17 * kept else 17 * (kept - h.slotBlocks n kept)

/-- MX blocks of a stash's block input. -/
def State.stashCount (s : State) (v : Env) (h : Stash) : Nat := (s.mxScaleOf v (s.desc v.c h.idx)).count

/-- Bytes of a stash that the chunk table of the window covers: the stored size of a compressed one, the tensor's own otherwise (R192,
R195). -/
def State.chunkLen (s : State) (v : Env) (h : Stash) (d : Desc) : Nat :=
  if h.compress then s.windowLen v h (s.stashCount v h) else d.footLen

/-- Where the i-th kept block of a stored stash lies: space and address. -/
def Stash.blockAt (h : Stash) (win : Bool) (n kept i : Nat) : Nat × Nat :=
  if win then (3, h.hostOff + bitmapBytes n + 17 * i)
  else if i < h.slotBlocks n kept then (2, h.slot + bitmapBytes n + 17 * i)
  else if h.place = 2 then (3, h.hostOff + bitmapBytes n + 17 * i)
  else (3, h.hostOff + 17 * (i - h.slotBlocks n kept))

/-- The stored 17 bytes of the i-th kept block. -/
def State.storedBlock (s : State) (v : Env) (h : Stash) (win : Bool) (n kept i : Nat) : List Byte :=
  let a := h.blockAt win n kept i
  s.spRead ⟨a.1, v.tile, v.c⟩ a.2 17

/-- A range of bytes as a tensor. -/
def rawDesc (space base n : Nat) : Desc :=
  { Desc.parse 0 with fmt := 0xF, rank := 1, space := space, base := base, ext := [n, 1, 1, 1, 1], stride := [1, 0, 0, 0, 0] }

/-- What a restore reads of the stored form (R192, R397): bitmap and kept blocks, in the slot and in the window. -/
def State.storedAccs (s : State) (v : Env) (h : Stash) (win : Bool) : List Acc :=
  let n := s.stashCount v h
  let kept := ((s.storedMap v h win n).filter id).length
  let acc (a : Nat × Nat) (k : Nat) : Acc := ⟨v, h.idx, rawDesc a.1 a.2 k, List.range k⟩
  acc (if win then (3, h.hostOff) else (2, h.slot)) (bitmapBytes n) :: (List.range kept).map fun i => acc (h.blockAt win n kept i) 17

/-- The block input restored from its stash, scales and elements (R192). -/
def State.stashRestore (s : State) (v w : Env) (h : Stash) (win : Bool) (line : Nat) : State × Flags :=
  let d := s.desc v.c h.idx
  let sd := s.mxScaleOf v d
  let n := sd.count
  let map := s.storedMap v h win n
  let kept := (map.filter id).length
  let blocks := (List.range n).map fun b =>
    if nth false b map then s.storedBlock v h win n kept ((map.take b).filter id).length else List.replicate 17 0#8
  let scales := ((List.range n).zip blocks).map fun e => ({ lin := e.1, raw := some (nth 0#8 0 e.2).toNat } : OutEl)
  let els := ((List.range n).zip blocks).flatMap fun e =>
    ((List.range 32).zip (d.blockLins sd e.1)).map fun p =>
      ({ lin := p.2, raw := some ((nth 0#8 (1 + p.1 / 2) e.2).toNat / (if p.1 % 2 = 0 then 1 else 16) % 16) } : OutEl)
  let (s, f) := s.writeRaw w sd scales
  let (s, g) := s.writeRaw w d els
  (s, (f.at' (d.scale % 65536) line).or (g.at' h.idx line))

/-- The stored form of a tensor's stash is read from the window: D0 lies there, or PLACE HOST with D0 elsewhere than the
slot. -/
def State.stashWin (s : State) (x : LCtx) (h : Stash) : Bool := decide (h.place = 2) && h.inWindow (s.desc x.c (x.l.s 0))

/-- What a PMOV does with a stash. -/
inductive StashOp where
  | plain (off check : Bool)   -- an ordinary copy; the chunk table written after it, or checked before it
  | write
  | restore
  deriving DecidableEq, Repr

def State.stashOp (s : State) (x : LCtx) : Option Stash × StashOp :=
  let d0 := s.desc x.c (x.l.s 0)
  let d1 := s.desc x.c (x.l.s 1)
  match s.pmovStash x with
  | none => (none, .plain false false)
  | some h =>
    if h.compress && decide (h.idx = x.l.s 0) && decide (x.l.s 0 ≠ x.l.s 1) then (some h, .write)
    else if h.compress && decide (h.idx = x.l.s 1) && decide (x.l.s 0 ≠ x.l.s 1) then (some h, .restore)
    else (some h, .plain (h.inWindow d1) (h.inWindow d0))

/-- STASH_FULL and STASH_CHECK_FAIL (R47, R194). -/
def State.stashFault (s : State) (x : LCtx) (h : Stash) (op : StashOp) : Option FRec :=
  let bad : FRec := { x.frec 0x0812 2 6 h.idx with c0 := h.block }
  match op with
  | .write => (h.overflow (s.stashBlocks x.v h.idx)).map fun b => { x.frec 0x0802 2 6 h.idx with c0 := h.block, c1 := b }
  | .restore =>
    if h.place = 0 ∨ (h.place = 2 ∧ s.stashWin x h = false) ∨ s.windowOk x.v h (s.windowLen x.v h (s.stashCount x.v h)) = true then none
    else some bad
  | .plain _ true => if s.windowOk x.v h (s.chunkLen x.v h (s.desc x.c (x.l.s 0))) then none else some bad
  | .plain _ false => none

/-- Elements of a local index without the scales of MX. -/
def State.accOwn (s : State) (v : Env) (j : Nat) : List Acc :=
  let d := s.desc v.c j
  [⟨v, j, d, List.range d.count⟩]

/-- Bytes of the larger of D0 and D1 in stored form (R274, R507). -/
def State.pmovBytes (s : State) (x : LCtx) : Nat :=
  let n (j : Nat) : Nat := let d := s.desc x.c j; ceilDiv (d.count * d.elBits) 8
  max (n (x.l.s 0)) (n (x.l.s 1))

def State.pmovFx (s : State) (x : LCtx) : Fx :=
  let d0 := s.desc x.c (x.l.s 0)
  let d1 := s.desc x.c (x.l.s 1)
  let w := s.pmovEnv x
  let (h, op) := s.stashOp x
  let equal := d0.sameFormat d1
  let whole := !equal || decide (op = .write) || decide (op = .restore)
  let own := if whole then s.accAll x.v (x.l.s 0) else s.accOwn x.v (x.l.s 0)
  let reads := match op, h with
    | .restore, some h => own ++ s.storedAccs x.v h (s.stashWin x h)
    | _, _ => own
  let copied (s : State) : State :=
    if equal then s.modTctx x.k x.c fun y => { y with copies := y.copies ++ [(x.l.s 0, x.l.s 1, w.tile)] } else s
  let dest := x.l.f 0 8
  { unit := .porter, unitNo := 6, reads := reads, live := reads,
    writes := if whole then s.accAll w (x.l.s 1) else s.accOwn w (x.l.s 1),
    fault := h.bind fun h => s.stashFault x h op, replayable := true,
    remote := if x.l.bit 16 then
        some (if dest = 0xFF then tileKey ⟨x.k / 48, x.lt⟩ else dest, x.l.f 8 8) else none,
    run := fun _ s =>
      match op, h with
      | .write, some h => (s.stashWrite x.v h, Flags.none)
      | .restore, some h => s.stashRestore x.v w h (s.stashWin x h) x.n
      | .plain off _, some h =>
        let (s, f) := s.pmovCopy x (List.range d0.count)
        let n := s.chunkLen x.v h d1
        (copied (if off then s.spWrite ⟨3, x.k, x.c⟩ (h.tableAt n) (stashTable (s.spRead ⟨3, x.k, x.c⟩ h.hostOff n)) else s), f.at' (x.l.s 1) x.n)
      | _, none =>
        let (s, f) := s.pmovCopy x (List.range d0.count)
        (copied s, f.at' (x.l.s 1) x.n) }

end Sys2Proof.Machine
end

