-- ==== Sys2Proof/Machine/Handoff.lean ====
section
/-! DEFINITION. Collective plans (R347, R349, R350), their staging (R351, R331), and the hand-off lines (R352). -/

namespace Sys2Proof.Machine

/-- A plan record (R347). -/
structure Plan where
  algo : Nat
  engine : Nat
  fmt : Nat
  nmemb : Nat
  myidx : Nat
  elems : Nat
  base : Nat
  bytes : Nat
  members : Nat
  tag : Nat
  dur : Nat
  deriving DecidableEq, Repr

def Plan.parse (bs : List Byte) : Plan :=
  { algo := bField bs 0 1, engine := bField bs 1 1, fmt := bField bs 2 1, nmemb := bField bs 4 2, myidx := bField bs 6 2,
    elems := bField bs 8 8, base := bField bs 0x10 8, bytes := bField bs 0x18 8, members := bField bs 0x20 2, tag := bField bs 0x22 2, dur := bField bs 0x24 4 }

/-- Bytes of a constant tensor of a context, from a tile that holds it (R222). -/
def State.constBytes (s : State) (c : Ctx) (j : Nat) : List Byte :=
  s.footBytes ⟨c, (s.holders c j).headD 0, false, 0, 0⟩ (s.desc c j)

/-- The plan of local index j. -/
def State.plan (s : State) (c : Ctx) (j : Nat) : Plan := Plan.parse (s.constBytes c j)

/-- Rank of member i (R347). -/
def State.memberRank (s : State) (c : Ctx) (p : Plan) (i : Nat) : Nat := bField (s.constBytes c p.members) (2 * i) 2

/-- Device of member i, by the rank table (R340, R347). -/
def State.memberDevice (s : State) (c : Ctx) (p : Plan) (i : Nat) : Nat := match (s.cxt c).prog with
  | some g => nth 0xFFFF (s.memberRank c p i) g.rankTab
  | none => 0xFFFF

def planKey (c : Ctx) (j : Nat) : Nat := c.num * 65536 + j

def State.planSt (s : State) (c : Ctx) (j : Nat) : PlanSt := s.fab.plans.get PlanSt.reset (planKey c j)
def State.modPlan (s : State) (c : Ctx) (j : Nat) (f : PlanSt → PlanSt) : State :=
  { s with fab.plans := s.fab.plans.set (planKey c j) (f (s.planSt c j)) }

/-- Bytes of a contribution (R347, R348). -/
def Plan.full (p : Plan) : Nat := p.elems * fmtBytes p.fmt

/-- Members that need this device's contribution (R349, R352). -/
def Plan.targets (p : Plan) : List Nat :=
  let others := (List.range p.nmemb).filter (· ≠ p.myidx)
  if p.algo = 3 then others.filter (· = 0)
  else if p.algo = 4 ∨ p.algo = 7 then (if p.myidx = 0 then others else [])
  else others

/-- Members whose contributions enter the result of this device; its own alone where it receives none (R349, R352). -/
def Plan.needed (p : Plan) : List Nat :=
  if p.algo = 4 ∨ p.algo = 7 then [0]
  else if p.algo = 3 ∧ p.myidx ≠ 0 then [p.myidx]
  else List.range p.nmemb

/-- This device receives a result: TREE_R on member 0, TREE_B and P2P on the others (R348, R349, R352). -/
def Plan.receives (p : Plan) : Bool :=
  if p.algo = 3 then p.myidx == 0 else if p.algo = 4 ∨ p.algo = 7 then p.myidx != 0 else true

/-! Reduction orders (R349). -/

/-- The left-leaning tree of R88 over a list: the left part is the largest power of two below the length; `fuel` bounds the
depth. -/
def leanTree : Nat → List Nat → Nat
  | 0, l => nth 0 0 l
  | fuel + 1, l =>
    if l.length ≤ 1 then nth 0 0 l
    else
      let m := 2 ^ (Nat.log2 (l.length - 1))
      fadd (leanTree fuel (l.take m)) (leanTree fuel (l.drop m))

/-- The contributions of an element of shard j combined (R349). -/
def reduceEl (algo j : Nat) (xs : List Nat) : Nat :=
  if algo = 3 ∨ algo = 5 then leanTree 32 xs
  else
    let ys := if algo = 6 then xs else xs.drop (j + 1) ++ xs.take (j + 1)
    match ys with
    | [] => 0
    | y :: t => t.foldl fadd y

/-- Element e of a contribution. -/
def elOf (size : Nat) (d : List Byte) (e : Nat) : Nat := ofBytesLE ((d.drop (e * size)).take size)

/-- Element e of a contribution lies in a poisoned unit. -/
def Part.bad (p : Part) (size e : Nat) : Bool := (unitsOf (e * size) size).any p.poison.contains

/-- Elements e of every contribution combined, with poison (R349, R350). -/
def reduceAt (p : Plan) (parts : List Part) (e : Nat) : Nat × Bool :=
  (reduceEl p.algo (e / (max 1 (p.elems / p.nmemb))) (parts.map fun q => elOf 4 q.data e), parts.any fun q => q.bad 4 e)

/-- The result that this device receives: bytes and poisoned elements, from the contributions in member order (R349, R350). -/
def planResult (p : Plan) (parts : List Part) : List Byte × List Nat :=
  let size := fmtBytes p.fmt
  if p.algo = 1 ∨ p.algo = 4 ∨ p.algo = 7 then
    (parts.flatMap (·.data),
     ((List.range parts.length).zip parts).flatMap fun e =>
       ((List.range p.elems).filter fun i => e.2.bad size i).map fun i => e.1 * p.elems + i)
  else
    let sh := p.elems / p.nmemb
    let es := if p.algo = 0 ∨ p.algo = 6 then (List.range sh).map (p.myidx * sh + ·) else List.range p.elems
    let rs := es.map (reduceAt p parts)
    (rs.flatMap fun r => bytesLE 4 r.1, ((List.range rs.length).zip rs).filterMap fun e => if e.2.2 then some e.1 else none)

/-! Staging (R331, R351). -/

/-- The first part of a list that `f` selects, and the others. -/
def takeFirst (f : Part → Bool) : List Part → Option Part × List Part
  | [] => (none, [])
  | p :: t => if f p then (some p, t) else
    let r := takeFirst f t
    (r.1, p :: r.2)

/-- The whole parts of the running attempt that later uses left join the use that runs: one of each member, oldest first. -/
def PlanSt.fill (m : Nat × Nat) (full : Nat) : List Nat → PlanSt → PlanSt
  | [], p => p
  | i :: is, p =>
    if p.parts.any (·.member = i) then p.fill m full is
    else match takeFirst (fun q => decide (q.member = i ∧ (q.attempt, q.stepLo) = m ∧ q.data.length = full)) p.later with
      | (some q, rest) => PlanSt.fill m full is { p with parts := p.parts ++ [q], later := rest }
      | (none, _) => p.fill m full is

/-- The two parts are of one contribution, and the second goes on where bytes of the first are missing (R331). -/
def Part.goesOn (full offset : Nat) (q r : Part) : Bool :=
  r.member = q.member && r.attempt = q.attempt && r.stepLo = q.stepLo && decide (r.data.length < full) && decide (r.data.length = offset)

/-- Bytes of a contribution at an offset of it join the parts of a plan: they extend the part that ends there, or begin one. -/
def stageAt (full offset : Nat) (q : Part) : List Part → List Part
  | [] => [{ q with data := List.replicate offset 0#8 ++ q.data }]
  | r :: t =>
    if q.goesOn full offset r then { r with data := r.data ++ q.data, poison := sortNat (r.poison ++ q.poison) } :: t
    else r :: stageAt full offset q t

/-- Data of a contribution enters the staging of its plan; what the bytes of the staging region then hold, no rule says: they become
unspecified (R351; assumption entry 75). -/
def State.stagePart (s : State) (c : Ctx) (j offset : Nat) (q : Part) : State :=
  let p := s.plan c j
  (s.loseKeys ((List.range p.bytes).map fun i => 2 ^ 48 + p.base + i)).modPlan c j fun t =>
    { t with engine := p.engine, later := if offset = 0 then t.later ++ [q] else stageAt p.full offset q t.later }

/-- The update engine of a record (R29): on the M-die that holds its MASTER pair; which of the eight, no rule says: the record's
index modulo 8 (assumption entry 32). -/
def State.engineOf (s : State) (c : Ctx) (record : Nat) : Nat :=
  let d := s.desc c (bField (s.constBytes c record) 2 2)
  let m := if d.space = 1 then d.base / 2 ^ 28 % 4 else (s.stkDecode (s.stkPhys d.base)).1 / 32 % 4
  8 * m + record % 8

/-- Bytes of a tensor's elements in ascending linear order, and the poisoned 64-byte units among them (R348, R332). -/
def State.contribution (s : State) (v : Env) (d : Desc) : List Byte × List Nat :=
  let lins := List.range d.count
  let size := d.bytes
  let bad := ((s.poisonOf v d lins).map (·.2)).eraseDups
  (lins.flatMap fun l => bytesLE size (s.elRaw v d l), sortNat (bad.flatMap fun l => unitsOf (l * size) size))

/-- The messages of a contribution to one member: at most 1 MiB each, on the virtual channel of collectives, or that of point-to-point
plans (R330, R331, R340). -/
def State.sendMember (s : State) (p : Plan) (c : Ctx) (j : Nat) (r : StepRun) (data : List Byte) (poison : List Nat) (dest : Nat) : State :=
  let vc := if p.algo = 7 then 1 else 0
  (List.range (ceilDiv data.length 0x100000)).foldl (fun (s : State) k =>
    let x := (data.drop (0x100000 * k)).take 0x100000
    s.sendTo p.engine vc dest (msgFlits vc dest
      { src := s.devId, ctx := c.num, attempt := r.mark.1, stepMsg := true, plan := if p.algo = 7 then p.tag else j, stepLo := r.mark.2,
        offset := 0x100000 * k, length := x.length } x poison)) s

/-- This device's contribution staged and sent to each member that needs it, under the plan's index or the tag of a P2P plan;
COL_ERR_INJECT point 0x01 poisons a chunk of it (R331, R351, R352, R405). -/
def State.planSend (s : State) (v : Env) (j d0 : Nat) (record : Option Nat) : State :=
  match (s.cxt v.c).run with
  | none => s
  | some r =>
    let p := s.plan v.c j
    let (data, poison) := s.contribution v (s.desc v.c d0)
    let (s, hits) := s.injectAt (pgCOL p.engine) 1 (ceilDiv data.length 16)
    let poison := hits.foldl (fun l h => insertNat (h.1 / 4) l) poison
    let dests := p.targets.map (s.memberDevice v.c p)
    let s := s.stagePart v.c j 0 ⟨p.myidx, r.mark.1, r.mark.2, data, poison, record⟩
    dests.foldl (fun s d => s.sendMember p v.c j r data poison d) s

/-- A result written into D1: element bits, NONFINITE by R99, and the poison of its elements (R350, R352). -/
def State.recvWrite (s : State) (v : Env) (j1 : Nat) (res : List Byte × List Nat) (n : Nat) : State × Flags :=
  let d := s.desc v.c j1
  let lins := List.range d.count
  let (s, f) := s.writeRaw v d (lins.map fun l => { lin := l, raw := some (elOf d.bytes res.1 l) : OutEl })
  let bad := (lins.filter res.2.contains).flatMap fun l => (d.elBytes (v.off d) l).map (· / 64)
  (s.spMark (v.space d) (sortNat bad), f.at' j1 n)

/-! The lines. -/

/-- Poison that a contribution carries is not consumed (R397). -/
def State.sendFx (s : State) (x : LCtx) (record : Option Nat) : Fx :=
  { unit := .hand, reads := s.accAll x.v (x.l.s 0),
    run := fun _ s => (s.planSend x.v (x.l.f 0 16) (x.l.s 0) record, Flags.none) }

def State.csendFx (s : State) (x : LCtx) : Fx := s.sendFx x none
def State.cupdFx (s : State) (x : LCtx) : Fx := s.sendFx x (some (x.l.s 1))
def State.psendFx (s : State) (x : LCtx) : Fx := s.sendFx x none

/-- The result is written at completion, once the plan has it (R352). -/
def State.crecvFx (s : State) (x : LCtx) : Fx :=
  { unit := .hand, writes := s.accAll x.v (x.l.s 1), plan := some (planKey x.c (x.l.f 0 16)) }

def State.precvFx (s : State) (x : LCtx) : Fx := s.crecvFx x

/-! COLLECTIVE_REDUCE and PLAN_DATA_ARRIVAL. -/

/-- A line of the plan's context still holds contributions of the use: every needed member has its part. -/
def PlanSt.have' (st : PlanSt) (p : Plan) : Option (List Part) :=
  let ps := p.needed.filterMap fun i => st.parts.find? (·.member = i)
  if ps.length = p.needed.length then some ps else none

/-- The engine may work for the context: its step runs and no pause and no stack halt holds it (R38, R313, R453). -/
def State.engineRuns (s : State) (c : Ctx) : Bool :=
  decide ((s.cxt c).state = .running) && !(s.cxt c).paused && !s.thr.pkgPause && !s.anyHalt && decide (s.sys.pstate < 2) &&
    (match (s.cxt c).run with
     | some r => !r.replaying
     | none => false)

/-- The plan has what its next reduction needs. -/
def State.planDue (s : State) (c : Ctx) (j : Nat) : Bool := match (s.cxt c).run with
  | none => false
  | some r =>
    let p := s.plan c j
    let st := (s.planSt c j).fill r.mark p.full (List.range p.nmemb)
    st.result.isNone && (st.have' p).isSome

/-- Collective engine e has no work for a context of higher priority (R38, R351). -/
def State.engineFree (s : State) (c : Ctx) (e : Nat) : Bool :=
  allCtx.all fun h => !decide (h.num < c.num) || !s.engineRuns h || (match (s.cxt h).prog with
    | some q => q.plans.all fun j => !decide ((s.plan h j).engine = e) || !s.planDue h j
    | none => true)

/-- A reduced shard goes to its update engine, or the result waits for its line (R198, R349, R352). -/
def State.reducePlan (s : State) (c : Ctx) (j : Nat) : State :=
  match (s.cxt c).run with
  | none => s
  | some r =>
    let p := s.plan c j
    let s := s.modPlan c j (PlanSt.fill r.mark p.full (List.range p.nmemb))
    let st := s.planSt c j
    match st.result, st.have' p with
    | none, some ps =>
      let rec? := st.parts.findSome? (·.record)
      let s := s.modPlan c j fun q => { q with parts := [] }
      if p.receives then
        let res := planResult p ps
        match rec? with
        | some u =>
          let n := res.1.length / 4
          { s with fab.grads := s.fab.grads ++ [⟨c, u, s.engineOf c u, (List.range n).map (elOf 4 res.1), decide (res.2 ≠ [])⟩] }
        | none => s.modPlan c j fun q => { q with result := some res }
      else s
    | _, _ => s

def execCollectiveReduce (c : Ctx) (plan : Nat) (s : State) : Host.Outcome State Fault Refusal :=
  .next (match (s.cxt c).prog with
  | some q => if q.plans.contains plan && s.engineRuns c && s.engineFree c (s.plan c plan).engine then s.reducePlan c plan else s
  | none => s)

/-- The plan that a message names: a local index, or the tag of a P2P plan (R331). -/
def State.planNamed (s : State) (c : Ctx) (p : Program) (n : Nat) : Option Nat :=
  if p.plans.contains n && decide ((s.plan c n).algo ≠ 7) then some n
  else p.plans.find? fun j => decide ((s.plan c j).algo = 7 ∧ (s.plan c j).tag = n)

/-- The port on which messages of a rank arrive: the one that the forwarding table names for its device. -/
def State.rankPort (s : State) (p : Program) (rank : Nat) : Nat := s.fwdEntry 0 (nth 0xFFFF rank p.rankTab)

/-- The message belongs to an attempt that the context has abandoned, or to an earlier step (R331). -/
def State.staleMark (s : State) (c : Ctx) (attempt stepLo : Nat) : Bool :=
  match (s.cxt c).run with
  | some r =>
    let ahead := (stepLo + 65536 - r.n % 65536) % 65536
    if ahead = 0 then
      decide (attempt + 1 < r.attempt) || (decide (attempt + 1 = r.attempt) && (r.replaying || decide ((s.cxt c).state = .aborting)))
    else decide (32768 ≤ ahead)
  | none =>
    let ahead := (stepLo + 65536 - (s.cxt c).counter % 65536) % 65536
    decide (ahead = 0) || decide (32768 ≤ ahead)

/-- Incoming data of a plan: into staging, held there for a later attempt or step, or discarded and counted at its port (R331, R351). A
message without STEPMSG counts as one of the running attempt. -/
def State.planArrive (s : State) (c : Ctx) (j member port : Nat) (m : Nat × Nat) (offset : Nat) (data : List Byte) (poison : List Nat) : State :=
  let q := s.plan c j
  if q.nmemb ≤ member ∨ member = q.myidx then s
  else if s.staleMark c m.1 m.2 then (if port < 12 then s.countEvent (pgLNK port) else s)
  else s.stagePart c j offset ⟨member, m.1, m.2, data, sortNat poison, none⟩

/-- The attempt and step of a message: those that it names, or the running attempt's. -/
def State.msgMark (s : State) (c : Ctx) (stepMsg : Bool) (attempt stepLo : Nat) : Nat × Nat := match stepMsg, (s.cxt c).run with
  | false, some r => r.mark
  | _, _ => (attempt % 2, stepLo % 65536)

def execPlanDataArrival (c : Ctx) (plan member : Nat) (stepMsg : Bool) (attempt stepLo : Nat) (data : List Byte)
    (poison : List Nat) (s : State) (offset : Nat := 0) : Host.Outcome State Fault Refusal :=
  .next (match (s.cxt c).prog with
  | none => s
  | some p =>
    match s.planNamed c p plan with
    | none => s
    | some j =>
      s.planArrive c j member (s.rankPort p (s.memberRank c (s.plan c j) member)) (s.msgMark c stepMsg attempt stepLo) offset data poison)

/-- A message of a plan that port p received: its member is the one whose device is the source (R331, R340). -/
def State.planFrom (s : State) (p : Nat) (c : Ctx) (h : MsgHdr) (data : List Byte) (poison : List Nat) : State :=
  match (s.cxt c).prog with
  | none => s
  | some g =>
    match s.planNamed c g h.plan with
    | none => s
    | some j =>
      let q := s.plan c j
      match (List.range q.nmemb).find? fun i => nth 0xFFFF (s.memberRank c q i) g.rankTab = h.src with
      | none => s
      | some i => s.planArrive c j i p (s.msgMark c h.stepMsg h.attempt h.stepLo) h.offset data poison

end Sys2Proof.Machine
end

