-- ==== Sys2Proof/Machine/Issue.lean ====
section
/-! DEFINITION. Issue of the head line (R38, R245, R280, R283), the events of its reads (R295, R307, R405), poison (R397, R398,
R400), the checks of passes and vector lines (R380 to R392), result tags (R64), and the issue commands of every opcode. -/

namespace Sys2Proof.Machine

/-- What the head line does, by its opcode (R244). -/
def State.fxOf (s : State) (x : LCtx) : Fx :=
  let op := x.l.op
  if op = 0x10 then s.pmovFx x
  else if op = 0x20 then s.aldFx x
  else if op = 0x21 then s.aospFx x
  else if op = 0x22 then s.ammFx x
  else if op = 0x23 then s.aoutFx x
  else if op = 0x30 then s.vchFx x
  else if op = 0x31 then s.vldFx x
  else if op = 0x32 then s.vstFx x
  else if op = 0x33 then s.vsmxFx x
  else if op = 0x34 then s.vgthFx x
  else if op = 0x35 then s.vsctFx x
  else if op = 0x40 then s.csendFx x
  else if op = 0x41 then s.crecvFx x
  else if op = 0x42 then s.cupdFx x
  else if op = 0x43 then s.psendFx x
  else if op = 0x44 then s.precvFx x
  else { unit := .seq }

/-! Tokens (R245, R247). -/

def liveRefs (l : List Nat) : List Nat := l.filter fun r => refKind r == 1 || refKind r == 2

/-- Counter of a token or barrier reference. -/
def TileCtx.count (t : TileCtx) (r : Nat) : Nat :=
  if refKind r = 1 then t.tokens.get 0 (refNum r) else t.barriers.get 0 (refNum r)

/-- The first wait that its counter does not meet; a token named twice needs 2 (R245). -/
def TileCtx.unmet (t : TileCtx) (ws : List Nat) : Option Nat :=
  (liveRefs ws).find? fun r => decide (t.count r < (ws.filter (· = r)).length)

/-- One consume. -/
def TileCtx.consume (t : TileCtx) (r : Nat) : TileCtx :=
  if refKind r = 1 then { t with tokens := t.tokens.set (refNum r) (t.tokens.get 0 (refNum r) - 1) }
  else { t with barriers := t.barriers.set (refNum r) (t.barriers.get 0 (refNum r) - 1) }

/-! Stalls (R245, R280). -/

/-- Why a head line does not issue, in the order of R280. -/
inductive Stall where
  | prio | token | intlk | unit | power | fence
  deriving DecidableEq, Repr

/-- Offset of its counter in the context's block (R506). -/
def Stall.off : Stall → Nat
  | .prio => 0 | .token => 8 | .intlk => 0x10 | .unit => 0x18 | .power => 0x20 | .fence => 0x28

/-- Lines of a context that run on a tile, helper blocks apart. -/
def State.mine (s : State) (k : Nat) (c : Ctx) : List Running := (s.tile k).running.filter fun r => decide (r.ctx = c ∧ r.no ≠ 0)

/-- The interlocks hold the line: bytes and registers that running lines use (R25, R238), of which two writes to one byte of a plane tensor
conflict only in a common bit (R233); held ALD sources (R118); banks that an ALD still fills. -/
def State.interlocked (s : State) (x : LCtx) (f : Fx) : Bool :=
  let rs := s.mine x.k x.c
  let w := f.writeKeys
  let r := f.readKeys
  let m := f.writeMarks
  (rs.any fun q => keysMeet w q.reads || marksMeet m q.wbits || keysMeet r q.writes) ||
    (w != [] && (s.tctx x.k x.c).held.any fun h => keysMeet w (s.keysOf x.v (s.desc x.c h.2))) ||
    (decide (f.unit = .pass) && rs.any fun q => decide (q.unit = .ald) && q.banks.any f.banks.contains)

/-- The pass that the Collimator of a die serves (R391): its tile, the line in flight, its arbitration. -/
def State.headArb (s : State) (d : Nat) : Option (Nat × Running × Arb) := match (s.die d).collQ with
  | [] => none
  | (_, k, c, no) :: _ =>
    ((s.tile k).running.find? fun r => decide (r.ctx = c ∧ r.no = no) && r.arb.isSome).bind fun r => r.arb.map fun a => (k, r, a)

/-- A peer run is the next pass of tile k (R389). -/
def State.peerDue (s : State) (k : Nat) : Bool := (s.headArb (k / 48)).any fun e => decide (e.2.2.peer = some k) && decide (e.1 ≠ k)

/-- The unit is busy: one pass or AOSP, one vector line, one ALD, and none into the banks of a running pass (R113, R117, R144);
a helping tile finishes its block first (R264), and a peer run comes before the tile's own lines (R389). -/
def State.unitBusy (s : State) (x : LCtx) (f : Fx) : Bool :=
  let t := s.tile x.k
  let has (us : List Unit') : Bool := t.running.any fun q => us.contains q.unit
  t.helping.isSome ||
    match f.unit with
    | .pass => has [.pass, .aosp] || s.peerDue x.k
    | .aosp => has [.pass, .aosp] || s.peerDue x.k
    | .vec => has [.vec]
    | .ald => has [.ald] || s.peerDue x.k || t.running.any fun q => decide (q.unit = .pass) && q.banks.any f.banks.contains
    | _ => false

/-- The first of items 2, 3, 4 and 6 of R245 that the head line fails. -/
def State.readyStall (s : State) (x : LCtx) (f : Fx) : Option Stall :=
  if ((s.tctx x.k x.c).unmet x.l.waits).isSome then some .token
  else if s.interlocked x f then some .intlk
  else if s.unitBusy x f then some .unit
  else if x.l.fence && decide (s.mine x.k x.c ≠ []) then some .fence
  else none

/-- A context's head line on a tile is ready but for power. -/
def State.headReady (s : State) (k : Nat) (c : Ctx) : Bool :=
  s.seqActive k c && (let x := s.lctx k c; (s.readyStall x (s.fxOf x)).isNone)

/-- A line of another context runs on the tile, or a head line of higher priority is ready (R38). -/
def State.prioStall (s : State) (k : Nat) (c : Ctx) : Bool :=
  ((s.tile k).running.any fun q => decide (q.ctx ≠ c ∧ q.no ≠ 0)) || (allCtx.filter fun d => d.num < c.num).any (s.headReady k)

/-- PWR_BUDGET.TOKENS of a C-die (R283). -/
def State.tokensOf (s : State) (d : Nat) : Nat := s.regField (pgPWR d + 0x40) 0 16

/-- A charge fits the die's ledger (R283). -/
def State.fits (s : State) (d p : Nat) : Bool := decide (s.ledger d + p ≤ s.tokensOf d)

/-- A request is granted in queue order; a charge of 0 always (R283). -/
def State.granted (s : State) (x : LCtx) : Bool :=
  let q := (s.die (x.k / 48)).powerQ
  x.l.pcost == 0 || ((q == [] || q.head? == some (x.lt, x.c)) && s.fits (x.k / 48) x.l.pcost)

/-- Why the head line cannot issue, power granting apart: a FENCE wait counts as POWER where the charge is not granted either (R280). -/
def State.stallOf (s : State) (x : LCtx) (f : Fx) : Option Stall :=
  if s.prioStall x.k x.c then some .prio
  else match s.readyStall x f with
    | some .fence => if s.granted x then some .fence else some .power
    | r => r

/-- The line's request leaves the queue. -/
def State.powerDrop (s : State) (x : LCtx) : State :=
  s.modDie (x.k / 48) fun d => { d with powerQ := d.powerQ.filter fun q => q != (x.lt, x.c) }

/-- The tile's requests leave the queue but for this one, which joins it under `keep`: a tile presents at most one (R283). -/
def State.powerSet (s : State) (x : LCtx) (keep : Bool) : State :=
  s.modDie (x.k / 48) fun d =>
    { d with powerQ := if keep then (if d.powerQ.contains (x.lt, x.c) then d.powerQ else
        (d.powerQ.filter fun q => q.1 != x.lt) ++ [(x.lt, x.c)]) else d.powerQ.filter fun q => q.1 != x.lt }

/-- One stalled tc of the head line (R280). -/
def State.stallTick (s : State) (x : LCtx) (r : Stall) : State := s.inc48 (tilCtx (x.k / 48) (x.k % 48) x.c r.off)

/-! Posts (R248, R250, R257). -/

/-- Key of a local token of a tile: NUM for the line's own tile, else with the tile. -/
def postKey (own dest num : Nat) : Nat := if dest = own then num else (dest + 1) * 256 + num

/-- Keys that a line posts. -/
def postKeys (own : Nat) (posts : List Nat) (remote : Option (Nat × Nat)) : List Nat :=
  ((posts.filter fun r => refKind r = 1).map refNum) ++ (match remote with
    | some (d, n) => [postKey own d n]
    | none => [])

/-- A token counter one up. -/
def TileCtx.post (t : TileCtx) (n : Nat) : TileCtx := { t with tokens := t.tokens.set n (min (t.tokens.get 0 n + 1) 0xFFFF) }

/-- A post takes effect on its tile. -/
def State.firePost (s : State) (k : Nat) (c : Ctx) (key : Nat) : State :=
  if key < 256 then s.modTctx k c fun t => t.post key
  else
    let d := key / 256 - 1
    match s.physOf ⟨d / 64, d % 64⟩ with
    | some j => s.modTctx j c fun t => t.post (key % 256)
    | none => s

/-- A posting line has completed: its posts, and those that waited for it, take effect in issue order (R248). -/
def State.completePosts (s : State) (k : Nat) (c : Ctx) (no : Nat) : State :=
  let t := s.tctx k c
  let own := t.openPosts.filter fun e => e.1 = no
  let still := t.openPosts.filter fun e => e.1 ≠ no
  let held := t.heldPosts ++ own
  let due (e : Nat × Nat) : Bool := still.all fun o => decide (o.2 ≠ e.2 ∨ e.1 < o.1)
  let s := s.modTctx k c fun t => { t with openPosts := still, heldPosts := held.filter fun e => !due e }
  (held.filter due).foldl (fun s e => s.firePost k c e.2) s

/-- Barriers that a completed line posts (R250). -/
def State.postBarriers (s : State) (k : Nat) (c : Ctx) (posts : List Nat) : State :=
  (posts.filter fun r => refKind r = 2).foldl (fun s r =>
    s.modTctx k c fun t => { t with posted := t.posted.set (refNum r) (t.posted.get 0 (refNum r) + 1) }) s

/-! Issue. -/

/-- The head leaves the queue of its tile: tokens consumed, the next line at the head, its posts open (R245, R248). -/
def State.takeHead (s : State) (x : LCtx) (f : Fx) : State :=
  let keys := postKeys (tileKey ⟨x.k / 48, x.lt⟩) x.l.posts f.remote
  let s := (s.powerSet x false).modTctx x.k x.c fun t =>
    let t := (liveRefs x.l.waits).foldl TileCtx.consume t
    { t.next x.l with openPosts := t.openPosts ++ keys.map fun key => (x.no, key) }
  s.modTile x.k fun t => { t with last := some x.c }

/-- An attempt to issue the head line of context c on tile t, if it is a line of opcode `op`. A pause of the island stops the count of its
stalls with its clock; a pause of the context and a stack halt leave it (R32, R280, R313, R453). -/
def State.tryIssue (s : State) (t : TileId) (c : Ctx) (op : Nat) (go : LCtx → Fx → State → State) : State :=
  match s.physOf t with
  | none => s
  | some k =>
    let x := s.lctx k c
    if s.seqLine k c && !s.islandStopped k && decide (x.l.op = op) then
      let f := s.fxOf x
      match s.stallOf x f with
      | some r => (s.powerDrop x).stallTick x r
      | none =>
        if !s.granted x then (s.powerSet x true).stallTick x .power
        else if s.seqActive k c then go x f s
        else s
    else s

/-- NOP, LOOP, QWIN and STEPEND complete at issue (R246). -/
def State.instant (s : State) (x : LCtx) (f : Fx) : State :=
  ((s.takeHead x f).completePosts x.k x.c x.no).postBarriers x.k x.c x.l.posts

/-! Reads of a line. -/

/-- 64-byte units that an access reads, in the order of its elements. -/
def Acc.units (a : Acc) : List Nat := ((a.lins.flatMap (a.d.elBytes (a.v.off a.d))).map (· / 64)).eraseDups

/-- The access reads the unit of address `addr` of space `sp`. -/
def Acc.meets (a : Acc) (sp addr : Nat) : Bool := decide (a.d.space = sp) && a.units.contains (addr / 64)

/-- An upset met by a read of `as` (R295, R307, R308). -/
def State.upsetRead (s : State) (as : List Acc) (u : Upset) : State :=
  let word (sp addr : Nat) (double : Bool) (page : Acc → Nat) : State := match as.find? fun a => a.meets sp addr with
    | some a => if double then s.spMark (a.v.space a.d) [addr / 64] else s.countEvent (page a)
    | none => s
  match u with
  | .store addr double => word 0 addr double fun a => pgTIL (a.v.tile / 48) (a.v.tile % 48)
  | .reserve addr double => word 1 addr double fun _ => pgRSV (addr / 2 ^ 28 % 4)
  | .sector addr e => if as.any fun a => a.meets 2 addr then s.sectorEnd (s.stkPhys (addr / 64 * 64)) e else s
  | _ => s

/-- The reads of a line: injections and cache (R299, R405), then the upsets that it meets. -/
def State.lineReads (s : State) (as : List Acc) (ups : List Upset) : State :=
  ups.foldl (fun s u => s.upsetRead as u) (as.foldl (fun s a => s.readUnits (a.v.space a.d) a.units) s)

/-! Poison. -/

/-- A poisoned unit that a line consumes: through which tensor, and the element that meets it first. -/
structure Hit where
  v : Env
  cat : Nat
  d : Desc
  unit : Nat
  lin : Nat
  deriving DecidableEq, Repr

def Hit.key (h : Hit) : Nat × Nat := (h.d.space, h.unit)

/-- Poisoned units that the live accesses consume, each once (R397). -/
def State.hits (s : State) (f : Fx) : List Hit :=
  (f.live.flatMap fun a => (s.poisonOf a.v a.d a.lins).map fun p => (⟨a.v, a.cat, a.d, p.1, p.2⟩ : Hit)).foldl
    (fun acc h => if acc.any fun g => g.key = h.key then acc else acc ++ [h]) []

/-- PMOV copies of a context whose destination is tensor `cat` in the store of tile k, or anywhere else: copying tile, source,
destination's tile. -/
def State.copiesOf (s : State) (c : Ctx) (h : Hit) : List (Nat × Nat × Nat) :=
  s.tiles.flatMap fun e => (nth TileCtx.reset c.num e.2.cx).copies.filterMap fun q =>
    if q.2.1 = h.cat ∧ (h.d.space ≠ 0 ∨ q.2.2 = h.v.tile) then some (e.1, q.1, q.2.2) else none

/-- Elements of a tensor that lie in a unit. -/
def Desc.linsIn (d : Desc) (off u : Nat) : List Nat := (List.range d.count).filter fun l => (d.elBytes off l).any fun a => a / 64 = u

/-- The copy from which a poisoned unit may be copied again: its source is not poisoned (R398). -/
def State.copyFor (s : State) (c : Ctx) (h : Hit) : Option (Nat × Nat × Nat) :=
  (s.copiesOf c h).find? fun q =>
    let v0 : Env := { h.v with tile := q.1 }
    decide (s.poisonOf v0 (s.desc c q.2.1) (h.d.linsIn (h.v.off h.d) h.unit) = [])

/-- Row 2 to 5 of R398 for a poisoned unit. -/
def State.poisonRow (s : State) (c : Ctx) (again : Bool) (h : Hit) : Nat :=
  if h.d.kind = 1 ∨ h.d.kind = 3 ∨ h.d.kind = 4 ∨ h.d.kind = 6 then 5
  else if !again then 4
  else if h.d.kind = 2 then 3
  else if (s.copyFor c h).isSome then 2
  else 4

/-- The unit copied again by the porter (R398 row 2). -/
def State.copyAgain (s : State) (c : Ctx) (h : Hit) : State := match s.copyFor c h with
  | none => s
  | some q =>
    let v0 : Env := { h.v with tile := q.1 }
    let w : Env := { h.v with tile := q.2.2 }
    let d0 := s.desc c q.2.1
    (s.writeRaw w h.d ((h.d.linsIn (h.v.off h.d) h.unit).map fun l => { lin := l, raw := some (s.elRaw v0 d0 l) : OutEl })).1

/-- An INPUT tensor fetched again from the host's batch buffer (R398 row 3, R399). -/
def State.fetchAgain (s : State) (c : Ctx) (j : Nat) : State := match (s.cxt c).run with
  | none => s
  | some r =>
    (r.micro.zip (List.range r.micro.length)).foldl (fun s e =>
      ((s.microLayout c e.2 e.1).filter fun p => p.1 = j).foldl (fun s p => s.loadInput c j (e.1.addr + p.2)) s) s

/-- The page of the unit that consumes (R500). -/
def LCtx.page (x : LCtx) (unitNo : Nat) : Nat :=
  let d := x.on / 48
  let p := x.on % 48
  if 1 ≤ unitNo ∧ unitNo ≤ 4 then pgARY d p else if unitNo = 5 then pgVEC d p else if unitNo = 6 then pgPOR d p else pgTIL d p

/-- POISON_RECOVERED of a unit (R403). -/
def Hit.recovered (h : Hit) (x : LCtx) (unitNo how : Nat) : FRec :=
  { x.frec 0x050A 5 unitNo h.cat with c0 := h.unit * 64 % 2 ^ 32, c1 := h.unit * 64 / 2 ^ 32, c2 := h.d.space, c3 := how }

/-- One unit recovered by row 2 or 3. -/
def State.recoverHit (s : State) (x : LCtx) (f : Fx) (h : Hit) : State :=
  let row := s.poisonRow x.c f.replayable h
  let s := if row = 2 then s.copyAgain x.c h else if row = 3 then s.fetchAgain x.c h.cat else s
  if row = 2 ∨ row = 3 then s.event (x.page f.unitNo) (h.recovered x f.unitNo row) else s

/-- A line that needs an INPUT tensor fetched again waits while the host link is down (R398, R435). -/
def State.inputWait (s : State) (x : LCtx) (f : Fx) : Bool :=
  !s.host.linkUp && (let rows := (s.hits f).map (s.poisonRow x.c f.replayable); rows.contains 3 && rows.all fun r => decide (r ≤ 3))

/-- The consumer of poison: none where the line ends in POISON_CONSUMED or a step replay, else the state after recovery (R398,
R400). -/
def State.poisonStep (s : State) (x : LCtx) (f : Fx) : State × Bool :=
  let hs := s.hits f
  if hs = [] then (s, true)
  else
    let page := x.page f.unitNo
    match hs.find? fun h => s.poisonRow x.c f.replayable h = 5 with
    | some h =>
      (s.killHw page x.c { x.frec 0x050B 5 f.unitNo h.cat with
        c0 := h.unit * 64 % 2 ^ 32, c1 := h.unit * 64 / 2 ^ 32, c2 := h.d.space, c3 := h.lin % 2 ^ 32, c4 := h.lin / 2 ^ 32 }, false)
    | none =>
      let ask (s : State) : State × Bool := (s.askReplay page x.c (x.frec 0x0507 5 f.unitNo (nth 0xFFFF 0 x.l.d)) 4, false)
      if s.inputWait x f || hs.any fun h => s.poisonRow x.c f.replayable h = 4 then ask s
      else
        let s := hs.foldl (fun s h => s.recoverHit x f h) s
        if s.hits f = [] then (s, true) else ask s

/-! Parity of weight banks and of the activation row buffer. -/

/-- Bank parity errors that a pass meets: those of its upsets, and injection point 0x05 (R398, R405; assumption entry 77). -/
def State.parityOf (s : State) (x : LCtx) (f : Fx) (ups : List Upset) : State × List Nat :=
  if x.l.op = 0x22 then
    let (s, hits) := s.injectAt (pgARY (x.on / 48) (x.on % 48)) 5 1
    let bs := x.l.banksOf
    (s, (ups.filterMap fun u => match u with
      | .bank key => if f.banks.contains key then some key else none
      | _ => none) ++ hits.map fun h => bankKey (nth 0 0 x.l.arrays) (nth 0 (h.2 % 4 % bs.length) bs))
  else (s, [])

/-- The row buffer of a pass has a parity error. -/
def rowParity (x : LCtx) (ups : List Upset) : Bool := x.l.op == 0x22 && ups.contains .rowBuf

/-- The held source of a bank as the reload reads it (R118). -/
def State.heldAcc (s : State) (x : LCtx) (key : Nat) : List Acc := match s.expected x key with
  | some t => s.acc (s.tagEnv t) t.cat (t.lins (s.desc x.c t.cat) (key / 4) (key % 4))
  | none => []

/-- A parity error recovered by row 1 of R398: recorded and counted (R403). -/
def State.parityDone (s : State) (x : LCtx) (unitNo : Nat) : State :=
  let page := pgARY (x.on / 48) (x.on % 48)
  (s.event page { x.frec 0x050A 5 unitNo (nth 0xFFFF 0 x.l.d) with c3 := 1 }).countEvent page

/-- What a run of a line finds before it computes: parity errors with the reload that each needs, poison with its recovery, then the checks
at issue on what recovery left (R290, R398). None where the line ends here. -/
def State.fetch (s : State) (x : LCtx) (ups : List Upset) : State × Option Fx :=
  let f := s.fxOf x
  let (s, keys) := s.parityOf x f ups
  let s := (keys ++ (if rowParity x ups then [0] else [])).foldl (fun (s : State) _ => s.parityDone x f.unitNo) s
  match s.poisonStep x { f with live := f.live ++ keys.flatMap (s.heldAcc x) } with
  | (s, false) => (s, none)
  | (s, true) =>
    let f := s.fxOf x
    match f.fault with
    | some r => (s.kill x.c (r.at x.on x.lt), none)
    | none => (s, some f)

/-! Copies and result tags. -/

/-- Copies whose source or destination the line writes are no copies any more (R398). -/
def State.dropCopies (s : State) (c : Ctx) (w : List Nat) : State :=
  if s.tiles.all fun e => (nth TileCtx.reset c.num e.2.cx).copies = [] then s
  else
    let keep (k : Nat) (q : Nat × Nat × Nat) : Bool :=
      !keysMeet w (s.keysOf ((s.cxt c).env c k) (s.desc c q.1)) && !keysMeet w (s.keysOf ((s.cxt c).env c q.2.2) (s.desc c q.2.1))
    { s with tiles := s.tiles.map fun (e : Nat × TileSt) =>
        (e.1, { e.2 with cx := modAt (fun t => { t with copies := t.copies.filter (keep e.1) }) c.num e.2.cx }) }

/-- The 64 bytes of a result tag (R64). -/
def resultTag (sl : Digest) (n cat : Nat) (c : Ctx) (rank crc : Nat) : List Byte :=
  takeD 0#8 32 sl ++ bytesLE 8 n ++ bytesLE 4 cat ++ bytesLE 1 c.num ++ bytesLE 1 rank ++ bytesLE 2 (rank / 256 % 256) ++
    bytesLE 8 crc ++ bytesLE 8 0

/-- A SEAL_TAG tensor in a host window ends with its tag at the next 64-byte boundary (R64). -/
def State.sealTag (s : State) (v : Env) (j : Nat) : State :=
  let d := s.desc v.c j
  match (s.cxt v.c).run with
  | some r =>
    if d.space = 3 ∧ bitAt d.modes 8 = true then
      s.spWrite (v.space d) (alignUp (((d.base : Nat) + d.footLo).toNat + d.footLen) 64)
        (resultTag r.sealD r.n j v.c (s.cxt v.c).rank (crc64 (s.footBytes v d)))
    else s
  | none => s

def State.sealTags (s : State) (as : List Acc) : State :=
  ((as.map fun a => (a.v, a.cat)).eraseDups).foldl (fun s e => s.sealTag e.1 e.2) s

/-! Checks of passes. -/

/-- A CHK_ record of run `n` (R403). -/
def LCtx.chkRec (x : LCtx) (m : Mis) (unitNo n : Nat) : FRec :=
  ({ x.frec m.code 5 unitNo (nth 0xFFFF 0 x.l.d) with c0 := m.row, c1 := m.col, c2 := m.slab, c3 := m.block, c4 := n } : FRec).at x.on x.lt

/-- Bit of `w` and instance of `n` that an injection with COUNT before it names (R405). -/
def injBit (w cnt : Nat) : Nat := cnt % w
def injInst (w n cnt : Nat) : Nat := cnt / w % n

/-- The injections of a run of a pass as upsets (R405): points 1 and 3 meet one occurrence per live row, 4 one per live row and K index, 6 one
per live row and group of 64 columns, 2 one per pass; an instance counts the columns or lanes of the first array (assumption entry 77). -/
def State.passInject (s : State) (x : LCtx) : State × List Upset :=
  let page := pgARY (x.on / 48) (x.on % 48)
  let amm := x.l.op == 0x22
  let half := s.halfPair x
  let p := if amm then s.ammPass x else s.aoutPass x
  let live := p.rows.filter (s.rowLive x p.masked)
  let rows := live.length
  let a0 := nth 0 0 x.l.arrays
  let base := 64 * x.l.f 32 16 + a0 * formWidth (x.l.f 4 1)
  let nk := (s.ammKs x).length
  let groups := ceilDiv p.cols.length 64
  let row (i : Nat) : Nat := nth 0 i live
  let (s, h1) := s.injectAt page 1 (if amm && !half then rows else 0)
  let (s, h2) := s.injectAt page 2 (if amm then 1 else 0)
  let (s, h3) := s.injectAt page 3 (if amm && !half then rows else 0)
  let (s, h4) := s.injectAt page 4 (if amm && half then rows * nk else 0)
  let (s, h6) := s.injectAt page 6 (if p.final && (decide (p.prof.scaleMode ≠ 0) || p.prof.act == 0x02 || p.prof.act == 0x10) then rows * groups else 0)
  (s, h1.map (fun h => Upset.acc (row h.1) (base + injInst 80 64 h.2) 0 (injBit 80 h.2)) ++
    h2.map (fun h => if injInst 104 2 h.2 = 0 then Upset.cellCol (row 0) a0 0 (injBit 104 h.2) else .cellRow base 0 (injBit 104 h.2)) ++
    h3.map (fun h => Upset.residue (row h.1) (base + injInst 3 64 h.2) 0 (injBit 3 h.2)) ++
    h4.map (fun h => Upset.product (row (h.1 / nk)) (base + injInst 22 64 h.2) (h.1 % nk) (injBit 22 h.2)) ++
    h6.map fun h => Upset.out (row (h.1 / groups)) (nth 0 (64 * (h.1 % groups) + injInst 48 64 h.2) p.cols) (decide (p.prof.scaleMode = 0)) (injBit 48 h.2))

/-- The peer of physical tile k (R389): the spare at the lower position, else logical tile (t + 1) mod 46 of the die. A spare
under in-field test counts: the test is suspended. -/
def State.peerOf (s : State) (k : Nat) : Nat :=
  match (dieTiles (k / 48)).find? fun j => ((s.role j).state == 1 || (s.role j).state == 2) && j != k with
  | some j => j
  | none => (s.physOf ⟨k / 48, ((s.role k).lt + 1) % 46⟩).getD k

/-- Order of the Collimator's queue behind its active pass (R391): tc of the first mismatch, then logical tile. -/
def State.collBefore (s : State) (a b : Nat × Nat × Ctx × Nat) : Bool :=
  decide (a.1 < b.1) || (decide (a.1 = b.1) && decide ((s.role a.2.1).lt ≤ (s.role b.2.1).lt))

def State.collInsert (s : State) (e : Nat × Nat × Ctx × Nat) : List (Nat × Nat × Ctx × Nat) → List (Nat × Nat × Ctx × Nat)
  | [] => [e]
  | h :: t => h :: (t.takeWhile (s.collBefore · e) ++ e :: t.dropWhile (s.collBefore · e))

/-- A pass whose run 1 has failed its checks: recorded, the decision counted, and the pass enters its die's queue; where 8 wait, a step
replay is asked for (R391, R403). A suspect or quarantined tile starts at PEER with s2 taken as s1 (R388, R402). -/
def State.enterColl (s : State) (x : LCtx) (no unitNo : Nat) (m : Mis) (sig tc : Nat) : State × Option Arb :=
  let d := x.on / 48
  let page := pgARY d (x.on % 48)
  let s := s.event page (x.chkRec m unitNo 1)
  if 8 ≤ (s.die d).collQ.length then (s.askReplay page x.c (x.frec 0x0507 5 unitNo (nth 0xFFFF 0 x.l.d)) 2, none)
  else
    let r := s.role x.on
    let odd := r.suspect || r.quarantine
    let a : Arb := ⟨m.code, if odd then some (s.peerOf x.on) else none, sig, sig, 1, odd⟩
    ((s.countEvent page).modDie d fun z => { z with collQ := s.collInsert (tc, x.on, x.c, no) z.collQ }, some a)

/-- Run 1 of a pass: its outputs and flags, and the arbitration that its checks call for; none where a step replay drops it, its outputs
with it. The tc of an injected mismatch is free (assumption entry 77). -/
def State.passRun (s : State) (x : LCtx) (f : Fx) (ups : List Upset) (no tc : Nat) : State × Option (Flags × Option Arb) :=
  let (s, inj) := s.passInject x
  let us := ups ++ inj
  match f.mis us s with
  | none => let (s, fl) := f.run us s; (s, some (fl, none))
  | some m =>
    let (s, tc) := if inj = [] then (s, tc) else (s.tick, Config.injectTc s.free)
    let (t, fl) := f.run us s
    match t.enterColl x no f.unitNo m (f.sig t) tc with
    | (t, some a) => (t, some (fl, some a))
    | (_, none) => ((s.enterColl x no f.unitNo m 0 tc).1, none)

/-- COLL_TRANSIENT records within 24 h; the fourth requests the tile's in-field test (R390). -/
def State.transient (s : State) (k : Nat) : State :=
  let n := (if Config.within 2 s.free then (s.role k).transients else 0) + 1
  let s := (s.modRole k fun r => { r with transients := if n < 4 then n else 0 }).tick
  if n < 4 then s else s.tileDue k (s.bstCfg 24 8)

/-! Checks of vector lines. -/

/-- Stages of unit F that multiply (R153, R380). -/
def Stage.multiplies (g : Stage) : Bool := [0x02, 0x10, 0x41, 0x44, 0x82, 0x83].contains g.ty

/-- The line multiplies on unit F. -/
def State.multiplies (s : State) (x : LCtx) : Bool := x.l.op == 0x33 || (x.l.op == 0x30 && (s.chain x).stages.any Stage.multiplies)

/-- The product check of a run of a vector line (R383): element and lane of the first mismatch, of an upset or of an injection, which meets
one occurrence per beat of 128 lanes (R405). -/
def State.vecMis (s : State) (x : LCtx) (ups : List Upset) : State × Option Mis :=
  if s.multiplies x then
    let n := (s.desc x.c (x.l.s 0)).count
    let (s, hits) := s.injectAt (pgVEC (x.k / 48) (x.k % 48)) 1 (ceilDiv n 128)
    let bad (e lane : Nat) : Mis := ⟨0x0502, e % 2 ^ 32, e / 2 ^ 32, 0, lane⟩
    (s, (ups.findSome? fun u => match u with
        | .unitF e lane a b bit => if fFP32.prodBad (2 ^ (bit % 48)) a b then some (bad e lane) else none
        | _ => none).or
      (hits.findSome? fun h =>
        let lane := injInst 48 128 h.2
        if 128 * h.1 + lane < n then some (bad (128 * h.1 + lane) lane) else none))
  else (s, none)

/-- A vector line: a mismatch discards the outputs, a replayable line reruns once from its held inputs, and what fails again or cannot rerun
asks for a step replay (R392). None where the line ends here. -/
def State.vecRun (s : State) (x : LCtx) (f : Fx) (ups again : List Upset) : State × Option Flags :=
  let page := pgVEC (x.k / 48) (x.k % 48)
  let ask (s : State) : State × Option Flags := (s.askReplay page x.c (x.frec 0x0507 5 5 (nth 0xFFFF 0 x.l.d)) 3, none)
  let ends (r : State × Flags) : State × Option Flags := (r.1, some r.2)
  match s.vecMis x ups with
  | (s, none) => ends (f.run ups s)
  | (s, some m) =>
    let s := s.event page (x.chkRec m 5 1)
    if f.replayable then
      match (s.lineReads f.reads again).fetch x again with
      | (s, none) => (s, none)
      | (s, some f) =>
        match s.vecMis x again with
        | (s, some m) => ask (s.event page (x.chkRec m 5 2))
        | (s, none) =>
          let r := { x.frec 0x0504 5 5 (nth 0xFFFF 0 x.l.d) with c0 := Config.runSig s.free % 2 ^ 32, c1 := Config.runSig (s.free + 1) % 2 ^ 32, c4 := 2 }
          ends (f.run again ((s.event page r).tick.tick.transient x.k))
    else ask s

/-! The line starts. -/

/-- How a line runs: its state, flags and arbitration, or none where it ends in a replay. -/
abbrev Runner := Fx → State → State × Option (Flags × Option Arb)

/-- A line without checks. -/
def plainRun : Runner := fun f s => let (s, fl) := f.run [] s; (s, some (fl, none))

/-- Row blocks of a pass that trim splits; block 0 alone otherwise (R261). -/
def State.blocksOf (s : State) (x : LCtx) : List Nat :=
  if s.splits x then List.range (ceilDiv ((s.desc x.c (x.l.s 0)).e 1) 4096) else [0]

/-- What the receiver of a PSEND must acknowledge (R352); a port 12 that no flit leaves stands for a receiver that no route reaches. -/
def State.sentOf (s : State) (x : LCtx) : List (Nat × Nat) :=
  if x.l.op = 0x43 then
    let p := s.plan x.c (x.l.f 0 16)
    let dest := s.memberDevice x.c p 1
    s.ownFlits ++ (if s.fwdEntry p.engine dest < 12 ∨ s.fwdEntry p.engine dest = 0xE then [] else [(12, 1)])
  else []

/-- The line in flight (R246). -/
def State.pushRunning (s : State) (x : LCtx) (f : Fx) (flags : Flags) (arb : Option Arb) : State :=
  let bs := s.blocksOf x
  let r : Running :=
    { ctx := x.c, line := x.n, iter := x.iter, no := x.no, unit := f.unit, opcode := x.l.op, d := x.l.d, reads := f.readKeys,
      writes := f.writeKeys, wbits := f.writeMarks, posts := x.l.posts, remote := f.remote, pcost := x.l.pcost, lclass := x.l.lclass,
      arrays := f.arrays, banks := f.banks, release := f.release, flags := flags, arb := arb, blocks := bs, trim := bs.drop 1,
      waitPlan := f.plan, sent := s.sentOf x }
  s.modTile x.k fun t => { t with running := t.running ++ [r] }

/-- A line issues: the checks at issue first, before it reads or writes anything; then its reads, recovery and run (R245, R246, R290, R397).
Its effect stands at once; the interlocks keep it from every other line until it completes (assumption entry 12). -/
def State.startLine (s : State) (x : LCtx) (f : Fx) (ups : List Upset) (go : Runner) : State :=
  match f.fault with
  | some r => (s.takeHead x f).kill x.c (r.at x.k x.lt)
  | none =>
    let s := s.lineReads f.reads ups
    if s.inputWait x (s.fxOf x) then s.stallTick x .intlk
    else
      match (s.takeHead x f).fetch x ups with
      | (s, none) => s
      | (s, some f) =>
        match go f (s.dropCopies x.c f.writeKeys) with
        | (s, none) => s
        | (s, some (flags, arb)) => (if f.plan.isSome then s else s.sealTags f.writes).pushRunning x f flags arb

/-! The issue commands. -/

def execNop (t : TileId) (c : Ctx) (s : State) : Host.Outcome State Fault Refusal :=
  .next (s.tryIssue t c 0x00 fun x f s => s.instant x f)

def execLoop (t : TileId) (c : Ctx) (s : State) : Host.Outcome State Fault Refusal :=
  .next (s.tryIssue t c 0x01 fun x f s => s.instant x f)

/-- QWIN declares quiet windows of stacks open or closed; the declarations of all tiles and contexts are counted together (R256). -/
def State.qwin (s : State) (x : LCtx) : State :=
  (maskBits 8 (x.l.f 0 8)).foldl (fun s st =>
    s.modStack st fun z => { z with windows := if x.l.bit 8 then z.windows + 1 else z.windows - 1 }) s

def execQwin (t : TileId) (c : Ctx) (s : State) : Host.Outcome State Fault Refusal :=
  .next (s.tryIssue t c 0x02 fun x f s => (s.qwin x).instant x f)

/-- STEPEND posts barrier 241 (R250). -/
def execStepend (t : TileId) (c : Ctx) (s : State) : Host.Outcome State Fault Refusal :=
  .next (s.tryIssue t c 0x03 fun x f s => (s.instant x f).postBarriers x.k x.c [2 * 256 + 241])

/-- A line that no check of R380 covers. -/
def State.issuePlain (s : State) (t : TileId) (c : Ctx) (op : Nat) (ups : List Upset) : State :=
  s.tryIssue t c op fun x f s => s.startLine x f ups plainRun

/-- An array pass. -/
def State.issuePass (s : State) (t : TileId) (c : Ctx) (op : Nat) (ups : List Upset) (tc : Nat) : State :=
  s.tryIssue t c op fun x f s => s.startLine x f ups fun f s => s.passRun x f ups x.no tc

/-- A vector line that may multiply on unit F. -/
def State.issueVec (s : State) (t : TileId) (c : Ctx) (op : Nat) (ups again : List Upset) : State :=
  s.tryIssue t c op fun x f s => s.startLine x f ups fun f s =>
    let (s, fl) := s.vecRun x f ups again
    (s, fl.map fun fl => (fl, none))

def execPmov (t : TileId) (c : Ctx) (ups : List Upset) (s : State) : Host.Outcome State Fault Refusal := .next (s.issuePlain t c 0x10 ups)
def execAld (t : TileId) (c : Ctx) (s : State) (ups : List Upset := []) : Host.Outcome State Fault Refusal := .next (s.issuePlain t c 0x20 ups)
def execAosp (t : TileId) (c : Ctx) (s : State) (ups : List Upset := []) : Host.Outcome State Fault Refusal := .next (s.issuePlain t c 0x21 ups)
def execAmm (t : TileId) (c : Ctx) (ups : List Upset) (s : State) (tc : Nat := 0) : Host.Outcome State Fault Refusal :=
  .next (s.issuePass t c 0x22 ups tc)
def execAout (t : TileId) (c : Ctx) (ups : List Upset) (s : State) (tc : Nat := 0) : Host.Outcome State Fault Refusal :=
  .next (s.issuePass t c 0x23 ups tc)
def execVch (t : TileId) (c : Ctx) (ups : List Upset) (s : State) (again : List Upset := []) : Host.Outcome State Fault Refusal :=
  .next (s.issueVec t c 0x30 ups again)
def execVld (t : TileId) (c : Ctx) (s : State) (ups : List Upset := []) : Host.Outcome State Fault Refusal := .next (s.issuePlain t c 0x31 ups)
def execVst (t : TileId) (c : Ctx) (s : State) : Host.Outcome State Fault Refusal := .next (s.issuePlain t c 0x32 [])
def execVsmx (t : TileId) (c : Ctx) (ups : List Upset) (s : State) (again : List Upset := []) : Host.Outcome State Fault Refusal :=
  .next (s.issueVec t c 0x33 ups again)
def execVgth (t : TileId) (c : Ctx) (s : State) (ups : List Upset := []) : Host.Outcome State Fault Refusal := .next (s.issuePlain t c 0x34 ups)
def execVsct (t : TileId) (c : Ctx) (s : State) (ups : List Upset := []) : Host.Outcome State Fault Refusal := .next (s.issuePlain t c 0x35 ups)
def execCsend (t : TileId) (c : Ctx) (s : State) (ups : List Upset := []) : Host.Outcome State Fault Refusal := .next (s.issuePlain t c 0x40 ups)
def execCrecv (t : TileId) (c : Ctx) (s : State) : Host.Outcome State Fault Refusal := .next (s.issuePlain t c 0x41 [])
def execCupd (t : TileId) (c : Ctx) (s : State) (ups : List Upset := []) : Host.Outcome State Fault Refusal := .next (s.issuePlain t c 0x42 ups)
def execPsend (t : TileId) (c : Ctx) (s : State) (ups : List Upset := []) : Host.Outcome State Fault Refusal := .next (s.issuePlain t c 0x43 ups)
def execPrecv (t : TileId) (c : Ctx) (s : State) : Host.Outcome State Fault Refusal := .next (s.issuePlain t c 0x44 [])

/-! Completion. -/

/-- A late line (R279): counted, and captured where no capture is valid. -/
def State.late (s : State) (k : Nat) (r : Running) (tc : Nat) : State :=
  let a := tilCtx (k / 48) (k % 48) r.ctx
  if tc ≤ 2 ^ (r.lclass + 3) then s
  else
    let s := s.inc48 (a 0x30)
    if bitAt (s.reg (a 0x38)) 31 then s
    else ((s.setReg (a 0x38) (r.line % 2 ^ 14 + 2 ^ 31)).setReg (a 0x3C) r.iter).setReg (a 0x40) (min tc 0xFFFFFFFF)

/-- A receiving line writes its result (R352). -/
def State.takeResult (s : State) (k : Nat) (r : Running) : State × Flags :=
  match r.waitPlan with
  | none => (s, Flags.none)
  | some key =>
    match (s.fab.plans.get PlanSt.reset key).result with
    | none => (s, Flags.none)
    | some res =>
      let v := (s.cxt r.ctx).env r.ctx k
      let j := nth 0xFFFF 1 r.d
      let s := s.modPlan r.ctx (key % 65536) fun p => { p with result := none }
      let s := s.dropCopies r.ctx r.writes
      let (s, f) := s.recvWrite v j res r.line
      (s.sealTag v j, f)

/-- Counts of completed lines (R507). -/
def State.countLine (s : State) (k : Nat) (r : Running) : State :=
  let d := k / 48
  let p := k % 48
  if r.unit = .pass then s.incReg (pgARY d p + 0x44)
  else if r.unit = .vec then s.incReg (pgVEC d p + 0x44)
  else if r.unit = .porter then
    let n (i : Nat) : Nat := let e := s.desc r.ctx (nth 0xFFFF i r.d); ceilDiv (e.count * e.elBits) 8
    s.incReg64 (pgPOR d p + 0x44) (max (n 0) (n 1))
  else s

/-- A line completes: its charge returns, flags and posts take effect, a RELEASE pass frees its sources (R134, R246, R282). -/
def State.finishLine (s : State) (k : Nat) (r : Running) (tc : Nat) : State :=
  let (s, f) := s.takeResult k r
  let s := s.raiseFlags r.ctx (r.flags.or f)
  let s := s.modTile k fun t => { t with running := t.running.filter fun q => !(q.ctx = r.ctx && q.no = r.no) }
  let s := (s.countLine k r).late k r tc
  let s := if r.release then s.modTctx k r.ctx fun t => { t with held := t.held.filter fun h => !r.banks.contains h.1 } else s
  ((s.completePosts k r.ctx r.no).postBarriers k r.ctx r.posts).lineEnded r.ctx

/-- What the line waits on outside its tile has come: the result of its plan, and for a PSEND the receiver's acknowledgement (R352). -/
def State.planReady (s : State) (r : Running) : Bool :=
  (match r.waitPlan with
   | none => true
   | some key => (s.fab.plans.get PlanSt.reset key).result.isSome) &&
  r.sent.all fun e => decide (e.1 < 12 ∧ e.2 ≤ (s.port e.1).ownAck)

/-- LINE_COMPLETE of a line that is no pass (R246). -/
def execLineComplete (t : TileId) (c : Ctx) (line iter tc : Nat) (s : State) : Host.Outcome State Fault Refusal :=
  .next (match s.physOf t with
  | none => s
  | some k =>
    match (s.mine k c).find? fun r => decide (r.line = line ∧ r.iter = iter ∧ r.unit ≠ .pass) && s.planReady r with
    | none => s
    | some r => if s.islandStopped k then s else s.finishLine k r tc)

/-- The pass of a context that runs on a tile. -/
def State.passOf (s : State) (k : Nat) (c : Ctx) : Option Running := (s.mine k c).find? fun r => r.unit = .pass

/-- The pass of tile k changed. -/
def State.modPass (s : State) (k : Nat) (c : Ctx) (f : Running → Running) : State :=
  s.modTile k fun t => { t with running := t.running.map fun r => if r.ctx = c ∧ r.no ≠ 0 ∧ r.unit = .pass then f r else r }

/-- Row blocks of a pass that helpers hold. -/
def State.helped (s : State) (k : Nat) : List Nat := s.tiles.filterMap fun e => match e.2.helping with
  | some (d, b) => if d = k then some b else none
  | none => none

/-- A block has committed: the pass completes with the last one (R134, R137, R262). -/
def State.blockDone (s : State) (k : Nat) (c : Ctx) (b tc : Nat) : State :=
  let s := s.modPass k c fun r => { r with blocks := r.blocks.filter (· ≠ b) }
  match s.passOf k c with
  | some r => if r.blocks = [] then s.finishLine k r tc else s
  | none => s

/-- PASS_COMMIT (R134): on the tile that ran the pass, or on the helper that ran one of its row blocks. The donor then takes
its lowest untaken block. -/
def execPassCommit (t : TileId) (c : Ctx) (tc : Nat) (s : State) : Host.Outcome State Fault Refusal :=
  .next (match s.physOf t with
  | none => s
  | some k =>
    if s.islandStopped k then s
    else match (s.tile k).helping, (s.tile k).running.find? fun r => decide (r.ctx = c ∧ r.no = 0) with
    | some (d, b), some r =>
      if r.arb.isSome then s
      else
        let s := s.modTile k fun t => { t with helping := none, running := t.running.filter fun q => q.no ≠ 0 }
        s.blockDone d c b tc
    | _, _ =>
      match s.passOf k c with
      | none => s
      | some r =>
        if r.arb.isSome then s
        else match r.blocks.find? fun b => !r.trim.contains b && !(s.helped k).contains b with
          | none => s
          | some b =>
            let s := s.modPass k c fun r => { r with trim := r.trim.drop 1 }
            s.blockDone k c b tc)

/-- Where a line in flight of tile k stands, to look at it again: run on tile `on`, its row block `part` alone. -/
def State.runCtx (s : State) (k on : Nat) (part : Option Nat) (r : Running) : LCtx :=
  { k := k, on := on, part := part, c := r.ctx, n := r.line, iter := r.iter, no := r.no, l := { s.lineAt k r.ctx r.line with d := r.d },
    v := (s.cxt r.ctx).env r.ctx k, lt := (s.role k).lt, step := (s.cxt r.ctx).stepNo }

/-- A tile may help: no pass or ALD runs on it, no peer run and no head line is ready on it, it helps no other, its clock runs (R32, R262,
R264). -/
def State.canHelp (s : State) (k : Nat) : Bool :=
  let t := s.tile k
  t.helping.isNone && !s.islandStopped k && !s.peerDue k && (t.running.all fun r => decide (r.unit ≠ .pass ∧ r.unit ≠ .ald)) &&
    !allCtx.any (s.headReady k)

/-- A helper takes row block b of the donor's pass: it runs there, with the weights that the donor's tags name and the donor's charge (R118,
R262, R287). -/
def State.takeBlock (s : State) (k h : Nat) (c : Ctx) (r : Running) (b : Nat) (ups : List Upset) (tc : Nat) : State :=
  let x := s.runCtx k h (some b) r
  let f := s.fxOf x
  match (s.lineReads f.reads ups).fetch x ups with
  | (s, none) => s
  | (s, some f) =>
    match s.passRun x f ups 0 tc with
    | (s, none) => s
    | (s, some (_, arb)) =>
      (s.modPass k c fun r => { r with trim := r.trim.dropLast }).modTile h fun t =>
        { t with helping := some (k, b),
                 running := t.running ++ [{ r with no := 0, reads := [], writes := [], wbits := [], posts := [], remote := none,
                                                   release := false, flags := Flags.none, arb := arb, blocks := [b], trim := [] }] }

/-- TRIM_BLOCK_TAKE (R262, R287): the highest untaken block. -/
def execTrimBlockTake (donor helper : TileId) (c : Ctx) (ups : List Upset) (s : State) (tc : Nat := 0) : Host.Outcome State Fault Refusal :=
  .next (match s.physOf donor, s.physOf helper with
  | some k, some h =>
    match s.passOf k c with
    | none => s
    | some r =>
      let fit := r.pcost == 0 || (decide ((s.die (k / 48)).powerQ = []) && s.fits (k / 48) r.pcost)
      match r.trim.getLast? with
      | none => s
      | some b => if k ≠ h ∧ k / 48 = h / 48 ∧ s.canHelp h = true ∧ fit = true ∧ s.anyHalt = false then s.takeBlock k h c r b ups tc else s
  | _, _ => s)

/-! EPH_STALL. -/

/-- EPH_STALL: a head line that cannot issue, for whatever slip, has waited past the limit (R270, R313). -/
def execEphStall (t : TileId) (c : Ctx) (s : State) : Host.Outcome State Fault Refusal :=
  .next (match s.physOf t with
  | none => s
  | some k =>
    let x := s.lctx k c
    let f := s.fxOf x
    if s.seqLine k c && !(s.cxt c).paused &&
        (s.tileHalted k || s.islandStopped k || (s.stallOf x f).isSome || !s.granted x || s.inputWait x f) then
      s.kill c { x.frec 0x0806 2 0 0xFFFF with c0 := ((s.tctx k c).unmet x.l.waits).getD 0 }
    else s)

end Sys2Proof.Machine
end

