-- ==== Sys2Proof/Machine/Collimator.lean ====
section
/-! DEFINITION. The Collimator (R387 to R391, R393, R401 to R403). -/

namespace Sys2Proof.Machine

/-- The pass under arbitration changed. -/
def State.modArb (s : State) (k : Nat) (c : Ctx) (no : Nat) (f : Running → Running) : State :=
  s.modTile k fun t => { t with running := t.running.map fun r => if r.ctx = c ∧ r.no = no ∧ r.arb.isSome = true then f r else r }

/-- The queue's first entry leaves. -/
def State.popColl (s : State) (d : Nat) : State := s.modDie d fun z => { z with collQ := z.collQ.drop 1 }

/-- The pass that the Collimator serves, as its runs see it: the tile that ran it, UNIT of its records, its arbitration and the run that ends
now. -/
structure Trial where
  k : Nat
  u : Nat
  no : Nat
  a : Arb
  x : LCtx
  deriving DecidableEq, Repr

/-- Page of the array unit that ran the pass (R500). -/
def Trial.page (z : Trial) : Nat := pgARY (z.k / 48) (z.k % 48)

/-- A record about the pass at the tile that ran it (R291). -/
def Trial.frec (z : Trial) (code : Nat) : FRec := (z.x.frec code 5 z.u (nth 0xFFFF 0 z.x.l.d)).at z.k z.x.lt

/-- A run is accepted: its record, and the pass may commit with that run's flags (R388). -/
def State.acceptRun (s : State) (z : Trial) (code s2 s3 peer : Nat) (fl : Flags) : State :=
  let s := s.event z.page { z.frec code with
    c0 := z.a.s1 % 2 ^ 32, c1 := s2 % 2 ^ 32, c2 := s3 % 2 ^ 32, c3 := peer, c4 := z.a.runs + 1 }
  let s := if code = 0x0504 then s.transient z.k else s.tileSuspect z.k
  (s.modArb z.k z.x.c z.no fun r => { r with arb := none, flags := if r.no = 0 then r.flags else fl }).popColl (z.k / 48)

/-- No agreement: the original tile is quarantined and the step is lost (R388, R395, R402). -/
def State.noAgreement (s : State) (z : Trial) : State :=
  let s := s.popColl (z.k / 48)
  let s := s.event z.page { z.frec 0x0509 with c0 := z.k / 48 * 64 + z.k % 48, c1 := (s.role z.k).lt, c2 := 1 }
  (s.tileQuarantine z.k).stepLost z.page z.x.c (z.frec 0x0508) 1

/-- The decision after a run (R388): `m` is what the run's checks report, `sig` its signature, `fl` its flags. A peer run is run 3 (R388,
R403). -/
def State.decideRun (s : State) (z : Trial) (m : Option Mis) (sig : Nat) (fl : Flags) : State :=
  let s := match m with
    | some m => s.event z.page (z.x.chkRec m z.u (if z.a.peer.isSome then 3 else 2))
    | none => s
  let s := s.countEvent z.page
  match z.a.peer, m with
  | none, none => s.acceptRun z 0x0504 sig 0 0 fl
  | none, some _ => s.modArb z.k z.x.c z.no fun r => { r with arb := some { z.a with peer := some (s.peerOf z.k), s2 := sig, runs := z.a.runs + 1 } }
  | some p, none =>
    if sig = z.a.s1 then s.acceptRun z 0x0505 z.a.s2 sig (p % 48) fl
    else if sig = z.a.s2 then s.acceptRun z 0x0506 z.a.s2 sig (p % 48) fl
    else s.noAgreement z
  | some _, some _ =>
    if sig = z.a.s1 ∨ sig = z.a.s2 then (s.popColl (z.k / 48)).askReplay z.page z.x.c (z.frec 0x0507) 1
    else s.noAgreement z

/-- The tile that performs a run is lost: reported so, or no longer of use (R393, R414). -/
def State.runnerLost (s : State) (on : Nat) (lost : Bool) : Bool := lost || decide ((s.role on).state = 3)

/-- A run that meets poison, a parity error or a lost tile asks for a step replay (R393); weights that it reloads count as read (R389). -/
def State.recoveryFault (s : State) (x : LCtx) (f : Fx) (ups : List Upset) (lost : Bool) : State × Bool :=
  let (s, keys) := s.parityOf x f ups
  (s, s.runnerLost x.on lost || keys != [] || rowParity x ups || decide (s.hits f ≠ []))

/-- Run 2 or 3 of the pass ends (R388). -/
def State.runEnds (s : State) (z : Trial) (ups : List Upset) (lost : Bool) : State :=
  let f := s.fxOf z.x
  let (s, bad) := (s.lineReads f.reads ups).recoveryFault z.x f ups lost
  if bad then (s.popColl (z.k / 48)).askReplay z.page z.x.c (z.frec 0x0507) 5
  else
    let (s, inj) := s.passInject z.x
    let (t, fl) := f.run (ups ++ inj) s
    t.decideRun z (f.mis (ups ++ inj) s) (f.sig t) fl

/-- A busy peer finishes what it runs first (R389). -/
def State.peerBusy (s : State) (on k : Nat) : Bool :=
  decide (on ≠ k) && ((s.tile on).helping.isSome || (s.tile on).running.any fun r => decide (r.unit = .pass ∨ r.unit = .aosp ∨ r.unit = .ald))

/-- COLLIMATOR_DECISION of a C-die: run 2 or 3 of the pass that it serves has ended, or the tile that performs it is
lost (R388, R391, R393). Under a stack halt only the run that was under
way ends (R401); a pause stops the clock of the tile that runs (R32). -/
def execCollimatorDecision (die : Nat) (ups : List Upset) (lost : Bool) (s : State) : Host.Outcome State Fault Refusal :=
  .next (match s.headArb die with
  | none => if (s.die die).collQ = [] then s else s.popColl die
  | some (k, r, a) =>
    let on := a.peer.getD k
    let (d, part) := if r.no = 0 then (match (s.tile k).helping with
      | some (d, b) => (d, some b)
      | none => (k, none)) else (k, none)
    if (s.anyHalt && !(s.die die).runOn) || s.islandStopped on || s.peerBusy on k then s
    else
      (s.modDie die fun z => { z with runOn := false }).runEnds
        ⟨k, if r.opcode = 0x22 then 1 + nth 0 0 (maskBits 4 r.arrays) else 1, r.no, a, s.runCtx d on part r⟩ ups lost)

end Sys2Proof.Machine
end

