-- ==== Sys2Proof/Machine/HostBus.lean ====
section
/-! DEFINITION. The PCI Express endpoint: BAR2 (R437), failed reads of host memory (R438), MSI-X hold-off (R450), link loss
(R435) and configuration requests (R493). -/

namespace Sys2Proof.Machine

/-- HST_BAR2_OFF (R452). -/
def State.bar2Off (s : State) : Nat := s.reg64 (pgHST + 0x44)

/-- The bytes of a BAR2 read: the stack's data, all ones beyond the map (R437). -/
def State.bar2Bytes (s : State) (offset len : Nat) : List Byte :=
  (List.range len).map fun i =>
    let a := s.bar2Off + offset + i
    if s.stkHas a then s.stkByte a else 0xFF#8

/-- A poisoned unit is read: the TLP carries the poisoned bit (R437). -/
def State.bar2Poison (s : State) (offset len : Nat) : Bool :=
  (unitsOf (s.bar2Off + offset) len).any fun u => s.stkHas (u * 64) && s.stkPoisoned (u * 64)

/-- The units of stack memory that a BAR2 read reaches are read, through the Reserve cache (R299, R405, R437). -/
def State.bar2Units (s : State) (offset len : Nat) : State :=
  s.readUnits ⟨2, 0, .train⟩ ((unitsOf (s.bar2Off + offset) len).filter fun u => s.stkHas (u * 64))

def execBar2Read (offset len : Nat) (s : State) : Host.Outcome State Fault Refusal :=
  .next (s.access fun s =>
    let s := s.bar2Units offset len
    s.emit (.readData (s.bar2Bytes offset len) (s.bar2Poison offset len)))

/-- A BAR2 write: discarded and counted while any context is armed; bytes beyond the map are not stored (R437). -/
def State.bar2Store (s : State) (offset : Nat) (data : List Byte) : State :=
  if s.anyArmed then s.countEvent pgHST
  else
    let a := s.bar2Off + offset
    let data := data.take (s.mapTop - a)
    (s.stkWrite a data).cacheRange a data.length true

def execBar2Write (offset : Nat) (data : List Byte) (s : State) : Host.Outcome State Fault Refusal :=
  .next (s.access fun s => s.bar2Store offset data)

/-- A device read of a 64-byte unit of host memory completes: a failure is repeated, up to 3 times; the fourth marks the unit
poisoned; a good completion delivers the host's data (R438). -/
def State.hostReadEnd (s : State) (addr : Nat) (ok : Bool) : State :=
  let u := addr / 64
  if ok then { s with host.fails := s.host.fails.drop (· = u), host.poison := eraseNat u s.host.poison }
  else
    let n := s.host.fails.get 0 u + 1
    if n < 4 then { s with host.fails := s.host.fails.set u n }
    else { s with host.fails := s.host.fails.drop (· = u), host.poison := insertNat u s.host.poison }

def execHostReadCompletion (addr : Nat) (ok : Bool) (s : State) : Host.Outcome State Fault Refusal :=
  .next (s.hostReadEnd addr ok)

/-- The end of a vector's hold-off: a held message goes out and starts a new hold-off (R450). -/
def State.holdoffEnd (s : State) (v : Nat) : State :=
  if s.host.msixHold.contains v then
    if s.host.msixDue.contains v then { s with host.msixDue := eraseNat v s.host.msixDue }.msixSend v
    else { s with host.msixHold := eraseNat v s.host.msixHold }
  else s

def execMsixHoldoffEnd (vector : Nat) (s : State) : Host.Outcome State Fault Refusal := .next (s.holdoffEnd vector)

/-- The PCIe link goes down: transfers to host memory stall (R435). -/
def execPcieLinkDown (s : State) : Host.Outcome State Fault Refusal := .next { s with host.linkUp := false }

/-- A configuration request: Request Retry Status until bring-up step 8, then served (R493). -/
def execConfigurationRequest (s : State) : Host.Outcome State Fault Refusal :=
  .next (if s.host.linkUp then s.emit (if s.ready then .configDone else .retryStatus) else s)

end Sys2Proof.Machine
end

