-- ==== Sys2Proof/Machine/Link.lean ====
section
/-! DEFINITION. What the fabric ports receive (R330 to R332, R334, R336 to R342, R512): acceptance, acknowledgement and retry, routing,
messages for this device, retraining. -/

namespace Sys2Proof.Machine

/-! Receiving. -/

/-- One retry request for the expected SEQ, unless one is outstanding (R337). -/
def State.askRetry (s : State) (p : Nat) : State :=
  if (s.port p).retryOpen then s
  else ((s.modPort p fun q => { q with retryOpen := true }).sendBare p 2 (s.port p).rxSeq).incReg (pgLNK p + 0x60)

/-- ACK and credits of an accepted flit, or of one without SEQ (R330, R336). -/
def State.takeHeader (s : State) (p : Nat) (b : List Byte) : State :=
  let a := flitAck b
  let h := flitHdr b
  let s := s.modPort p fun q =>
    let n := match q.replay.findIdx? fun f => flitSeq f.2 = a with
      | some i => i + 1
      | none => 0
    { q with replay := q.replay.drop n, ownAck := q.ownAck + ((q.replay.take n).filter fun f => f.1 = 12).length, credit := modAt (· + field h 30 10) (field h 28 2) q.credit,
             reqCount := if n = 0 then q.reqCount else 0 }
  s.pumpAll p

/-- A whole message of a plan for this device: its data, its poisoned units and, by its source, its member go into staging (R331, R332,
R351). -/
def State.takeMsg (s : State) (p : Nat) (fs : List (List Byte)) : State :=
  let cs := fs.flatMap flitChunks
  let h := MsgHdr.parse (nth ([], false) 0 cs).1
  let body := cs.drop 1
  let data := (body.flatMap (·.1)).take h.length
  let bad := ((List.range body.length).filter fun i => (nth ([], false) i body).2).map fun i => (h.offset + 16 * i) / 64
  s.planFrom p (ctxOfNat h.ctx) h data (sortNat bad)

/-- A flit for this device: those of the plan channels are gathered into their message; the payload leaves the buffer (R334, R351). Messages
of the other channels reach the device as commands of their own (assumption entry 33). -/
def State.takeLocal (s : State) (p : Nat) (b : List Byte) : State :=
  let vc := flitVC b
  let s := s.freeRx p vc b
  if 2 ≤ vc then s
  else
    let fs := (s.port p).parts.get [] vc ++ [b]
    if flitLast b then (s.modPort p fun q => { q with parts := q.parts.drop (· == vc) }).takeMsg p fs
    else s.modPort p fun q => { q with parts := q.parts.set vc fs }

/-- An accepted flit: discarded, taken here, or forwarded by the X-die's table (R339, R341, R342). -/
def State.routeFlit (s : State) (p : Nat) (b : List Byte) : State :=
  let vc := flitVC b
  let dest := flitDest b
  let e := s.fwdEntry (p / 6) dest
  if dest = 0xFFFF then (s.freeRx p vc b).countEvent (pgLNK p)
  else if e < 12 then (s.modPort e fun q => { q with txQueue := q.txQueue ++ [(p, b)] }).pumpAll e
  else if e = 0xE then s.takeLocal p b
  else (s.freeRx p vc b).unroutable p vc dest

/-- A flit accepted in sequence; after 64 of them an ACK returns at once (R336, R337). -/
def State.acceptFlit (s : State) (p : Nat) (b : List Byte) : State :=
  let s := s.modPort p fun q =>
    { q with rxSeq := seqNext q.rxSeq, retryOpen := false, ackedIn := q.ackedIn + 1, rxBuf := q.rxBuf ++ [b] }.ask (flitVC b)
  let s := ((s.incReg64 (pgLNK p + 0x58) 1).takeHeader p b).routeFlit p b
  if 64 ≤ (s.port p).ackedIn then s.sendBare p 1 0 else s

/-- Flits from `seq` onward again, in order (R337). -/
def State.resend (s : State) (p seq : Nat) : State :=
  let q := s.port p
  match q.replay.findIdx? fun f => flitSeq f.2 = seq with
  | some i => (q.replay.drop i).foldl (fun s f => s.putFlit p f.2) s
  | none => s

/-- A port retrains: LINK_RETRAIN (R338, R512). -/
def State.retrain (s : State) (p : Nat) : State :=
  let a := pgLNK p + 0x40
  let s := (s.modPort p fun q => { q with state := 1, reqCount := 0, fails := 0 }).setRegField a 16 16 (s.regField a 16 16 + 1)
  s.event (pgLNK p) { code := 0x0401, die := 8 + p / 6, c0 := p, c2 := s.devId }

/-- The neighbour asks for SEQ (R337); the 16th request for one SEQ retrains the port (R338). -/
def State.retryFor (s : State) (p seq : Nat) : State :=
  let q := s.port p
  let n := if q.reqSeq = seq then q.reqCount + 1 else 1
  let s := s.modPort p fun q => { q with reqSeq := seq, reqCount := n }
  if 16 ≤ n then s.retrain p else s.resend p seq

/-- FLIT_RECEIVE (R330, R337). -/
def State.flitIn (s : State) (p : Nat) (b : List Byte) (fec : FecEnd) : State :=
  let s := match fec with
    | .clean => s
    | .corrected => s.incReg (pgLNK p + 0x64)
    | .uncorrectable => s.incReg (pgLNK p + 0x68)
  if fec = .uncorrectable ∨ flitOk b = false then s.askRetry p
  else if flitKind b = 1 then s.takeHeader p b
  else if flitKind b = 2 then (s.takeHeader p b).retryFor p (flitSeq b)
  else if flitKind b = 3 then s
  else
    let q := s.port p
    if flitSeq b = q.rxSeq then s.acceptFlit p b
    else if (q.rxSeq + 4095 - flitSeq b) % 4096 < 1152 then s
    else s.askRetry p

/-- The port is up and its X-die powered: in A2 a flit wakes the link, and the X-dies still forward (R328, R487). -/
def State.portUp (s : State) (p : Nat) : Bool := decide ((s.port p).state = 2) && decide (s.sys.pstate < 3)

def execFlitReceive (port : Nat) (bytes : List Byte) (fec : FecEnd) (s : State) : Host.Outcome State Fault Refusal :=
  .next (if s.portUp port then s.flitIn port bytes fec else s)

def execRetryRequest (port seq : Nat) (s : State) : Host.Outcome State Fault Refusal :=
  .next (if s.portUp port then s.retryFor port (seq % 4096) else s)

/-- 5 µs without the SEQ asked for: the request again (R337). -/
def execRetryRequestTimer (port : Nat) (s : State) : Host.Outcome State Fault Refusal :=
  .next (if s.portUp port && (s.port port).retryOpen then
    (s.sendBare port 2 (s.port port).rxSeq).incReg (pgLNK port + 0x60) else s)

/-- An ACK on an idle flit where one, or a credit, is due (R334, R336). -/
def execAckTimer (port : Nat) (s : State) : Host.Outcome State Fault Refusal :=
  .next (if s.portUp port && (decide ((s.port port).ackedIn ≠ 0) || (s.port port).owed.any (· ≠ 0)) then s.sendBare port 1 0 else s)

/-- LINK_RETRAIN: no ACK has advanced for 100 µs while flits are unacknowledged (R338). -/
def execLinkRetrain (port : Nat) (s : State) : Host.Outcome State Fault Refusal :=
  .next (if s.portUp port && decide ((s.port port).replay ≠ []) then s.retrain port else s)

/-- Retraining ends: the replay buffer goes out again, or the third failure takes the port down (R329, R338). -/
def execLinkRetrainComplete (port : Nat) (ok : Bool) (s : State) : Host.Outcome State Fault Refusal :=
  .next (if (s.port port).state = 1 then
    if ok then
      let s := s.modPort port fun q => { q with state := 2, fails := 0 }
      let s := match (s.port port).replay with
        | f :: _ => s.resend port (flitSeq f.2)
        | [] => s
      s.pumpAll port
    else
      let n := (s.port port).fails + 1
      let s := s.modPort port fun q => { q with fails := n }
      if 3 ≤ n then s.portDown port else s
  else s)

end Sys2Proof.Machine
end

