-- ==== Sys2Proof/Machine/Update.lean ====
section
/-! DEFINITION. Update engines (R198, R202 to R205, R392, R398): one update record applied to the shard whose gradient has
arrived. -/

namespace Sys2Proof.Machine

/-- An update record (R202). -/
structure URec where
  opt : Nat
  nesterov : Bool
  hasWork : Bool
  master : Nat
  m : Nat
  v : Nat
  work : Nat
  lr : Nat
  scal : Nat
  plan : Nat
  beta1 : Nat
  c1 : Nat
  beta2 : Nat
  c2 : Nat
  eps : Nat
  wd : Nat
  gscale : Nat
  deriving DecidableEq, Repr

def URec.parse (b : List Byte) : URec :=
  { opt := bField b 0 1, nesterov := bitAt (bField b 1 1) 0, hasWork := bitAt (bField b 1 1) 1, master := bField b 2 2, m := bField b 4 2,
    v := bField b 6 2, work := bField b 8 2, lr := bField b 0xA 2, scal := bField b 0xC 2, plan := bField b 0xE 2,
    beta1 := bField b 0x10 4, c1 := bField b 0x14 4, beta2 := bField b 0x18 4, c2 := bField b 0x1C 4, eps := bField b 0x20 4,
    wd := bField b 0x24 4, gscale := bField b 0x28 4 }

/-- The record of local index j. -/
def State.urec (s : State) (c : Ctx) (j : Nat) : URec := URec.parse (s.constBytes c j)

/-- Scalars of a step (R203). -/
structure UScal where
  lr : Nat
  k : Nat
  p1 : Nat
  p2 : Nat
  a : Nat
  r : Nat
  deriving DecidableEq, Repr

def URec.scalars (u : URec) (lr P1 P2 : Nat) : UScal :=
  let p1 := fmul P1 u.beta1
  let p2 := fmul P2 u.beta2
  { lr := lr, k := fmul lr u.wd, p1 := p1, p2 := p2, a := fdiv lr (fsub one32 p1), r := fsqrt (fsub one32 p2) }

/-- One element (R203): (w1, m1, v1) from (w, m, v) and the delivered gradient. -/
def URec.element (u : URec) (z : UScal) (w m v grad : Nat) : Nat × Nat × Nat :=
  let g := fmul grad u.gscale
  if u.opt = 0 then
    let g := if isZero32 u.wd then g else ffma u.wd w g
    let m1 := ffma u.beta1 m g
    let d := if u.nesterov then ffma u.beta1 m1 g else m1
    (ffma (fneg z.lr) d w, m1, 0)
  else if u.opt = 1 then
    let m1 := ffma u.beta1 m (fmul u.c1 g)
    let v1 := ffma u.beta2 v (fmul u.c2 (fmul g g))
    let q := fdiv m1 (fadd (fdiv (fsqrt v1) z.r) u.eps)
    (ffma (fneg z.a) q (ffma (fneg z.k) w w), m1, v1)
  else
    let cc := ffma u.beta1 m (fmul u.c1 g)
    let sg := if isNan32 cc then nan32 else if fgt cc 0 then one32 else if fgt 0 cc then fneg one32 else 0
    (ffma (fneg z.lr) sg (ffma (fneg z.k) w w), ffma u.beta2 m (fmul u.c2 g), 0)

/-- Tensors that the record reads in the committed bank, with the elements read: the learning-rate element first. -/
def State.updReads (s : State) (v : Env) (u : URec) (n : Nat) : List Acc :=
  let d := s.desc v.c u.lr
  let all (j : Nat) : Acc := ⟨v, j, s.desc v.c j, List.range (s.desc v.c j).count⟩
  ⟨v, u.lr, d, [min (n - 1) (d.e 0 - 1)]⟩ ::
    ((if u.opt = 1 then [all u.scal] else []) ++ [all u.master, all u.m] ++ (if u.opt = 1 then [all u.v] else []))

/-- Pairs that the record writes in the uncommitted bank, the scales of an MX working copy with them. -/
def State.updWrites (s : State) (v : Env) (u : URec) : List Nat :=
  [u.master, u.m] ++ (if u.opt = 1 then [u.v, u.scal] else []) ++
    (if u.hasWork then u.work :: (if (s.desc v.c u.work).isMX then [(s.desc v.c u.work).scale % 65536] else []) else [])

/-- A write that a drain or copy holds back (R368). -/
def State.holdPairs (s : State) (w : Env) (js : List Nat) : State × Bool :=
  js.foldl (fun (acc : State × Bool) j =>
    let d := s.desc w.c j
    let r := acc.1.holdWrite (w.space d) (((d.base + w.off d : Nat) : Int) + d.footLo).toNat d.footLen
    (r.1, acc.2 || r.2)) (s, false)

/-- A record of an update engine (R291, R403): UNIT 7, CAT the update record or the tensor. -/
def updRec (c : Ctx) (code e cat step : Nat) : FRec :=
  { code := code, ctx := c.num, die := 4 + e / 8, unit := 7, cat := cat, step := step }

/-- Elements written to a pair of the uncommitted bank by update record `r`, with its flags (R205, R206). -/
def State.updStore (s : State) (w : Env) (r j : Nat) (vals : List Nat) : State :=
  let d := s.desc w.c j
  let (s, f) := s.writeEls w d (((List.range vals.length).zip vals).map fun e => { lin := e.1, val := e.2, snd := d.lone : OutEl })
  s.raiseFlags w.c (f.at' j r)

/-- The record applied (R203). -/
def State.updApply (s : State) (v : Env) (u : URec) (g : Grad) : State :=
  let w : Env := { v with bankB := !v.bankB }
  let dm := s.desc v.c u.master
  let at' (j l : Nat) : Nat := s.elF32 v (s.desc v.c j) l
  let dl := s.desc v.c u.lr
  let z := u.scalars (s.elF32 v dl (min (v.n - 1) (dl.e 0 - 1))) (if u.opt = 1 then at' u.scal 0 else 0) (if u.opt = 1 then at' u.scal 1 else 0)
  let els := ((List.range dm.count).zip g.grad).map fun e =>
    u.element z (at' u.master e.1) (at' u.m e.1) (if u.opt = 1 then at' u.v e.1 else 0) e.2
  let s := s.updStore w g.record u.master (els.map (·.1))
  let s := s.updStore w g.record u.m (els.map (·.2.1))
  let s := if u.opt = 1 then s.updStore w g.record u.v (els.map (·.2.2)) else s
  let s := if u.hasWork then s.updStore w g.record u.work (els.map (·.1)) else s
  let s := if u.opt = 1 && dm.gidx 0 == 0 then s.updStore w g.record u.scal [z.p1, z.p2] else s
  s.incReg64 (pgUPD g.engine + 0x44) els.length

/-- Poison of the committed reads kills the context, a poisoned gradient asks for a step replay (R398, R400). -/
def State.updPoison (s : State) (v : Env) (u : URec) (g : Grad) : Option State :=
  let page := pgUPD g.engine
  match ((s.updReads v u v.n).flatMap fun a => (s.poisonOf a.v a.d a.lins).map fun p => (a, p)).head? with
  | some (a, unit, lin) =>
    some (s.killHw page v.c { updRec v.c 0x050B g.engine a.cat v.n with
      c0 := unit * 64 % 2 ^ 32, c1 := unit * 64 / 2 ^ 32, c2 := a.d.space, c3 := lin % 2 ^ 32, c4 := lin / 2 ^ 32 })
  | none => if g.poisoned then some (s.askReplay page v.c (updRec v.c 0x0507 g.engine g.record v.n) 4) else none

/-- The product check of a run of the shard (R383, R392): an upset, or an injection, which meets one occurrence per element and acts where its
instance is this engine of the M-die (R405; assumption entry 77). -/
def State.updMis (s : State) (u : URec) (g : Grad) (ups : List Upset) : State × Option Mis :=
  let n := g.grad.length
  let lanes := if u.opt = 1 then 16 else 32
  let bad (e lane : Nat) : Mis := ⟨0x0502, e % 2 ^ 32, e / 2 ^ 32, 0, lane⟩
  let (s, hits) := s.injectAt (pgUPD g.engine) 1 n
  (s, (ups.findSome? fun x => match x with
      | .unitF e lane a b bit => if fFP32.prodBad (2 ^ (bit % 48)) a b then some (bad e lane) else none
      | _ => none).or
    (hits.findSome? fun h => if injInst 48 8 h.2 = g.engine % 8 then some (bad h.1 (h.1 % lanes)) else none))

/-- One run of the shard: its reads, the poison that they meet, its check. None where the shard ends here. -/
def State.updRun (s : State) (v : Env) (u : URec) (g : Grad) (ups : List Upset) : State × Option (Option Mis) :=
  let s := s.lineReads (s.updReads v u v.n) ups
  match s.updPoison v u g with
  | some s => (s, none)
  | none => let (s, m) := s.updMis u g ups; (s, some m)

/-- The record applied once a run has passed its check; a mismatch reruns it once, a second asks for a step replay (R392). -/
def State.updShard (s : State) (v : Env) (u : URec) (g : Grad) (ups again : List Upset) : State :=
  let page := pgUPD g.engine
  let chkRec (m : Mis) (n : Nat) : FRec := { updRec v.c m.code g.engine g.record v.n with c0 := m.row, c1 := m.col, c2 := m.slab, c3 := m.block, c4 := n }
  let apply (s : State) : State := let s := s.updApply v u g; { s with fab.grads := s.fab.grads.erase g }
  match s.updRun v u g ups with
  | (s, none) => s
  | (s, some none) => apply s
  | (s, some (some m)) =>
    match ((s.event page (chkRec m 1)).incReg (page + 0x4C)).updRun v u g again with
    | (s, none) => s
    | (s, some (some m)) => (s.event page (chkRec m 2)).askReplay page v.c (updRec v.c 0x0507 g.engine g.record v.n) 3
    | (s, some none) =>
      apply (s.event page { updRec v.c 0x0504 g.engine g.record v.n with
        c0 := Config.runSig s.free % 2 ^ 32, c1 := Config.runSig (s.free + 1) % 2 ^ 32, c4 := 2 }).tick.tick

/-- The update engine has no shard of a context of higher priority (R38). -/
def State.updFree (s : State) (g : Grad) : Bool :=
  s.fab.grads.all fun h => !decide (h.engine = g.engine ∧ h.ctx.num < g.ctx.num) || !s.engineRuns h.ctx

/-- UPDATE_SHARD: the record's shard, once its gradient has arrived and no reader holds the uncommitted bank (R203, R205, R368). -/
def execUpdateShard (c : Ctx) (record : Nat) (ups again : List Upset) (s : State) : Host.Outcome State Fault Refusal :=
  .next (match s.fab.grads.find? fun g => decide (g.ctx = c ∧ g.record = record) with
  | none => s
  | some g =>
    if s.engineRuns c && s.updFree g then
      let v := (s.cxt c).env c 0
      let u := s.urec c record
      match s.holdPairs { v with bankB := !v.bankB } (s.updWrites v u) with
      | (s, true) => s
      | (s, false) => s.updShard v u g ups again
    else s)

end Sys2Proof.Machine
end

