-- ==== Sys2Proof/Machine/Binary.lean ====
section
/-! DEFINITION. The program binary (R46, R529, R530): header and section table of a manifest and of a rank's image, the checks of
their layout, and the image as the checker reads it. -/

namespace Sys2Proof.Machine

/-- A section: TYPE, COUNT, OFFSET, and where its table entry stands. -/
structure Sect where
  ty : Nat
  count : Nat
  off : Nat
  ent : Nat
  deriving DecidableEq, Repr

/-- Two byte ranges, start and end, meet. -/
def spanMeet (a b : Nat × Nat) : Bool := decide (a.1 < b.2) && decide (b.1 < a.2) && decide (a.1 < a.2) && decide (b.1 < b.2)

/-- The header fails its layout: the offset of the first offending field (R529, R530). `who` judges the field at 0x04 and
`flags` is the mask of the bits that FLAGS may hold. -/
def headerBad (b : List Byte) (who : Nat → Bool) (flags : Nat) : Option Nat :=
  ([(decide (bField b 0 4 ≠ 1), 0), (!who (bField b 4 4), 4), (decide (b.length < 0x40 + 16 * bField b 8 4), 8),
    (decide (bField b 0xC 4 / (flags + 1) ≠ 0), 0xC), (decide (bField b 0x10 8 ≠ b.length), 0x10),
    (!zeros ((b.drop 0x18).take 40), 0x18)].find? (·.1)).map (·.2)

/-- The sections of the table. -/
def sectsOf (b : List Byte) : List Sect :=
  (List.range (bField b 8 4)).map fun i =>
    let e := 0x40 + 16 * i
    ⟨bField b e 2, bField b (e + 4) 4, bField b (e + 8) 8, e⟩

/-- Bytes that a section takes. -/
def Sect.span (sizes : List (Nat × Nat)) (t : Sect) : Nat × Nat := (t.off, t.off + t.count * Tbl.get 0 t.ty sizes)

/-- Header and section table. -/
def headSpan (b : List Byte) : Nat × Nat := (0, 0x40 + 16 * bField b 8 4)

/-- The section table fails its layout (R529): an entry's TYPE unknown or repeated, its reserved field, the COUNT of a section of
fixed count, its range; then a missing TYPE. -/
def tableBad (b : List Byte) (sizes : List (Nat × Nat)) (fixed : Nat → Option Nat) : Option Nat :=
  let ss := sectsOf b
  let bad (i : Nat) (t : Sect) : Option Nat :=
    let before := ss.take i
    let sp := t.span sizes
    ([(!(sizes.any (·.1 = t.ty)) || before.any (·.ty = t.ty), t.ent), (decide (bField b (t.ent + 2) 2 ≠ 0), t.ent + 2),
      (match fixed t.ty with
       | some n => decide (t.count ≠ n)
       | none => false, t.ent + 4),
      (decide (t.off % 8 ≠ 0) || decide (b.length < sp.2) ||
        (headSpan b :: before.map (Sect.span sizes)).any (spanMeet sp), t.ent + 8)].find? (·.1)).map (·.2)
  match ((List.range ss.length).zip ss).findSome? fun e => bad e.1 e.2 with
  | some o => some o
  | none => if sizes.all fun e => ss.any (·.ty = e.1) then none else some 8

/-- A section of the table. -/
def sect (b : List Byte) (ty : Nat) : Sect := ((sectsOf b).find? (·.ty = ty)).getD ⟨ty, 0, 0, 0⟩

/-- Offsets of the entries of a section. -/
def entries (b : List Byte) (sizes : List (Nat × Nat)) (ty : Nat) : List Nat :=
  let t := sect b ty
  (List.range t.count).map fun i => t.off + i * Tbl.get 0 ty sizes

/-- Local indices of successive entries rise: the offsets of the entries that do not. -/
def notRising (b : List Byte) : List Nat → List Nat
  | x :: y :: t => if bField b x 2 < bField b y 2 then notRising b (y :: t) else y :: notRising b (y :: t)
  | _ => []

/-! The manifest (R529). -/

def manSizes : List (Nat × Nat) := [(1, 32), (2, 16)]

/-- A TOPOLOGY entry: plan, ALGO, member ranks. -/
structure Topo where
  plan : Nat
  algo : Nat
  ranks : List Nat
  deriving DecidableEq, Repr

def topoOf (m : List Byte) (e : Nat) : Topo :=
  ⟨bField m e 2, bField m (e + 2) 1,
   (List.range (bField m (e + 4) 4)).map fun i => bField m (bField m (e + 8) 8 + 2 * i) 2⟩

def topoBad (m : List Byte) : Option Nat :=
  let es := entries m manSizes 2
  let ss := sectsOf m
  let out := notRising m es
  es.findSome? fun e =>
    let lo := bField m (e + 8) 8
    let sp := (lo, lo + 2 * bField m (e + 4) 4)
    ([(out.contains e, e), (decide (bField m (e + 3) 1 ≠ 0), e + 3),
      (decide (m.length < sp.2) || (headSpan m :: ss.map (Sect.span manSizes)).any (spanMeet sp), e + 8)].find? (·.1)).map (·.2)

/-- First offending field of a manifest. -/
def manifestBad (m : List Byte) : Option Nat :=
  match headerBad m (fun n => decide (1 ≤ n) && decide (n ≤ 16384)) 1 with
  | some o => some o
  | none => match tableBad m manSizes fun ty => if ty = 1 then some (bField m 4 4) else none with
    | some o => some o
    | none => topoBad m

/-! The image (R530). -/

def imgSizes : List (Nat × Nat) :=
  [(0x101, 64), (0x102, 64), (0x103, 16), (0x104, 16), (0x105, 16), (0x106, 16), (0x107, 48)]

/-- The descriptor of a local index in an image. -/
def imgDesc (g : List Byte) (j : Nat) : Desc := Desc.parse (bField g ((sect g 0x102).off + 64 * j) 64)

def boundBad (g : List Byte) (e : Nat) : Option Nat :=
  ([(decide (bField g (e + 0xC) 4 ≠ 0), e + 0xC), (!zeros ((g.drop (e + 0x20)).take 32), e + 0x20)].find? (·.1)).map (·.2)

/-- A DATA entry names, in rising order, a CONST or FROZEN tensor of the image whose bytes lie inside. -/
def dataBad (g : List Byte) : Option Nat :=
  let es := entries g imgSizes 0x103
  let out := notRising g es
  let n := (sect g 0x102).count
  match es.findSome? fun e =>
      let j := bField g e 2
      let d := imgDesc g j
      ([(out.contains e || decide (n ≤ j) || !(d.kind = 1 || d.kind = 4), e), (!zeros ((g.drop (e + 2)).take 6), e + 2),
        (decide (g.length < bField g (e + 8) 8 + d.footLen), e + 8)].find? (·.1)).map (·.2) with
  | some o => some o
  | none =>
    if (List.range n).all fun j =>
        let d := imgDesc g j
        !(d.kind = 1 || d.kind = 4) || es.any fun e => bField g e 2 = j
    then none else some ((sect g 0x103).ent + 4)

def ephBad (g : List Byte) (e : Nat) : Option Nat :=
  ([(decide (bField g (e + 2) 2 ≠ 0), e + 2),
    (decide (g.length < bField g (e + 8) 8 + 32 * bField g (e + 4) 4), e + 8)].find? (·.1)).map (·.2)

/-- Where the boundaries of a split-K record start: the next multiple of 8 after its P indices. -/
def splitBounds (g : List Byte) (e : Nat) : Nat := alignUp (bField g (e + 8) 8 + 2 * bField g (e + 2) 2) 8

def splitBad (g : List Byte) (e : Nat) : Option Nat :=
  let p := bField g (e + 2) 2
  ([(decide (bField g (e + 4) 4 ≠ 0), e + 4),
    (decide (g.length < bField g (e + 8) 8 + 2 * p) || (decide (1 < p) && decide (g.length < splitBounds g e + 8 * (p - 1))),
     e + 8)].find? (·.1)).map (·.2)

def barrierBad (g : List Byte) (seen : List Nat) (e : Nat) : Option Nat :=
  ([(decide (240 < bField g e 1) || seen.contains (bField g e 1), e), (!zeros ((g.drop (e + 1)).take 7), e + 1),
    (decide (bField g (e + 0x28) 8 / 2 ^ 35 ≠ 0), e + 0x28)].find? (·.1)).map (·.2)

def barriersBad (g : List Byte) : Option Nat :=
  let es := entries g imgSizes 0x107
  ((List.range es.length).zip es).findSome? fun e => barrierBad g ((es.take e.1).map fun o => bField g o 1) e.2

/-- First offending field of an image. -/
def imageBad (g : List Byte) : Option Nat :=
  match headerBad g (fun _ => true) 0 with
  | some o => some o
  | none => match tableBad g imgSizes fun ty => if ty = 0x101 then some 1 else none with
    | some o => some o
    | none =>
      [(entries g imgSizes 0x101).findSome? (boundBad g), dataBad g, (entries g imgSizes 0x104).findSome? (ephBad g),
       (entries g imgSizes 0x105).findSome? (fun e => if bField g (e + 4) 4 = 0 then none else some (e + 4)),
       (entries g imgSizes 0x106).findSome? (splitBad g), barriersBad g].findSome? id

/-- A split-K record (R87): result, partition results, boundaries. -/
structure SplitK where
  result : Nat
  parts : List Nat
  bounds : List Nat
  deriving DecidableEq, Repr

/-- The binary as the checker reads it. -/
structure Image where
  n : Nat
  gate : Bool
  digest : Digest
  topo : List Topo
  stackEnd : Nat
  granules : Nat
  winBytes : Nat
  pcostMax : List Nat
  cat : List Nat
  data : List (Nat × List Byte)
  eph : List (Nat × Nat × List Nat)   -- C-die, logical tile, line words, as listed
  buckets : List (Nat × Nat)
  splitk : List SplitK
  barriers : List (Nat × Nat × Nat)
  deriving DecidableEq, Repr

/-- The image of a manifest and a rank's image that have the layout of R529 and R530. -/
def Image.of (m g : List Byte) : Image :=
  let e := (sect g 0x101).off
  { n := bField m 4 4, gate := bitAt (bField m 0xC 4) 0, digest := sha3 m, topo := (entries m manSizes 2).map (topoOf m),
    stackEnd := bField g e 8, granules := bField g (e + 8) 4, winBytes := bField g (e + 0x10) 8,
    pcostMax := (List.range 4).map fun d => bField g (e + 0x18 + 2 * d) 2,
    cat := (entries g imgSizes 0x102).map fun o => bField g o 64,
    data := (entries g imgSizes 0x103).map fun o =>
      let j := bField g o 2
      (j, (g.drop (bField g (o + 8) 8)).take (imgDesc g j).footLen),
    eph := (entries g imgSizes 0x104).map fun o =>
      (bField g o 1, bField g (o + 1) 1,
       (List.range (bField g (o + 4) 4)).map fun i => bField g (bField g (o + 8) 8 + 32 * i) 32),
    buckets := (entries g imgSizes 0x105).map fun o => (bField g o 4, bField g (o + 8) 8),
    splitk := (entries g imgSizes 0x106).map fun o =>
      let p := bField g (o + 2) 2
      ⟨bField g o 2, (List.range p).map fun i => bField g (bField g (o + 8) 8 + 2 * i) 2,
       (List.range (p - 1)).map fun i => bField g (splitBounds g o + 8 * i) 8⟩,
    barriers := (entries g imgSizes 0x107).map fun o => (bField g o 1, bField g (o + 8) 32, bField g (o + 0x28) 8) }

/-- The digest that the manifest lists for a rank (R529). -/
def digestOf (m : List Byte) (rank : Nat) : Digest := (m.drop ((sect m 1).off + 32 * rank)).take 32

/-- The descriptor of a local index, and whether the image has it. -/
def Image.desc (g : Image) (j : Nat) : Desc := Desc.parse (nth 0 j g.cat)
def Image.has (g : Image) (j : Nat) : Bool := decide (j < g.cat.length)

/-- The bytes of a constant tensor of the image. -/
def Image.bytes (g : Image) (j : Nat) : Option (List Byte) := (g.data.find? (·.1 = j)).map (·.2)

/-- The lines of a logical tile, by key die * 64 + logical tile. -/
def Image.linesOf (g : Image) (key : Nat) : List Line :=
  match g.eph.find? fun e => decide (e.1 = key / 64 ∧ e.2.1 = key % 64) with
  | some e => e.2.2.map Line.parse
  | none => []

/-- Keys of the 184 logical tiles, rising. -/
def tileKeys : List Nat := (List.range 4).flatMap fun d => (List.range 46).map (64 * d + ·)

end Sys2Proof.Machine
end

