-- ==== Sys2Proof/Machine/Checker.lean ====
section
/-! DEFINITION. The descriptor checker (R289), stages 2 to 4: partitions and regions (R218, R241), descriptors (R239), lines with
their loops (R255), the fields and operands of each unit's lines (R140, R181, R257, R352), least durations (R274, R281) and
minimum charges (R284). -/

namespace Sys2Proof.Machine

/-- A fault of the checker: its record, without the stage. -/
def ckRec (code : Nat) (cat : Nat := 0xFFFF) : FRec := { code := code, source := 0, unit := 10, cat := cat }

/-- A record that names a logical tile by key (R291). -/
def State.atKey (s : State) (key : Nat) (r : FRec) : FRec :=
  match s.physOf ⟨key / 64, key % 64⟩ with
  | some k => r.at k (key % 64)
  | none => { r with die := if key / 64 < 4 then key / 64 else 0xFF, ltile := if key % 64 < 46 then key % 64 else 0xFF }

/-! Stage 2 (R218, R241). -/

/-- Partitions overlap or reach too far (R218). -/
def State.partBad (s : State) : Bool :=
  allCtx.any fun a => decide (65536 < s.catBase a + s.catSize a) || decide (65535 < s.catSize a) ||
    allCtx.any fun b => a != b && meet (s.catBase a) (s.catSize a) (s.catBase b) (s.catSize b)

/-- Regions of two contexts of a die overlap, or one passes line 16,383 (R241). -/
def State.regionBad (s : State) (d : Nat) : Bool :=
  allCtx.any fun a => decide (16384 < s.ephBase d a + s.ephSize d a) ||
    allCtx.any fun b => b != a && meet (s.ephBase d a) (s.ephSize d a) (s.ephBase d b) (s.ephSize d b)

/-- The first breach of stage 2. -/
def State.stage2 (s : State) (c : Ctx) (g : Image) : Option FRec :=
  if s.partBad then some (ckRec 0x0209)
  else if (List.range 4).any s.regionBad then some (ckRec 0x0265)
  else match g.eph.find? fun e => decide (e.1 < 4 ∧ s.ephSize e.1 c < e.2.2.length) with
    | some e => some (s.atKey (64 * e.1 + e.2.1) (ckRec 0x0265))
    | none =>
      if (List.range 4).any fun d => s.ephSize d c = 0 then some (ckRec 0x0265)
      else match g.eph.find? fun e => decide (3 < e.1 ∨ 45 < e.2.1) with
        | some e => some { ckRec 0x0265 with die := if e.1 < 4 then e.1 else 0xFF }
        | none => match tileKeys.find? fun k => decide (1 < (g.eph.filter fun e => 64 * e.1 + e.2.1 = k).length) with
          | some k => some (s.atKey k (ckRec 0x0265))
          | none => (tileKeys.find? fun k => !(g.eph.any fun e => 64 * e.1 + e.2.1 = k)).map fun k => s.atKey k (ckRec 0x0265)

/-! Stage 3: descriptors (R220 to R232, in the order of R239). -/

/-- Formats with a row in R97. -/
def ovfRow (f : Nat) : Bool := [3, 4, 7, 8, 0xA, 0xB].contains f

/-- The SCALE field breaks R78, R220 or R221. -/
def Desc.scaleBad (d : Desc) : Bool :=
  if d.fmt = 3 ∨ d.fmt = 4 then decide (d.scale / 2 ^ 23 = 0 ∨ 0xFE < d.scale / 2 ^ 23)
  else if d.isMX then decide (65536 ≤ d.scale)
  else if d.fmt = 1 then
    decide (32 ≤ d.scale) || decide (d.scale < 2) || decide (24 < d.scale) || decide (d.scale = 8) || decide (d.scale = 16)
  else decide (d.scale ≠ 0)

/-- FILL holds bits above the element's width (R224). -/
def Desc.fillBad (d : Desc) : Bool :=
  if d.fmt = 9 ∨ d.fmt = 0xB ∨ d.fmt = 0xD ∨ d.fmt = 0xE then false else decide (2 ^ d.elBits ≤ d.fill)

/-- Reserved bits of the descriptor (R220). -/
def Desc.rsvBad (d : Desc) : Bool :=
  decide (field (recField d.word 1 1) 6 2 ≠ 0) || decide (field (recField d.word 0xD 3) 20 4 ≠ 0)

/-- Reserved codes and modes (R221 to R223). -/
def Desc.codeBad (d : Desc) : Bool :=
  decide (0xF < d.fmt) || decide (6 < d.kind) || decide (3 < d.space) || decide (field d.modes 2 2 = 3) ||
    decide (field d.modes 4 2 = 3) || decide (field d.modes 11 2 = 3)

/-- DESC_FORMAT (R220 to R225, R229). -/
def Image.descFormat (g : Image) (d : Desc) : Bool :=
  d.rsvBad || d.codeBad || (bitAt d.modes 10 && d.fmt != 2) ||
    (if d.isMX then decide (d.rank ≤ d.mxAxis) else decide (d.mxAxis ≠ 0)) ||
    (decide (field d.modes 4 2 ≠ 0) && !ovfRow d.fmt) || decide (2 ^ 30 ≤ recField d.word 0x3C 4) || d.scaleBad || d.fillBad ||
    (d.isMX && g.has (d.scale % 65536) && (g.desc (d.scale % 65536)).fmt != 0xC)

/-- DESC_SHAPE (R220, R229). -/
def Image.descShape (g : Image) (d : Desc) : Bool :=
  !(decide (1 ≤ d.rank) && decide (d.rank ≤ 5)) ||
    ((List.range 5).any fun i => decide (d.e i = 0) || (decide (d.rank ≤ i) && (decide (d.e i ≠ 1) || decide (d.s i ≠ 0)))) ||
    (d.isMX && g.has (d.scale % 65536) &&
      decide ((g.desc (d.scale % 65536)).ext ≠ modAt (fun e => ceilDiv e 32) d.mxAxis d.ext))

/-- Multiple that BASE must be of (R226, R232). -/
def Desc.align (d : Desc) : Nat := if d.planes = 0 then d.bytes else 64

/-- First byte and end of a tensor's footprint, both banks of a pair (R226, R228); of a stash companion its slot (R225). -/
def Desc.span (d : Desc) : Int × Int :=
  if d.kind = 5 then ((d.base : Int), (d.base + recField d.word 0x10 8 : Nat))
  else
    let lo := (d.base : Int) + d.footLo
    (lo, lo + d.footLen + (if d.kind = 3 then d.bankBytes else 0))

/-- End of a memory space (R222, R292, R296, R302). -/
def State.spaceTop (s : State) (c : Ctx) (sp : Nat) : Nat :=
  if sp = 0 then 0x780000 else if sp = 1 then 0x40000000 else if sp = 2 then s.privBase else s.winSize c

/-- A range of bytes lies in a space: above 0, below the end and, in stacks, apart from the ranges that the map leaves out
(R226, R304). -/
def State.inSpace (s : State) (c : Ctx) (sp : Nat) (lo hi : Int) : Bool :=
  decide (0 ≤ lo) && decide (hi ≤ s.spaceTop c sp) &&
    (decide (sp ≠ 2) || s.mapMode = 0 ||
      (List.range 8).all fun k => s.mapStacks.contains k || decide (hi ≤ (k : Int) * 0xC00000000) ||
        decide (((k + 1 : Nat) : Int) * 0xC00000000 ≤ lo))

/-- DESC_RANGE (R64, R222, R226, R232). -/
def State.descRange (s : State) (c : Ctx) (d : Desc) : Bool :=
  let (lo, hi) := d.span
  decide (d.base % d.align ≠ 0) || !s.inSpace c d.space lo hi ||
    (bitAt d.modes 8 && decide (d.space = 3) && decide (s.winSize c < alignUp hi.toNat 64 + 64))

/-- DESC_SHARD (R231). -/
def Desc.shardBad (d : Desc) : Bool :=
  let a := d.scntA
  let b := d.scntB
  decide (a = 0 ∨ b = 0) || decide (16384 < a * b) || decide (a * b ≤ d.shardNo) ||
    (decide (1 < a) && decide (d.rank ≤ d.sdimA)) || (decide (1 < b) && decide (d.rank ≤ d.sdimB)) ||
    (decide (1 < a) && decide (1 < b) && decide (d.sdimA = d.sdimB)) ||
    (d.isMX && decide (1 < (d.shardOf d.mxAxis).2) && decide (d.e d.mxAxis % 32 ≠ 0)) ||
    decide (2 ^ 64 ≤ d.gext.foldl (· * ·) 1)

/-- DESC_PATH of a descriptor (R232). -/
def Desc.planeBad (d : Desc) : Bool := decide (d.planes ≠ 0) && (decide (1 < (d.s 0).natAbs) || decide (d.space = 3))

/-- CAT_INDEX of a descriptor (R225, R229). -/
def Image.stashRefBad (g : Image) (j : Nat) : Bool :=
  let d := g.desc j
  if bitAt d.modes 9 then
    !(g.has d.stashIdx && (g.desc d.stashIdx).kind = 5) ||
      (List.range j).any fun i => bitAt (g.desc i).modes 9 && (g.desc i).stashIdx = d.stashIdx
  else decide (d.stashIdx ≠ 0xFFFF)
def Image.refBad (g : Image) (j : Nat) : Bool := g.stashRefBad j || ((g.desc j).isMX && !g.has ((g.desc j).scale % 65536))

/-- The fault of a stash companion (R225): its slot lies in SPACE 2. -/
def State.companionFault (s : State) (c : Ctx) (g : Image) (j : Nat) : Option Nat :=
  let d := g.desc j
  if d.rsvBad || d.codeBad || d.fmt != 0xF || d.space != 2 || d.rank != 1 || decide (d.mxAxis ≠ 0) ||
      decide (field d.modes 4 2 ≠ 0) || bitAt d.modes 10 || d.fillBad || decide (recField d.word 0x22 30 ≠ 0) then some 0x0201
  else if !s.inSpace c 2 d.base (d.base + recField d.word 0x10 8 : Nat) then some 0x0203
  else if g.stashRefBad j then some 0x0206
  else none

/-- The first fault of a descriptor in the order of R239. -/
def State.descFault (s : State) (c : Ctx) (g : Image) (j : Nat) : Option Nat :=
  let d := g.desc j
  if d.kind = 5 then s.companionFault c g j
  else if g.descFormat d then some 0x0201
  else if g.descShape d then some 0x0202
  else if s.descRange c d then some 0x0203
  else if d.shardBad then some 0x0204
  else if d.planeBad then some 0x0205
  else if g.refBad j then some 0x0206
  else if d.kind = 6 && d.space != 2 then some 0x0208
  else none

/-! Lines with loops expanded (R255). -/

/-- An execution of a line: its tile's key, local line, ITER, the line with its slots advanced. -/
structure Exe where
  key : Nat
  n : Nat
  iter : Nat
  l : Line
  deriving DecidableEq, Repr

/-- Executions of a tile's lines in issue order, by the sequencer's own rule, up to STEPEND; `fuel` bounds their number. -/
def runLines (key : Nat) (ls : List Line) : Nat → Nat → List LoopFrame → List Exe
  | 0, _, _ => []
  | fuel + 1, n, fs =>
    match ls[n]? with
    | none => []
    | some l =>
      ⟨key, n, loopIter fs, l.advanced (loopAdd fs)⟩ ::
        (if l.op = 3 then [] else if l.op = 1 then runLines key ls fuel (n + 1) (⟨n + 1, n + l.f 0 14, 0, l.f 14 16, l.f 30 16⟩ :: fs)
         else runLines key ls fuel (loopNext n fs).1 (loopNext n fs).2)

/-- Executions allowed on a tile in one step (R255). -/
def exeMax : Nat := 16777216

def exeOf (key : Nat) (ls : List Line) : List Exe := runLines key ls (exeMax + 1) 0 []

/-- Opcodes of R244. -/
def lineOps : List Nat :=
  [0x00, 0x01, 0x02, 0x03, 0x10, 0x20, 0x21, 0x22, 0x23, 0x30, 0x31, 0x32, 0x33, 0x34, 0x35, 0x40, 0x41, 0x42, 0x43, 0x44]

/-- OPCTL bits that a control, transfer or hand-off line may set (R242, R254 to R257, R352). -/
def ctlBits (op : Nat) : Nat :=
  if op = 1 then 46 else if op = 2 then 9 else if op = 0x10 then 17 else if 0x40 ≤ op then 16 else if op = 0 ∨ op = 3 then 0 else 64

/-- Stacks that later lines of the image close (R256). -/
def closedLater (ls : List Line) : Nat := toMask ((ls.filter fun l => l.op = 2 && !l.bit 8).flatMap fun l => maskBits 8 (l.f 0 8))

/-- EPH_LINE of line n (R242 to R244, R254, R256). -/
def ephLineBad (ls : List Line) (n : Nat) (l : Line) : Bool :=
  !lineOps.contains l.op || decide (8 ≤ l.lflags) || decide (l.rsv ≠ 0) ||
    ((l.waits ++ l.posts).any fun r => decide (refKind r = 3) || (decide (refKind r = 0) && decide (refNum r ≠ 0))) ||
    decide (2 ^ ctlBits l.op ≤ l.ctl) || ((decide (l.op = 0) || decide (l.op = 3)) && l.d.any (· ≠ 0xFFFF)) ||
    ((decide (l.op = 3)) != decide (n + 1 = ls.length)) ||
    (decide (l.op = 2) && l.bit 8 && (maskBits 8 (l.f 0 8)).any fun k => !bitAt (closedLater (ls.drop (n + 1))) k)

/-- Loops that line n stands in: the last lines of their bodies. -/
def openLoops (ls : List Line) (n : Nat) : List Nat :=
  (List.range n).filterMap fun i => match ls[i]? with
    | some l => if l.op = 1 && decide (n ≤ i + l.f 0 14) then some (i + l.f 0 14) else none
    | none => none

/-- EPH_LOOP of LOOP line n (R255). -/
def ephLoopBad (ls : List Line) (n : Nat) (l : Line) : Bool :=
  let last := n + l.f 0 14
  let fin := (ls.findIdx? fun x => x.op = 3).getD ls.length
  decide (l.op = 1) &&
    (decide (l.f 14 16 = 0) || decide (l.f 0 14 = 0) || decide (fin < last) || (openLoops ls n).any (fun o => decide (o < last)) ||
      (l.posts.any (· ≠ 0)) || decide (2 ≤ (openLoops ls n).length))

/-- The first line whose own fields fault: line and code. -/
def fieldFault (ls : List Line) : Option (Nat × Nat) :=
  if ls = [] then some (0xFFFF, 0x0260)
  else ((List.range ls.length).zip ls).findSome? fun e =>
    if ephLineBad ls e.1 e.2 then some (e.1, 0x0260) else if ephLoopBad ls e.1 e.2 then some (e.1, 0x0266) else none

/-- Local indices that an execution names: its slots, and the plan of a hand-off line. -/
def Exe.names (e : Exe) : List Nat := named e.l.d ++ (if 0x40 ≤ e.l.op then [e.l.f 0 16] else [])

/-- Descriptors of which a tile holds copies: the local indices that its lines name (R219). -/
def namedBy (es : List Exe) : List Nat := sortNat (es.flatMap Exe.names)

/-- Copies that a tile holds for armed contexts (R219). -/
def State.copiesHeld (s : State) (c : Ctx) (key : Nat) : Nat :=
  (allCtx.map fun b => if b != c && (s.cxt b).armed then
      (match (s.cxt b).prog with
       | some p => p.copies.get 0 key
       | none => 0) else 0).sum

/-- Order within a tile: line, then iteration. -/
def Exe.order (e : Exe) : Nat := e.n * 2 ^ 40 + e.iter

/-- A descriptor's record with the first line that names it, where one does (R239). -/
def State.naming (s : State) (exes : Nat → List Exe) (r : FRec) : FRec :=
  match tileKeys.findSome? fun k => minBy Exe.order ((exes k).filter fun e => e.names.contains r.cat) with
  | some e => s.atKey e.key { r with line := e.n, iter := e.iter }
  | none => r

/-- The first breach of stage 3. -/
def State.stage3 (s : State) (c : Ctx) (g : Image) (exes : Nat → List Exe) : Option FRec :=
  match (List.range g.cat.length).findSome? fun j => (s.descFault c g j).map fun code => s.naming exes (ckRec code j) with
  | some r => some r
  | none => (tileKeys.find? fun k => decide (7424 < (namedBy (exes k)).length + s.copiesHeld c k)).map fun k =>
      s.atKey k (ckRec 0x0207)

/-! Stage 4: operands of lines. -/

/-- The path by which the porter reads an operand (R235): 0 line, 1 exchange, 2 element. -/
def Desc.path (d : Desc) : Nat :=
  if (d.s 0).natAbs ≤ 1 then 0 else if 2 ≤ d.rank ∧ (d.s 1).natAbs = 1 then 1 else 2

/-- Operand class of a pair (R76): 1 plain FP8, 2 MXFP8, 3 MXFP4, 4 BF16, 5 FP16, 0 none. -/
def pairClass (f : Nat) : Nat :=
  if f = 3 ∨ f = 4 then 1 else if f = 5 ∨ f = 6 then 2 else if f = 2 then 3 else if f = 7 then 4 else if f = 8 then 5 else 0

/-- Formats that no conversion reads, or writes (R532). -/
def readRefused (f : Nat) : Bool := f == 0xF
def writeRefused (f : Nat) : Bool := f == 1 || f == 0xC || f == 0xF

/-- What the lines of a tile have loaded before an execution: the load that each bank holds and the sources held for the banks
(R118), the profile in each slot. -/
structure Seen where
  loads : Tbl Exe
  slots : Tbl (BitVec 256)
  held : Tbl Nat
  deriving DecidableEq, Repr

/-- A profile record's words (R119). -/
def Image.profile (g : Image) (j : Nat) : BitVec 256 := BitVec.ofNat 256 (ofBytesLE ((g.bytes j).getD []))

def Seen.after (g : Image) (e : Exe) (z : Seen) : Seen :=
  if e.l.op = 0x20 then
    { z with loads := e.l.loadKeys.foldl (fun t k => t.set k e) z.loads,
             held := e.l.bankKeys.foldl (fun t k => t.set k (e.l.s 0)) z.held }
  else if e.l.op = 0x22 ∧ e.l.bit 48 then { z with held := z.held.drop e.l.bankKeys.contains }
  else if e.l.op = 0x21 then { z with slots := z.slots.set (e.l.f 0 3) (g.profile (e.l.s 0)) }
  else z

/-- A line fault: code and Catalogue index. -/
abbrev LineBad := Nat × Nat

/-- The first condition that holds. -/
def firstOf (l : List (Bool × LineBad)) : Option LineBad := (l.find? (·.1)).map (·.2)

/-- CAT_INDEX of the descriptor slots (R218): a named slot outside the image's entries, or a needed one that names none. -/
def Image.slotBad (g : Image) (l : Line) (need : List Nat) : Option LineBad :=
  (List.range 4).findSome? fun i =>
    let j := l.s i
    if (j ≠ 0xFFFF && !g.has j) || (need.contains i && decide (j = 0xFFFF)) then some (0x0206, j) else none

/-! Array lines (R114, R119, R121, R132, in the row order of R140). -/

/-- Slots that an array line needs. -/
def arrayNeed (l : Line) : List Nat :=
  if l.op = 0x22 then [0, 1] ++ (if l.bit 7 then [2] else []) ++ (if l.bit 15 then [3] else [])
  else if l.op = 0x23 then [0, 1] ++ (if l.bit 5 then [3] else [])
  else [0]

def aldFault (g : Image) (l : Line) : Option LineBad :=
  let j := l.s 0
  let d := g.desc j
  let kd := if l.bit 7 then 0 else 1
  firstOf [(d.fmt == 1, (0x0201, j)), (d.isMX && d.mxAxis != kd, (0x0201, j)), (d.path == 2, (0x0205, j)),
    (decide (l.f 8 8 ≠ 0 ∨ l.f 48 16 ≠ 0 ∨ l.f 0 4 = 0) || (l.bit 4 && decide (l.f 5 2 ≠ 0)), (0x0237, j))]

def aospFault (g : Image) (l : Line) : Option LineBad :=
  firstOf [((g.desc (l.s 0)).fmt == 1, (0x0201, l.s 0)), (decide (8 ≤ l.ctl), (0x0237, l.s 0))]

/-- The expected load of an array of an AMM (R118): for the horizon form the array's last horizon load. -/
def Seen.expect (z : Seen) (l : Line) (a : Nat) : Option Exe :=
  (z.loads.find? (·.1 = if l.bit 4 then 16 + a else bankKey a (l.f 5 2))).map (·.2)

/-- A tensor covers rows and columns of a product (R123). -/
def Desc.covers (d : Desc) (rows cols : Nat) : Bool := decide (rows ≤ d.e 1) && decide (cols ≤ d.e 0)

/-- An output of the output stage has a format that it may not take (R125, R532). -/
def convOutBad (d : Desc) : Option Nat :=
  if writeRefused d.fmt then some 0x0201 else if d.isMX && d.mxAxis != 0 then some 0x0235 else none

/-- Format of D1 under the options (R125). -/
def outBad (d : Desc) (final : Bool) (red : Nat) (comp : Bool) : Option Nat :=
  if red ≠ 0 then (if d.fmt = 0xE then none else some 0x0235)
  else if !final then (if d.fmt = (if comp then 0xD else 9) then none else some 0x0235)
  else convOutBad d

/-- The PRE tensor of a pass, 0xFFFF for none (R119). -/
def preOf (final : Bool) (w : BitVec 256) : Nat :=
  let p := Profile.parse w.toNat
  if final && p.savePre then p.preIdx else 0xFFFF

/-- UINTW in an operand that VCH and VLD do not read, and a profile's vector that no conversion reads: DESC_FORMAT (R221, R532). -/
def Image.opsBad (g : Image) (ops vecs : List Nat) : List (Bool × LineBad) :=
  (ops.map fun j => (g.has j && (g.desc j).fmt == 1, ((0x0201, j) : LineBad))) ++
    vecs.map fun j => (g.has j && ((g.desc j).fmt == 1 || readRefused (g.desc j).fmt), (0x0201, j))

/-- Array operands on the element path: DESC_PATH (R229, R236). -/
def Image.pathBad (g : Image) (ops : List Nat) : List (Bool × LineBad) := ops.map fun j => (g.has j && (g.desc j).path == 2, (0x0205, j))

/-- Profile in use by a pass, none for a pass without output stage. -/
def Seen.prof (z : Seen) (l : Line) : Option (BitVec 256) :=
  if l.op = 0x22 ∧ l.bit 9 then some (z.slots.get 0#256 (l.f 10 3))
  else if l.op = 0x23 then some (z.slots.get 0#256 (l.f 0 3)) else none

/-- Tensors that a profile reads: its vectors (R120). -/
def profVectors (w : BitVec 256) : List Nat := (Profile.parse w.toNat).vectors

/-- The vectors of the profile in use. -/
def Seen.vecs (z : Seen) (l : Line) : List Nat := match z.prof l with
  | some w => profVectors w
  | none => []

def ammFault (g : Image) (z : Seen) (l : Line) : Option LineBad :=
  let j0 := l.s 0
  let d0 := g.desc j0
  let d1 := g.desc (l.s 1)
  let d2 := g.desc (l.s 2)
  let rows := d0.e 1
  let form := l.f 4 1
  let final := l.bit 9
  let comp := l.bit 8
  let acc := l.bit 7
  let red := l.f 13 2
  let exps := l.arrays.map fun a => (a, z.expect l a)
  let known := exps.filterMap fun e => match e.2 with
    | some x => if g.has (x.l.s 0) then some (e.1, x.l, g.desc (x.l.s 0)) else none
    | none => none
  let cov := known.foldl (fun m e =>
    let lo := 64 * l.f 32 16 + e.1 * formWidth form
    let n := e.2.2.weightN (e.2.1.bit 7)
    if lo < n then max m (min (lo + formWidth form) n) else m) 0
  let pre := preOf final (z.slots.get 0#256 (l.f 10 3))
  let ops := [j0, l.s 1] ++ (if acc then [l.s 2] else []) ++ (if l.bit 15 then [l.s 3] else []) ++ (if g.has pre then [pre] else [])
  firstOf <| g.opsBad ops (z.vecs l) ++ [(d0.isMX && d0.mxAxis != 0, (0x0201, j0))] ++ g.pathBad ops ++
    [(decide (rows = 0) || decide ((if form = 1 then 16384 else 65536) < rows), (0x0230, j0)),
     (pairClass d0.fmt == 0 || known.any (fun e => pairClass e.2.2.fmt != pairClass d0.fmt), (0x0231, j0)),
     (decide (d0.e 0 ≤ 64 * l.f 16 16) || known.any (fun e =>
       min 64 (e.2.2.weightK (e.2.1.bit 7) - 64 * e.2.1.f 16 16) != min 64 (d0.e 0 - 64 * l.f 16 16)), (0x0232, j0)),
     (!d1.covers rows (if red = 0 then cov else if d1.rank ≤ 1 then 0 else 1) && !(red ≠ 0 && d1.rank ≤ 1 && decide (rows ≤ d1.e 0)),
       (0x0232, l.s 1)),
     (acc && !d2.covers rows cov, (0x0232, l.s 2)),
     (g.has pre && !(g.desc pre).covers rows cov, (0x0232, pre)),
     (exps.any (fun e => match e.2 with
       | some x => x.l.f 4 1 != form || x.l.f 16 16 != l.f 16 16 || x.l.f 32 16 != l.f 32 16
       | none => true), (0x0233, j0)),
     ((outBad d1 final red comp).isSome, ((outBad d1 final red comp).getD 0, l.s 1)),
     (g.has pre && (convOutBad (g.desc pre)).isSome, ((convOutBad (g.desc pre)).getD 0, pre)),
     (acc && d2.fmt != (if comp then 0xD else 9), (0x0235, l.s 2)),
     (final && !(z.slots.any (·.1 = l.f 10 3)), (0x0236, j0)),
     (decide (2 ^ 49 ≤ l.ctl ∨ l.f 0 4 = 0 ∨ red = 3) || (l.bit 4 && decide (l.f 5 2 ≠ 0)) || (decide (red ≠ 0) && !final), (0x0237, j0)),
     (l.bit 15 && ((g.desc (l.s 3)).fmt != 0 || (g.desc (l.s 3)).count != rows), (0x0238, l.s 3))]

def aoutFault (g : Image) (z : Seen) (l : Line) : Option LineBad :=
  let j0 := l.s 0
  let d0 := g.desc j0
  let d1 := g.desc (l.s 1)
  let rows := d0.e 1
  let red := l.f 3 2
  let pre := preOf true (z.slots.get 0#256 (l.f 0 3))
  let ops := [j0, l.s 1] ++ (if l.bit 5 then [l.s 3] else []) ++ (if g.has pre then [pre] else [])
  firstOf <| g.opsBad ops (z.vecs l) ++ g.pathBad ops ++
    [(decide (rows = 0 ∨ 65536 < rows * ceilDiv (d0.e 0) 256), (0x0230, j0)),
     (!d1.covers rows (if red = 0 then d0.e 0 else if d1.rank ≤ 1 then 0 else 1) && !(red ≠ 0 && d1.rank ≤ 1 && decide (rows ≤ d1.e 0)),
       (0x0232, l.s 1)),
     (g.has pre && !(g.desc pre).covers rows (d0.e 0), (0x0232, pre)),
     (d0.fmt != (if l.bit 6 then 0xD else 9), (0x0235, j0)),
     ((outBad d1 true red false).isSome, ((outBad d1 true red false).getD 0, l.s 1)),
     (g.has pre && (convOutBad (g.desc pre)).isSome, ((convOutBad (g.desc pre)).getD 0, pre)),
     (!(z.slots.any (·.1 = l.f 0 3)), (0x0236, j0)), (decide (2 ^ 7 ≤ l.ctl ∨ red = 3), (0x0237, j0)),
     (l.bit 5 && ((g.desc (l.s 3)).fmt != 0 || (g.desc (l.s 3)).count != rows), (0x0238, l.s 3))]

/-! Vector lines (R148, R152, R160 to R168, R171, R174, R177, in the row order of R181). -/

/-- Operands that a stage type takes, its unit (0 F, 1 T, 2 C, 3 G, 4 R) and latency (R153). -/
def stageRow (ty : Nat) : Option (Nat × Nat × Nat) :=
  if ty = 0x02 then some (2, 0, 4) else if ty = 0x03 ∨ ty = 0x04 ∨ ty = 0x0D then some (1, 1, 10)
  else if ty = 0x05 then some (1, 1, 14) else if ty = 0x06 ∨ ty = 0x07 then some (1, 1, 12)
  else if 0x08 ≤ ty ∧ ty ≤ 0x0C then some (1, 1, 8) else if ty = 0x10 then some (1, 0, 4)
  else if ty ≤ 0x0F then some (1, 2, 1)
  else if ty = 0x40 then some (2, 2, 1) else if ty = 0x41 then some (3, 0, 4) else if ty = 0x42 ∨ ty = 0x43 then some (2, 1, 12)
  else if ty = 0x44 then some (2, 0, 4) else if ty = 0x45 then some (2, 1, 14) else if ty = 0x46 then some (2, 1, 20)
  else if ty = 0x47 then some (2, 1, 16)
  else if 0x80 ≤ ty ∧ ty ≤ 0x82 then some (2, 0, 4) else if ty = 0x83 then some (3, 0, 4) else if ty = 0x84 then some (2, 1, 12)
  else if 0x85 ≤ ty ∧ ty ≤ 0x89 then some (2, 2, 1) else if ty = 0x8A then some (3, 2, 1) else if ty = 0x8B then some (1, 2, 2)
  else if ty = 0x8C then some (3, 3, 2) else if 0xC0 ≤ ty ∧ ty ≤ 0xC4 then some (1, 4, 12)
  else none

/-- Operand codes of R151. -/
def operandCode (x : Nat) : Bool :=
  (decide (1 ≤ x) && decide (x ≤ 5)) || (decide (0x10 ≤ x) && decide (x ≤ 0x17)) || (decide (0x20 ≤ x) && decide (x ≤ 0x3F))

def Stage.ops (g : Stage) : List Nat := [g.a, g.b, g.c]

/-- A stage of a record breaks R152, R157, R158 or R168. -/
def stageBad (l : Line) (n i : Nat) (g : Stage) : Bool :=
  match stageRow g.ty with
  | none => true
  | some (k, unit, _) =>
    (g.ops.drop k).any (· ≠ 0) || (g.ops.take k).any (fun x => !operandCode x || (decide (x = 5) && decide (i = 0)) ||
      (decide (0x10 ≤ x) && decide (x ≤ 0x17) && decide (i ≤ x - 0x10)) || (decide (x = 2) && decide (l.s 1 = 0xFFFF))) ||
    (decide (g.ty = 0x8C) && g.b != 3 && g.b != 4) ||
    (if g.ty = 0x8B then decide (64 ≤ g.param ∨ 4 < g.param % 8 ∨ field g.param 4 2 = 3)
     else if unit = 4 then decide (8 ≤ g.param ∨ i + 1 ≠ n) else decide (g.param ≠ 0))

/-- Beats of a loop nest (R160). -/
def beats (d : Desc) (bf : Bool) : Nat := ceilDiv (d.e 0) (lanesOfMode bf) * d.rows

/-- The chain record of a VCH line, if it is a CONST tensor of 64 bytes (R150). -/
def Image.chain (g : Image) (l : Line) : Option (List Byte × Chain) :=
  match g.bytes (l.s 3) with
  | some b => if (g.desc (l.s 3)).kind = 1 ∧ b.length = 64 then some (b, Chain.parse b) else none
  | none => none

/-- A chain record breaks R152. -/
def Image.chainBad (g : Image) (l : Line) : Bool :=
  match g.chain l with
  | none => true
  | some (b, r) =>
    let n := bField b 0 1
    let outReg := bitAt (bField b 1 1) 1
    decide (4 ≤ bField b 1 1 ∨ 32 ≤ bField b 2 1 ∨ bField b 3 1 ≠ 0 ∨ n = 0 ∨ 8 < n) ||
      ((List.range n).zip r.stages).any (fun e => stageBad l n e.1 e.2) ||
      decide (1 < (r.stages.filter fun x => x.ty = 0x8C).length) ||
      (outReg && (r.redDim.isSome || decide (1 < beats (g.desc (l.s 0)) r.bf))) ||
      ((decide (l.s 2 = 0xFFFF)) != outReg)

/-- Interval of a chain and its latency (R143, R153, R163, R236). -/
def Image.vchTc (g : Image) (l : Line) : Nat :=
  let d0 := g.desc (l.s 0)
  match g.chain l with
  | none => 12 + beats d0 false
  | some (b, r) =>
    let rows := (r.stages.take (bField b 0 1)).filterMap fun x => stageRow x.ty
    let i := (List.range 5).foldl (fun m u => max m (rows.filter fun x => x.2.1 = u).length) 1
    let js := (named ([l.s 0, l.s 1] ++ (if r.outReg then [] else [l.s 2]) ++ [r.mask, r.out2])).filter g.has
    let iv := js.foldl (fun m j =>
      let p := (g.desc j).path
      max m (if p = 1 then 2 * i else if p = 2 then max i (lanesOfMode r.bf / 16) else i)) i
    12 + (rows.map (·.2.2)).sum + beats d0 r.bf * iv

/-- The rows of R181 with DESC_FORMAT before them: the fault whose row comes first. -/
def firstRow (l : List (Bool × LineBad)) : Option LineBad :=
  [0x0206, 0x0201, 0x0241, 0x0242, 0x0245, 0x0246].findSome? fun code => firstOf (l.filter fun e => e.2.1 = code)

/-- A reduce-write output in another format than FP32: VEC_FORMAT (R166, R181). -/
def Image.reduceBad (g : Image) (outs : List Nat) : List (Bool × LineBad) :=
  outs.map fun j => (g.has j && (g.desc j).reduces && (g.desc j).fmt != 9, ((0x0245, j) : LineBad))

def vchFault (g : Image) (l : Line) : Option LineBad :=
  let j0 := l.s 0
  let d0 := g.desc j0
  let j1 := l.s 1
  let j2 := l.s 2
  let d2 := g.desc j2
  let has1 := decide (j1 ≠ 0xFFFF)
  let has2 := decide (j2 ≠ 0xFFFF)
  firstRow <| g.opsBad [l.s 3] [] ++ g.reduceBad [j2] ++
    [(readRefused d0.fmt, (0x0201, j0)), (has1 && readRefused (g.desc j1).fmt, (0x0201, j1)),
     (has1 && decide ((g.desc j1).ext ≠ d0.ext), (0x0241, j1)), (has2 && writeRefused d2.fmt, (0x0201, j2))] ++
    (if g.chainBad l then [] else match g.chain l with
     | none => []
     | some (_, r) =>
       let want := match r.redDim with
         | some x => modAt (fun _ => 1) x d0.ext
         | none => d0.ext
       let masked := decide (r.mask ≠ 0xFFFF)
       let dm := g.desc r.mask
       let two := decide (r.out2 ≠ 0xFFFF)
       let do' := g.desc r.out2
       g.opsBad (named [r.mask, r.out2]) [] ++ g.reduceBad (named [r.out2]) ++ [(masked && !g.has r.mask, (0x0206, r.mask)), (two && !g.has r.out2, (0x0206, r.out2)),
        ((match r.redDim with
          | some x => decide (4 < x) || decide (0xFFFFFFFE < d0.e x)
          | none => false), (0x0241, j0)),
        (has2 && decide (d2.ext ≠ want), (0x0241, j2)), (masked && decide (dm.ext ≠ d0.ext), (0x0241, r.mask)),
        (masked && dm.fmt != 0, (0x0245, r.mask)), (two && has2 && decide (do'.ext ≠ d2.ext), (0x0241, r.out2)),
        (two && do'.fmt != 0xB, (0x0245, r.out2)), (decide (131072 < g.vchTc l), (0x0242, j0))])

/-- VLD and VST (R148). -/
def vregFault (g : Image) (l : Line) : Option LineBad :=
  let j := l.s 0
  let d := g.desc j
  firstRow <| (if l.op = 0x32 then g.reduceBad [j] else []) ++ [((if l.op = 0x32 then writeRefused d.fmt else readRefused d.fmt), (0x0201, j)),
    (d.rank != 1 || decide (d.e 0 = 0) || decide (lanesOfMode (l.bit 5) < d.e 0), (0x0241, j)),
    (decide (64 ≤ l.ctl), (0x0246, j))]

/-- Duration of a softmax line (R173). -/
def vsmxTc (d : Desc) : Nat := 24 + ceilDiv (d.e 0) 128 + 2 * d.rows * ceilDiv (d.e 0) 128

def vsmxFault (g : Image) (l : Line) : Option LineBad :=
  let d0 := g.desc (l.s 0)
  let d1 := g.desc (l.s 1)
  let stats := if l.bit 33 then [l.s 3] else []
  firstRow <| g.opsBad ([l.s 0, l.s 1] ++ (if l.bit 32 then [l.s 2] else []) ++ stats) [] ++ g.reduceBad (l.s 1 :: stats) ++
    [(readRefused d0.fmt, (0x0201, l.s 0)), (writeRefused d1.fmt, (0x0201, l.s 1)),
     (decide (d1.ext ≠ d0.ext), (0x0241, l.s 1)), (d1.isMX && d1.mxAxis != 0, (0x0245, l.s 1)),
     (l.bit 32 && decide ((g.desc (l.s 2)).ext ≠ d0.ext), (0x0241, l.s 2)), (l.bit 32 && (g.desc (l.s 2)).fmt != 0, (0x0245, l.s 2)),
     (l.bit 33 && decide ((g.desc (l.s 3)).ext ≠ modAt (fun _ => 1) 0 d0.ext), (0x0241, l.s 3)),
     (l.bit 33 && (g.desc (l.s 3)).fmt != 0xD, (0x0245, l.s 3)), (decide (2 ^ 34 ≤ l.ctl), (0x0246, l.s 0)),
     (decide (131072 < vsmxTc d0), (0x0242, l.s 0))]

/-- Least duration of a gather or the duration of a scatter (R176, R178, R281). -/
def idxTc (g : Image) (l : Line) : Nat :=
  let d0 := g.desc (l.s 0)
  let di := g.desc (l.s 1)
  let n := di.e 0
  let sz := d0.sliceBytes (l.f 0 3)
  if l.op = 0x34 then
    let miss := if field di.modes 2 2 = 1 then 0 else if 4096 < sz then n else 1
    16 + (n + miss) * ceilDiv sz 512
  else 16 + ceilDiv n 128 + n * ceilDiv sz 512 * (if l.f 3 2 = 1 then 2 else 1)

/-- VGTH and VSCT (R174, R177). -/
def idxFault' (g : Image) (l : Line) : Option LineBad :=
  let gather := decide (l.op = 0x34)
  let tj := if gather then l.s 0 else l.s 2
  let sj := if gather then l.s 2 else l.s 0
  let tab := g.desc tj
  let sl := g.desc sj
  let di := g.desc (l.s 1)
  let dim := l.f 0 3
  firstRow <| g.opsBad [l.s 0, l.s 1] [] ++ g.reduceBad [l.s 2] ++
    [(readRefused (g.desc (l.s 0)).fmt, (0x0201, l.s 0)), (writeRefused (g.desc (l.s 2)).fmt, (0x0201, l.s 2)), (di.rank != 1, (0x0241, l.s 1)),
     (decide (tab.rank ≤ dim), (0x0241, tj)), (decide (sl.ext ≠ modAt (fun _ => di.e 0) dim tab.ext), (0x0241, sj)),
     (di.fmt != 0xB, (0x0245, l.s 1)),
     (decide (2 ^ (if gather then 3 else 5) ≤ l.ctl) || (!gather && decide (l.f 3 2 = 3)), (0x0246, l.s 0)),
     (decide (131072 < idxTc g l), (0x0242, l.s 0))]

/-! PMOV (R257). -/

def pmovFault (g : Image) (l : Line) : Option LineBad :=
  let d0 := g.desc (l.s 0)
  let d1 := g.desc (l.s 1)
  let dest := l.f 0 8
  firstOf
    [(d0.fmt == 1, (0x0201, l.s 0)), (d1.fmt == 1, (0x0201, l.s 1)),
     (!d0.sameFormat d1 && (readRefused d0.fmt || writeRefused d1.fmt), (0x0201, l.s 1)),
     (decide (d0.ext ≠ d1.ext), (0x0202, l.s 1)),
     ((d1.space == 0 || l.bit 16) && dest != 0xFF && (decide (3 < dest / 64) || decide (45 < dest % 64)), (0x0260, l.s 1))]

/-! Hand-off lines (R348, R352). -/

/-- A line that a member may issue for a plan (R352). -/
def memberMay (op algo me : Nat) : Bool :=
  if algo = 7 then decide (op = 0x43 + me) else if op = 0x43 ∨ op = 0x44 then false
  else if op = 0x42 then decide (algo = 0 ∨ algo = 6) else if algo = 3 ∧ op = 0x41 then decide (me = 0)
  else if algo = 4 then decide (op = if me = 0 then 0x40 else 0x41) else true

/-- Elements of the tensor that a hand-off line names (R348). -/
def handCount (p : Plan) (op : Nat) : Nat :=
  if op = 0x41 ∧ (p.algo = 0 ∨ p.algo = 6) then p.elems / p.nmemb
  else if op = 0x41 ∧ p.algo = 1 then p.elems * p.nmemb else p.elems

def handNeed (op : Nat) : List Nat :=
  if op = 0x40 ∨ op = 0x43 then [0] else if op = 0x41 ∨ op = 0x44 then [1] else [0, 1]

def handFault (g : Image) (l : Line) : Option LineBad :=
  let pj := l.f 0 16
  let tj := if l.op = 0x41 ∨ l.op = 0x44 then l.s 1 else l.s 0
  let upd := match g.bytes (l.s 1) with
    | some b => l.op == 0x42 && bField b 0xE 2 != pj
    | none => false
  let uintw := g.opsBad ([pj, tj] ++ (if l.op = 0x42 then [l.s 1] else [])) []
  match g.bytes pj with
  | none => firstOf ((!g.has pj, (0x0206, pj)) :: uintw ++ [(upd, (0x0280, l.s 1))])
  | some b =>
    let p := Plan.parse b
    let d := g.desc tj
    firstOf <| uintw ++ [(!memberMay l.op p.algo p.myidx, (0x0280, pj)),
      (d.fmt != p.fmt || d.count != handCount p l.op, (0x0280, tj)), (upd, (0x0280, l.s 1))]

/-- Slots that a line needs. -/
def lineNeed (l : Line) : List Nat :=
  if 0x20 ≤ l.op ∧ l.op ≤ 0x23 then arrayNeed l
  else if l.op = 0x10 then [0, 1] else if l.op = 0x30 then [0, 3] else if l.op = 0x31 ∨ l.op = 0x32 then [0]
  else if l.op = 0x33 then [0, 1] ++ (if l.bit 32 then [2] else []) ++ (if l.bit 33 then [3] else [])
  else if l.op = 0x34 ∨ l.op = 0x35 then [0, 1, 2] else if 0x40 ≤ l.op then handNeed l.op else []

/-- The fault of a line's unit in the order of R289. -/
def unitFault (g : Image) (z : Seen) (l : Line) : Option LineBad :=
  if l.op = 0x20 then aldFault g l else if l.op = 0x21 then aospFault g l else if l.op = 0x22 then ammFault g z l
  else if l.op = 0x23 then aoutFault g z l else if l.op = 0x30 then vchFault g l
  else if l.op = 0x31 ∨ l.op = 0x32 then vregFault g l else if l.op = 0x33 then vsmxFault g l
  else if l.op = 0x34 ∨ l.op = 0x35 then idxFault' g l else if l.op = 0x10 then pmovFault g l
  else if 0x40 ≤ l.op then handFault g l else none

/-! What a line reads and writes, by local index (R229, R238). -/

/-- Indices with the scale tensors of MX tensors among them, each once. -/
def Image.withScales (g : Image) (js : List Nat) : List Nat :=
  ((named js).filter g.has).flatMap (fun j => if (g.desc j).isMX then [j, (g.desc j).scale % 65536] else [j]) |>.eraseDups

/-- Operands of a line that the questions of R124 and R167 set against its outputs: what it reads, and what a VCH names without reading. -/
def Image.lineIns (g : Image) (z : Seen) (l : Line) : List Nat :=
  g.withScales <|
    let profs := z.vecs l
    if l.op = 0x22 then [l.s 0] ++ (if l.bit 7 then [l.s 2] else []) ++ (if l.bit 15 then [l.s 3] else []) ++ profs ++ z.held.map (·.2)
    else if l.op = 0x23 then [l.s 0] ++ (if l.bit 5 then [l.s 3] else []) ++ profs ++ z.held.map (·.2)
    else if l.op = 0x20 ∨ l.op = 0x21 ∨ l.op = 0x31 ∨ l.op = 0x10 then [l.s 0]
    else if l.op = 0x30 then [l.s 0, l.s 1, l.s 3] ++ (match g.chain l with
      | some (_, r) => [r.mask]
      | none => [])
    else if l.op = 0x33 then [l.s 0] ++ (if l.bit 32 then [l.s 2] else [])
    else if l.op = 0x34 then [l.s 0, l.s 1]
    else if l.op = 0x35 then [l.s 0, l.s 1] ++ (if l.f 3 2 = 1 then [l.s 2] else [])
    else if l.op = 0x40 ∨ l.op = 0x43 then [l.f 0 16, l.s 0]
    else if l.op = 0x42 then [l.f 0 16, l.s 0, l.s 1]
    else if 0x40 ≤ l.op then [l.f 0 16] else []

/-- A PMOV copies element bits alone: equal formats (R257). -/
def Image.bitCopy (g : Image) (l : Line) : Bool := l.op == 0x10 && (g.desc (l.s 0)).sameFormat (g.desc (l.s 1))

/-- Tensors that a line reads. -/
def Image.lineReads (g : Image) (z : Seen) (l : Line) : List Nat :=
  if g.bitCopy l then [l.s 0]
  else if l.op = 0x22 ∨ l.op = 0x23 then g.lineIns { z with held := [] } l
  else if l.op = 0x30 then match g.chain l with
    | some (_, r) => g.withScales ((if r.uses 1 then [l.s 0] else []) ++ (if r.uses 2 then [l.s 1] else []) ++ [l.s 3, r.mask])
    | none => g.lineIns z l
  else g.lineIns z l

def Image.lineWrites (g : Image) (z : Seen) (l : Line) : List Nat :=
  if g.bitCopy l then [l.s 1] else g.withScales <|
    if l.op = 0x22 ∨ l.op = 0x23 then
      [l.s 1] ++ (match z.prof l with
        | some w => [preOf true w]
        | none => [])
    else if l.op = 0x30 then (match g.chain l with
      | some (_, r) => if r.outReg then [r.out2] else [l.s 2, r.out2]
      | none => [l.s 2])
    else if l.op = 0x32 then [l.s 0] else if l.op = 0x33 then [l.s 1] ++ (if l.bit 33 then [l.s 3] else [])
    else if l.op = 0x34 ∨ l.op = 0x35 then [l.s 2] else if l.op = 0x10 ∨ l.op = 0x41 ∨ l.op = 0x44 then [l.s 1] else []

/-! Least durations (R273 to R275, R281). -/

/-- Nanoseconds in tc at 1.1 GHz, rounded up (R273). -/
def nsTc (ns : Nat) : Nat := ceilDiv (ns * 11) 10

/-- Die crossings between two C-dies (R20). -/
def crossCC (a b : Nat) : Nat := if a = b then 0 else if a + b = 3 then 2 else 1

/-- C-dies adjacent to an M-die (R17, R20). -/
def adjacentCM (c m : Nat) : Bool :=
  [(0, 0), (2, 0), (0, 1), (1, 1), (1, 2), (3, 2), (2, 3), (3, 3)].contains (c, m)
def crossCM (c m : Nat) : Nat := if adjacentCM c m then 1 else 2
def crossCX (c x : Nat) : Nat := if (c = 3 ∧ x = 0) ∨ (c = 0 ∧ x = 1) then 3 else 2
/-- From an M-die to an X-die, and to another M-die: M-dies 0 and 1 link to X-die 0 (R20). -/
def crossMX (m x : Nat) : Nat := if m / 2 = x then 1 else 2
def crossMM (m n : Nat) : Nat := if m = n then 0 else if m / 2 = n / 2 then 2 else 3
/-- Die crossings of the default route between two dies, `a` not after `b`: dies 0 to 3 C, 4 to 7 M, 8 and 9 X (R12, R20). -/
def crossUp (a b : Nat) : Nat :=
  if b < 4 then crossCC a b
  else if b < 8 then (if a < 4 then crossCM a (b - 4) else crossMM (a - 4) (b - 4))
  else if a < 4 then crossCX a (b - 8) else if a < 8 then crossMX (a - 4) (b - 8) else if a = b then 0 else 1
/-- Die crossings of the route in force: the default one, or under a route table of the configuration a free number, since the manual gives the
table's entries no format (R20; assumption entry 35). -/
def State.crossings (s : State) (a b : Nat) : Nat :=
  if s.sec.routes = [] then crossUp (min a b) (max a b) else Config.routeHops s.sec.routes a b

/-- Row and column of a physical tile on the joined grid (R17, R531). -/
def gridPos (k : Nat) : Nat × Nat := (6 * (k / 96) + k % 48 / 8, 8 * (k / 48 % 2) + k % 8)

def absDiff (a b : Nat) : Nat := (a - b) + (b - a)

/-- Router hops between two physical tiles (R531). -/
def hops (a b : Nat) : Nat :=
  absDiff (gridPos a).1 (gridPos b).1 + absDiff (gridPos a).2 (gridPos b).2 - crossCC (a / 48) (b / 48)

/-- M-dies that hold a stack of the map (R18, R275). -/
def State.mapDies (s : State) : List Nat := (s.mapStacks.map (· / 2)).eraseDups

/-- Least of a list of numbers, or a default. -/
def least (d : Nat) (l : List Nat) : Nat := (l.foldl (fun (m : Option Nat) x => match m with
  | some y => some (min x y)
  | none => some x) none).getD d

/-- First-data latency of one end of a PMOV, in tc (R275). -/
def State.endLat (s : State) (k : Nat) (d : Desc) (dest : Option Nat) : Nat :=
  let die := k / 48
  if d.space = 0 then match dest with
    | some q => if q = k then 0 else 10 + hops k q + nsTc (6 * s.crossings die (q / 48))
    | none => 0
  else if d.space = 1 then
    let (lo, hi) := d.span
    let a := min (lo.toNat / 2 ^ 28) 3
    let b := min ((hi.toNat - 1) / 2 ^ 28) 3
    nsTc (60 + 6 * (least 1 (((List.range (b + 1)).filter (a ≤ ·)).map (fun m => s.crossings die (4 + m))) - 1))
  else if d.space = 2 then nsTc (120 + 6 * (least 1 (s.mapDies.map fun m => s.crossings die (4 + m)) - 1))
  else nsTc (1000 + 6 * s.crossings die 8)

/-- Bytes of a tensor in its stored form (R274). -/
def Desc.storedBytes (d : Desc) : Nat := ceilDiv (d.count * d.elBits) 8

/-- The destination tile of a PMOV: none for a destination outside tile stores, else its physical tile (R257). -/
def State.pmovDest (s : State) (k : Nat) (l : Line) : Option Nat :=
  if l.f 0 8 = 0xFF then some k else s.physOf ⟨l.f 0 8 / 64, l.f 0 8 % 64⟩

def State.pmovTc (s : State) (g : Image) (k : Nat) (l : Line) : Nat :=
  let d0 := g.desc (l.s 0)
  let d1 := g.desc (l.s 1)
  14 + s.endLat k d0 none + s.endLat k d1 (s.pmovDest k l) + ceilDiv (max d0.storedBytes d1.storedBytes) 256

/-- Twice the cost of a row through a slab (R109). -/
def rowCost2 (fmt form : Nat) : Nat :=
  (if pairClass fmt = 3 then 1 else if 4 ≤ pairClass fmt then 4 else 2) * (if form = 1 then 4 else 1)

/-- An AMM reads an operand by the exchange path (R236). -/
def Image.exchanged (g : Image) (l : Line) : Bool := (g.desc (l.s 0)).path == 1 || (l.bit 7 && (g.desc (l.s 2)).path == 1)

/-- Least duration of an AMM: no live row when MASKED is set (R110, R236, R281). -/
def Image.ammTc (g : Image) (l : Line) : Nat :=
  let d0 := g.desc (l.s 0)
  let ex := g.exchanged l
  let f := (if l.bit 4 then 48 else 80) + (if ex then 8 else 0)
  let b := if ex then max (rowCost2 d0.fmt (l.f 4 1)) 4 else rowCost2 d0.fmt (l.f 4 1)
  if l.bit 15 || decide (d0.e 1 = 0) then f else f + ceilDiv ((d0.e 1 + 1) * b) 2

/-- The questions of R124, R165 and R167 that an output leaves to issue: its tuples, 0 for none (R289, R290). -/
def Image.leftTuples (g : Image) (v : Env) (l : Line) (outs ins : List Nat) : Nat :=
  let vec := decide (0x30 ≤ l.op)
  outs.foldl (fun m j =>
    let d := g.desc j
    if d.late = true ∧ ((vec ∧ !d.reduces) ∨ ins.any fun i => Desc.near v d (g.desc i)) then max m d.count else m) 0

/-- Lines that overlap and alias questions concern (R124, R165, R167). -/
def askedOps : List Nat := [0x22, 0x23, 0x30, 0x32, 0x33, 0x34, 0x35]

/-- Least unslipped duration of a line (R274, R281). -/
def State.leastTc (s : State) (g : Image) (z : Seen) (v : Env) (l : Line) : Nat :=
  let op := l.op
  let base :=
    if op = 0x20 then
      let slow := l.bit 7
      if l.bit 4 then (if slow then 132 else 68) else (if slow then 36 else 20)
    else if op = 0x21 then 4 else if op = 0x22 then g.ammTc l
    else if op = 0x23 then 16 + (if l.bit 5 then 0 else (g.desc (l.s 0)).e 1 * ceilDiv ((g.desc (l.s 0)).e 0) 256)
    else if op = 0x30 then g.vchTc l else if op = 0x31 ∨ op = 0x32 then 6 else if op = 0x33 then vsmxTc (g.desc (l.s 0))
    else if op = 0x34 ∨ op = 0x35 then idxTc g l else if op = 0x10 then s.pmovTc g v.tile l
    else if 0x40 ≤ op then (match g.bytes (l.f 0 16) with
      | some b => (Plan.parse b).dur
      | none => 0)
    else 0
  base + (if askedOps.contains op then ceilDiv (g.leftTuples v l (g.lineWrites z l) (g.lineIns z l)) 1024 else 0)

/-- Minimum charge (R284). -/
def Image.leastCost (g : Image) (l : Line) : Nat :=
  let op := l.op
  let n := l.arrays.length
  if op = 0x20 then (3 + b2n (l.bit 7)) * n
  else if op = 0x22 then
    let d0 := g.desc (l.s 0)
    (if pairClass d0.fmt = 3 then 11 else if 4 ≤ pairClass d0.fmt then 6 else 7) * n + 3 + (if l.bit 8 then n else 0) +
      (if g.exchanged l then 2 else 0)
  else if op = 0x30 then 4 + (match g.chain l with
    | some (b, _) => bField b 0 1
    | none => 1)
  else if op = 0x10 then 3 else if op = 0x21 then 1 else if op = 0x23 then 8 else if op = 0x31 ∨ op = 0x32 then 2
  else if op = 0x33 then 10 else if op = 0x34 ∨ op = 0x35 then 6 else if 0x40 ≤ op then 3 else 0

/-- The fault of one execution in the order of R289: EPH_LOOP of its slots, CAT_INDEX, its unit's rows, DESC_KIND, LAT_CLASS,
PWR_LINE_COST. -/
def State.exeFault (s : State) (c : Ctx) (g : Image) (z : Seen) (e : Exe) : Option LineBad :=
  let l := e.l
  let v : Env := ⟨c, (s.physOf ⟨e.key / 64, e.key % 64⟩).getD 0, false, 0, 0⟩
  let own := match (g.linesOf e.key)[e.n]? with
    | some k => k.d
    | none => l.d
  if l.advance && (own.zip l.d).any (fun j => decide (j.1 ≠ 0xFFFF) && decide (s.catSize c ≤ j.2)) then some (0x0266, 0xFFFF)
  else match g.slotBad l (lineNeed l) with
  | some b => some b
  | none => match unitFault g z l with
    | some b => some b
    | none => match (g.lineWrites z l).find? fun j => [1, 2, 5, 6].contains (g.desc j).kind with
      | some j => some (0x0208, j)
      | none =>
        if ¬ (l.op = 0x30 ∧ g.chainBad l) ∧ 2 ^ (l.lclass + 3) < s.leastTc g z v l then some (0x0270, 0xFFFF)
        else if l.pcost < g.leastCost l ∨ s.tokensOf (e.key / 64) < l.pcost then some (0x0601, 0xFFFF)
        else none

/-- Executions with what the tile has loaded before each. -/
def seenFrom (g : Image) : Seen → List Exe → List (Exe × Seen)
  | _, [] => []
  | z, e :: t => (e, z) :: seenFrom g (z.after g e) t

def seenOf (g : Image) (es : List Exe) : List (Exe × Seen) := seenFrom g ⟨[], [], []⟩ es

/-- Stage 4 judges an execution: lines behind one whose fields fault come after that fault. -/
def judged (ls : List Line) (e : Exe) : Bool :=
  match fieldFault ls with
  | some (n, _) => decide (e.n < n)
  | none => true

/-- The first breach of stage 4 on a tile. -/
def State.tileFault (s : State) (c : Ctx) (g : Image) (key : Nat) : Option FRec :=
  let ls := g.linesOf key
  let es := exeOf key ls
  let faults := ((seenOf g (es.take exeMax)).filter fun p => judged ls p.1).filterMap fun p => (s.exeFault c g p.2 p.1).map fun b => (p.1, b)
  let own : List (Exe × LineBad) :=
    (match es[exeMax]? with
     | some e => [(e, (0x0266, 0xFFFF))]
     | none => []) ++
    (match fieldFault ls with
     | some (n, code) => [(⟨key, n, 0, Line.parse 0⟩, (code, 0xFFFF))]
     | none => [])
  (minBy (fun p => p.1.order) (faults ++ own)).map fun p =>
    s.atKey key { ckRec p.2.1 p.2.2 with line := p.1.n, iter := p.1.iter }

/-- The first breach of stage 4: tile, then line, then iteration. -/
def State.stage4 (s : State) (c : Ctx) (g : Image) : Option FRec := tileKeys.findSome? (s.tileFault c g)

end Sys2Proof.Machine
end

