-- ==== Sys2Proof/Machine/Whole.lean ====
section
/-! DEFINITION. The descriptor checker (R289), stages 5 and 6: records (R87, R120, R152, R202, R348), and the whole program: writes
of weights (R199, R200), placement (R29), carried tensors (R215), stash slots (R193, R195), tokens and barriers (R247 to R251),
overlap and alias questions (R124, R165, R167), and the abstract execution (R267). -/

namespace Sys2Proof.Machine

/-- Executions of all tiles with what each has loaded, tile, line, iteration. -/
def sortExes (es : List (Exe × Seen)) : List (Exe × Seen) :=
  es.mergeSort fun a b => decide (a.1.order ≤ b.1.order)

/-- The whole program, by tile in issue order. -/
abbrev Whole := List (Nat × List (Exe × Seen))

def Image.whole (g : Image) : Whole := tileKeys.map fun k => (k, seenOf g (exeOf k (g.linesOf k)))

/-- All executions, tile, then line, then iteration. -/
def Whole.inOrder (w : Whole) : List (Exe × Seen) := w.flatMap fun e => sortExes e.2

/-- A record about an execution. -/
def State.exeRec (s : State) (e : Exe) (code : Nat) (cat : Nat := 0xFFFF) : FRec :=
  s.atKey e.key { ckRec code cat with line := e.n, iter := e.iter }

/-! Stage 5. -/

/-- A profile record breaks R120. -/
def Image.profileBad (g : Image) (j : Nat) : Bool :=
  match g.bytes j with
  | none => true
  | some b =>
    let hi (o : Nat) : Bool := decide (bField b (o + 2) 2 ≠ 0)
    let lo (o : Nat) : Bool := !g.has (bField b o 2)
    (g.desc j).kind != 1 || b.length != 32 || decide (2 < bField b 0 1) || decide (1 < bField b 1 1) ||
      decide (0x10 < bField b 2 1) || decide (1 < bField b 3 1) || hi 8 || hi 0xC || hi 0x10 || !zeros (b.drop 0x18) ||
      (decide (bField b 0 1 = 2) && lo 8) || (decide (bField b 1 1 = 1) && lo 0xC) || (decide (bField b 3 1 = 1) && lo 0x10)

/-- Indices of an update record that OPT and FLAGS use, and those that must be 0xFFFF (R202). -/
def URec.needs (u : URec) : List Nat :=
  [u.master, u.m, u.lr] ++ (if u.opt = 1 then [u.v, u.scal] else []) ++ (if u.hasWork then [u.work] else [])
def URec.unused (u : URec) : List Nat :=
  (if u.opt = 1 then [] else [u.v, u.scal]) ++ (if u.hasWork then [] else [u.work])
/-- The pairs that a record names. -/
def URec.pairs (u : URec) : List Nat :=
  [u.master, u.m] ++ (if u.opt = 1 then [u.v, u.scal] else []) ++ (if u.hasWork then [u.work] else [])
def URec.consts (u : URec) : List Nat := [u.beta1, u.c1, u.beta2, u.c2, u.eps, u.wd, u.gscale]

/-- Shape and shard placement that the pairs of a record share (R202). -/
def Desc.place (d : Desc) : List Nat × List Nat := (d.ext, [d.shardNo, d.sdimA, d.sdimB, d.scntA, d.scntB])

/-- A value outside [0, 1). -/
def outsideUnit (x : Nat) : Bool := fgt 0 x || !fgt one32 x

/-- An update record breaks R202, the cases of two records apart. -/
def Image.updateBad (g : Image) (b : List Byte) : Bool :=
  let u := URec.parse b
  let d (j : Nat) := g.desc j
  decide (b.length < 64) || decide (2 < u.opt) || decide (4 ≤ bField b 1 1) || !zeros (b.drop 0x2C) ||
    (u.nesterov && u.opt != 0) || u.needs.any (fun j => !g.has j) || u.unused.any (· ≠ 0xFFFF) ||
    u.pairs.any (fun j => (d j).kind != 3) || u.consts.any nonFinite32 || outsideUnit u.beta1 || outsideUnit u.beta2 ||
    ((d u.lr).kind != 1 || (d u.lr).fmt != 9 || (d u.lr).rank != 1) ||
    ([u.master, u.m] ++ (if u.opt = 1 then [u.v, u.scal] else [])).any (fun j => (d j).fmt != 9) ||
    (decide (u.opt = 1) && (d u.scal).count != 2) || (u.hasWork && writeRefused (d u.work).fmt) ||
    ([u.m] ++ (if u.opt = 1 then [u.v] else []) ++ (if u.hasWork then [u.work] else [])).any
      fun j => decide ((d j).place ≠ (d u.master).place)

/-- Two records name one pair, or overlapping shards of one (R202). -/
def Image.clash (g : Image) (v : Env) (a b : URec) : Bool :=
  a.pairs.any fun i => b.pairs.any fun j => i = j || Desc.overlaps v (g.desc i) (g.desc j)

/-- Children and parent of member i in the left-leaning tree over m members (R88, R349). -/
def treeNear (i m : Nat) : List Nat :=
  (List.range 15).filterMap (fun k =>
    if i % 2 ^ (k + 1) = 0 ∧ i + 2 ^ k < m then some (i + 2 ^ k) else none) ++
  (match (List.range 15).find? (bitAt i) with
   | some k => [i - 2 ^ k]
   | none => [])

/-- Neighbours that a plan's algorithm uses (R348). -/
def Plan.near (p : Plan) : List Nat :=
  if p.algo ≤ 2 then [(p.myidx + 1) % p.nmemb, (p.myidx + p.nmemb - 1) % p.nmemb]
  else if 3 ≤ p.algo ∧ p.algo ≤ 5 then treeNear p.myidx p.nmemb else []

/-- Bytes of staging that a plan needs (R348). -/
def Plan.need (p : Plan) : Nat := p.elems * (if p.algo = 1 then p.nmemb else 1) * fmtBytes p.fmt

/-- Staging region of a plan record. -/
def stageSpan (b : List Byte) : Int × Int := ((bField b 0x10 8 : Nat), (bField b 0x10 8 + bField b 0x18 8 : Nat))

/-- Two ranges of addresses meet. -/
def rangesMeet (a b : Int × Int) : Bool := decide (a.1 < b.2) && decide (b.1 < a.2) && decide (a.1 < a.2) && decide (b.1 < b.2)

/-- A plan record breaks R348 or differs from its TOPOLOGY entry (R529). -/
def State.planBad (s : State) (g : Image) (rank : Nat) (rankTab plans : List Nat) (j : Nat) : Bool :=
  match g.bytes j with
  | none => true
  | some b =>
    let p := Plan.parse b
    let md := g.desc p.members
    let mb := (g.bytes p.members).getD []
    let ranks := (List.range p.nmemb).map fun i => bField mb (2 * i) 2
    let reducing := [0, 2, 3, 5, 6].contains p.algo
    let others := (plans.filter (· ≠ j)).filterMap g.bytes
    decide (b.length < 64) || decide (7 < p.algo ∨ 1 < p.engine ∨ bField b 3 1 ≠ 0) || !zeros (b.drop 0x28) ||
      decide (p.nmemb = 0 ∨ 16384 < p.nmemb) || (decide (p.algo = 7) && p.nmemb != 2) || (p.algo != 7 && p.tag != 0) ||
      decide (p.nmemb ≤ p.myidx) || nth 0xFFFF p.myidx ranks != rank ||
      ranks.any (fun r => decide (g.n ≤ r)) || decide (ranks.eraseDups.length ≠ ranks.length) ||
      (reducing && p.elems % p.nmemb != 0) || (if reducing then p.fmt != 9 else decide (p.fmt < 3 ∨ 0xF < p.fmt)) ||
      !(g.has p.members && md.kind = 1 && md.fmt = 0xF && md.rank = 1 && md.e 0 = 2 * p.nmemb) ||
      decide (bField b 0x18 8 < p.need) ||
      ((List.range g.cat.length).any fun i => (g.desc i).space = 2 && rangesMeet (stageSpan b) (g.desc i).span) ||
      others.any (fun q => rangesMeet (stageSpan b) (stageSpan q)) ||
      (p.near.any fun i =>
        let e := s.fwdEntry p.engine (nth 0xFFFF (nth 0 i ranks) rankTab)
        decide (e < 12) && e / 6 != p.engine) ||
      (match g.topo.find? (·.plan = j) with
       | some t => decide (t.algo ≠ p.algo) || decide (t.ranks ≠ ranks)
       | none => true)

/-- The records that lines name, by kind: profiles, chains, update records, plans. -/
def recordOf (l : Line) : List (Nat × Nat) :=
  if l.op = 0x21 then [(0, l.s 0)] else if l.op = 0x30 then [(1, l.s 3)]
  else if l.op = 0x42 then [(2, l.s 1), (3, l.f 0 16)] else if 0x40 ≤ l.op then [(3, l.f 0 16)] else []

/-- First line that names record j with breach `bad`. -/
def firstNaming (es : List (Exe × Seen)) (kind j : Nat) (bad : Line → Bool) : Option Exe :=
  (es.find? fun e => (recordOf e.1.l).contains (kind, j) && bad e.1.l).map (·.1)

/-- Local indices of the records of a kind, rising. -/
def recordsOf (es : List (Exe × Seen)) (kind : Nat) : List Nat :=
  sortNat (es.flatMap fun e => ((recordOf e.1.l).filter (·.1 = kind)).map (·.2))

/-- Local indices that a record names: the used fields of a profile, MASK and OUT2 of a chain, an update record's needed fields and PLAN, a
plan's MEMBERS (R218). -/
def Image.recordNames (g : Image) (kind j : Nat) : List Nat := match g.bytes j with
  | none => []
  | some b =>
    if kind = 0 then profVectors (BitVec.ofNat 256 (ofBytesLE b)) ++
      (if bField b 3 1 = 1 then [(Profile.parse (ofBytesLE b)).preIdx] else [])
    else if kind = 1 then [(Chain.parse b).mask, (Chain.parse b).out2]
    else if kind = 2 then (URec.parse b).needs ++ [bField b 0xE 2] else [(Plan.parse b).members]

/-- An index at or above HST_CAT_SIZE (R218). -/
def State.beyond (s : State) (c : Ctx) (js : List Nat) : Option Nat := js.find? fun j => decide (j ≠ 0xFFFF) && decide (s.catSize c ≤ j)

/-- A split-K record breaks R87: no line of its own names it. K is the greatest contraction extent of the activation operands that its
partitions' AMM lines name, and the test on K falls away where no AMM names a partition: a DESIGN CHOICE (assumption entry 35), since the
rule speaks of one extent. -/
def Image.splitBad (g : Image) (amms : List Exe) (r : SplitK) : Bool :=
  let p := r.parts.length
  let ks := (amms.filter fun e => r.parts.contains (e.l.s 1) || r.parts.contains (e.l.s 2)).map fun e => (g.desc (e.l.s 0)).e 0
  let top := ks.foldl max 0
  decide (p = 0 ∨ 16 < p) || r.bounds.any (fun b => decide (b % 64 ≠ 0 ∨ b = 0) || (ks != [] && decide (top ≤ b))) ||
    (r.bounds.zip (r.bounds.drop 1)).any fun e => decide (e.2 ≤ e.1)

/-- An AMM line of a partition names a slab outside its range (R87). -/
def SplitK.outside (r : SplitK) (e : Exe) : Option Nat :=
  ((List.range r.parts.length).find? fun q =>
    let j := nth 0xFFFF q r.parts
    let k := 64 * e.l.f 16 16
    (e.l.s 1 = j || e.l.s 2 = j) && (decide (q ≠ 0 ∧ k < nth 0 (q - 1) r.bounds) ||
      decide (q < r.bounds.length ∧ nth 0 q r.bounds ≤ k))).map fun q => nth 0xFFFF q r.parts

/-- The first breach of stage 5: records by local index, then split-K records. -/
def State.stage5 (s : State) (c : Ctx) (g : Image) (rank : Nat) (rankTab : List Nat) (w : Whole) : Option FRec :=
  let es := w.inOrder
  let v : Env := ⟨c, 0, false, 0, 0⟩
  let plans := recordsOf es 3
  let upds := recordsOf es 2
  let all := sortNat (recordsOf es 0 ++ recordsOf es 1 ++ upds ++ plans)
  let updBad (j : Nat) : Bool := match g.bytes j with
    | none => true
    | some b => (g.desc j).kind != 1 || g.updateBad b ||
        (upds.filter (· < j)).any fun i => match g.bytes i with
          | some b' => g.clash v (URec.parse b') (URec.parse b)
          | none => false
  let bad (j : Nat) : Option FRec :=
    let rows : List (Nat × Nat × (Line → Bool)) := [(0, 0x0236, fun _ => g.profileBad j), (1, 0x0240, g.chainBad),
      (2, 0x0251, fun _ => updBad j), (3, 0x0280, fun _ => s.planBad g rank rankTab plans j)]
    rows.findSome? fun r => match s.beyond c (g.recordNames r.1 j), firstNaming es r.1 j fun _ => true with
      | some i, some e => some (s.exeRec e 0x0206 i)
      | _, _ => (firstNaming es r.1 j r.2.2).map fun e => s.exeRec e r.2.1 j
  match all.findSome? bad with
  | some r => some r
  | none =>
    let amms := (es.map (·.1)).filter fun e => e.l.op = 0x22
    g.splitk.findSome? fun r => match s.beyond c (r.result :: r.parts) with
      | some i => some (ckRec 0x0206 i)
      | none =>
      if g.splitBad amms r then some (ckRec 0x0239 r.result)
      else amms.findSome? fun e => (r.outside e).map fun j => s.exeRec e 0x0239 j

/-! Stage 6: weights, placement, carried tensors, stashes. -/

/-- A line that writes a pair or a frozen tensor, or hands a frozen one over as a gradient (R199, R200). -/
def Image.weightWrite (g : Image) (p : Exe × Seen) : Option Nat :=
  match (g.lineWrites p.2 p.1.l).find? fun j => (g.desc j).kind = 3 || (g.desc j).kind = 4 with
  | some j => some j
  | none => if p.1.l.op = 0x42 ∧ (g.desc (p.1.l.s 0)).kind = 4 then some (p.1.l.s 0) else none

/-- M-dies that a tensor's banks lie on where the map gives stacks ranges of their own: none under the hashed map (R18, R296,
R304). -/
def State.diesOf (s : State) (d : Desc) : List Nat :=
  let (lo, hi) := d.span
  let unit := if d.space = 1 then 2 ^ 28 else 2 * 0xC00000000
  if d.space = 1 ∨ (d.space = 2 ∧ s.mapMode ≠ 0) then
    (List.range 4).filter fun m => decide (lo < ((m + 1) * unit : Nat)) && decide (((m * unit : Nat) : Int) < hi)
  else []

/-- An update record whose pairs lie on more than one M-die (R29; assumption entry 32). -/
def State.misplaced (s : State) (g : Image) (j : Nat) : Bool :=
  match g.bytes j with
  | some b => decide (1 < ((URec.parse b).pairs.flatMap fun i => s.diesOf (g.desc i)).eraseDups.length)
  | none => false

/-- The tile on which a line's SPACE 0 outputs lie: DEST of a PMOV, else its own (R257). -/
def Exe.outKey (e : Exe) : Nat := if e.l.op = 0x10 ∧ e.l.f 0 8 ≠ 0xFF then e.l.f 0 8 else e.key

/-- Bytes of a stash without elision: elements and, for MX, one scale a block (R192, R193, R195). -/
def Desc.stashBytes (d : Desc) : Nat :=
  d.storedBytes + (if d.isMX then d.count / d.e d.mxAxis * ceilDiv (d.e d.mxAxis) 32 else 0)

/-- What a line writes as R215 sees it: a tensor, on its tile in SPACE 0; or a range of bytes of a space outside the tile stores. -/
inductive Wrote where
  | tensor (key : Nat) (d : Desc)
  | range (space lo n : Nat)
  deriving DecidableEq, Repr

/-- A byte of tensor d, which a line of tile `key` reads, lies in what was written. -/
def Wrote.meets (c : Ctx) (key : Nat) (d : Desc) : Wrote → Bool
  | .tensor k e => (d.space != 0 || k == key) && Desc.overlaps ⟨c, key, false, 0, 0⟩ e d
  | .range sp lo n => d.space == sp && d.space != 0 && (d.allBytes 0).any fun a => decide (lo ≤ a) && decide (a < lo + n)

/-- Tensor d lies in the slot of stash j, or at its place in the off-load window (R193; assumption entry 31). -/
def Image.stashAt (g : Image) (j : Nat) (d : Desc) : Bool :=
  let h := g.desc j
  let e := nth 0 h.stashIdx g.cat
  bitAt h.modes 9 && ((d.space == 2 && d.base == (Desc.parse e).base) ||
    (decide (field h.modes 11 2 ≠ 0) && d.space == 3 && d.base == recField e 0x18 8))

/-- What a line writes for R215: its outputs; with a PMOV that stores a stash, its slot and its part of the window (R193, R195); with
one that restores a compressed stash, the scale tensor too (R192). -/
def Image.wrote (g : Image) (z : Seen) (e : Exe) : List Wrote :=
  let l := e.l
  let h := g.desc (l.s 0)
  let c := nth 0 h.stashIdx g.cat
  let back := l.op = 0x10 ∧ g.stashAt (l.s 1) (g.desc (l.s 0)) = true
  let outs := g.lineWrites z l ++ (if back then g.withScales [l.s 1] else [])
  (outs.map fun j => Wrote.tensor e.outKey (g.desc j)) ++
    (if l.op = 0x10 ∧ g.stashAt (l.s 0) (g.desc (l.s 1)) = true then
      let n := h.stashBytes
      [.range 2 (Desc.parse c).base (recField c 0x10 8)] ++
        (if field h.modes 11 2 = 0 then [] else [.range 3 (recField c 0x18 8) (alignUp n 64 + 8 * ceilDiv n 65536)])
     else [])

/-- What a line reads for R215: a PMOV that stores a compressed stash reads its scale tensor too (R192). -/
def Image.carries (g : Image) (z : Seen) (l : Line) : List Nat :=
  if l.op = 0x10 ∧ bitAt (g.desc (l.s 0)).modes 10 = true ∧ g.stashAt (l.s 0) (g.desc (l.s 1)) = true then g.withScales [l.s 0]
  else g.lineReads z l

/-- The executions, in the given order, that read a work tensor of which no earlier one has written a byte (R215). -/
def carried (g : Image) (c : Ctx) : List Wrote → List (Exe × Seen) → List (Exe × Nat)
  | _, [] => []
  | done, p :: t =>
    let bad := (g.carries p.2 p.1.l).find? fun j => (g.desc j).kind = 0 && !done.any (Wrote.meets c p.1.key (g.desc j))
    (match bad with
     | some j => [(p.1, j)]
     | none => []) ++ carried g c ((g.wrote p.2 p.1).filter (fun q => !done.contains q) ++ done) t

/-- A stash whose slot or window is too small (R193, R195). -/
def State.stashBad (s : State) (c : Ctx) (g : Image) (j : Nat) : Bool :=
  let d := g.desc j
  let e := nth 0 d.stashIdx g.cat
  let n := d.stashBytes
  d.kind != 5 && bitAt d.modes 9 &&
    (decide (recField e 0x10 8 <
        if bitAt d.modes 10 then bitmapBytes (d.count / d.e d.mxAxis * ceilDiv (d.e d.mxAxis) 32) else n) ||
     ((decide (field d.modes 11 2 = 1) || decide (field d.modes 11 2 = 2)) &&
        decide (s.winSize c < recField e 0x18 8 + alignUp n 64 + 8 * ceilDiv n 65536)))

/-! Stage 6: tokens and barriers. -/

/-- Participants of a barrier (R250). -/
def Image.members (g : Image) (num : Nat) : List Nat :=
  if 240 ≤ num then tileKeys
  else match g.barriers.find? (·.1 = num) with
    | some (_, m, _) => (List.range 256).filter (bitAt m)
    | none => []

/-- Local posts of an execution: tile and token (R247, R257). -/
def Exe.tokenPosts (e : Exe) : List (Nat × Nat) :=
  (e.l.posts.filter fun r => refKind r = 1).map (fun r => (e.key, refNum r)) ++
    (if e.l.op = 0x10 ∧ e.l.bit 16 then [(e.outKey, e.l.f 8 8)] else [])

/-- Barrier posts of an execution; STEPEND posts STEP (R250). -/
def Exe.barrierPosts (e : Exe) : List Nat :=
  (e.l.posts.filter fun r => refKind r = 2).map refNum ++ (if e.l.op = 3 then [241] else [])

/-- References that an execution waits on. -/
def Exe.waitRefs (e : Exe) : List Nat := liveRefs e.l.waits

/-- A line misuses a barrier (R251). -/
def Image.barrierMisuse (g : Image) (e : Exe) : Bool :=
  ((e.l.posts.filter fun r => refKind r = 2).map refNum).any (fun n =>
      decide (241 ≤ n) || (decide (n = 240) && !g.gate) || (decide (n < 240) && !(g.members n).contains e.key)) ||
    (!g.gate && e.l.waits.any fun r => r = 512 + 240)

/-- Misuse of a token: its line is the first of a second producer tile (R248). -/
def secondProducer : Tbl Nat → List Exe → List Exe
  | _, [] => []
  | own, e :: t =>
    let posts := e.tokenPosts
    let bad := posts.any fun p => decide (own.get e.key (p.1 * 256 + p.2) ≠ e.key)
    let own := posts.foldl (fun o p => if o.any (·.1 = p.1 * 256 + p.2) then o else o.set (p.1 * 256 + p.2) e.key) own
    if bad then e :: secondProducer own t else secondProducer own t

/-- Counts by key. -/
def counts (ks : List Nat) : Tbl Nat := ks.foldl (fun t k => t.set k (t.get 0 k + 1)) []

/-- EPH_TOKEN (R248, R251). An engine has no line that could post, so a program barrier that lists one is posted different numbers of times as
soon as a tile posts it (DEDUCED: assumption entry 73). -/
def State.tokenFault (s : State) (g : Image) (es : List Exe) : Option FRec :=
  let two := secondProducer [] es
  match es.find? fun e => g.barrierMisuse e || two.contains e with
  | some e => some (s.exeRec e 0x0261)
  | none =>
    let posts := counts (es.flatMap fun e => e.barrierPosts.map fun n => n * 256 + e.key)
    if g.barriers.any fun b => decide (b.1 < 240) &&
        decide (1 < (((g.members b.1).map fun k => posts.get 0 (b.1 * 256 + k)) ++ (if b.2.2 = 0 then ([] : List Nat) else [0])).eraseDups.length)
    then some (ckRec 0x0261) else none

/-- EPH_BALANCE (R247): the first line of the first tile that posts or waits on an unbalanced token. -/
def State.balanceFault (s : State) (es : List Exe) : Option FRec :=
  let posts := counts (es.flatMap fun e => e.tokenPosts.map fun p => p.1 * 256 + p.2)
  let waits := counts (es.flatMap fun e => (e.l.waits.filter fun r => refKind r = 1).map fun r => e.key * 256 + refNum r)
  let bad (t : Nat) : Bool := decide (posts.get 0 t ≠ waits.get 0 t) || decide (65535 < posts.get 0 t)
  match es.find? fun e => (e.tokenPosts.map fun p => p.1 * 256 + p.2).any (fun t => t / 256 = e.key && bad t) ||
      ((e.l.waits.filter fun r => refKind r = 1).any fun r => bad (e.key * 256 + refNum r)) with
  | some e => some (s.exeRec e 0x0262)
  | none => (posts.find? fun t => bad t.1).map fun t => s.atKey (t.1 / 256) (ckRec 0x0262)

/-! The abstract execution (R267) and the chains of R249. -/

/-- Nodes of chains: issue and completion of execution i of a tile, phase k of a barrier. -/
def issueNode (key i : Nat) : Nat := 2 * (key * 2 ^ 25 + i)
def doneNode (key i : Nat) : Nat := issueNode key i + 1
def phaseNode (num k : Nat) : Nat := 2 ^ 40 + num * 2 ^ 25 + k

/-- The abstract machine: executions that wait, by tile; how many have issued; tokens; barrier posts and consumes by
NUM * 256 + tile; the posters of each token not yet consumed; the executions in the order of issue; the links of chains. -/
structure Abs where
  rest : Tbl (List (Exe × Seen))
  issued : Tbl Nat
  tok : Tbl Nat
  posted : Tbl Nat
  used : Tbl Nat
  posters : Tbl (List Nat)
  order : List (Exe × Seen)
  links : List (Nat × Nat)

/-- Phases of a barrier that have completed. -/
def Abs.phases (a : Abs) (g : Image) (num : Nat) : Nat :=
  least 0 ((g.members num).map fun k => a.posted.get 0 (num * 256 + k))

/-- Posts that a tile can consume of a reference. -/
def Abs.avail (a : Abs) (g : Image) (key r : Nat) : Nat :=
  if refKind r = 1 then a.tok.get 0 (key * 256 + refNum r)
  else a.phases g (refNum r) - a.used.get 0 (refNum r * 256 + key)

/-- The first wait of an execution that finds too few posts. -/
def Abs.unmet (a : Abs) (g : Image) (e : Exe) : Option Nat :=
  e.waitRefs.find? fun r => decide (a.avail g e.key r < (e.waitRefs.filter (· = r)).length)

/-- One wait consumed. -/
def Abs.consume (key i : Nat) (a : Abs) (r : Nat) : Abs :=
  if refKind r = 1 then
    let t := key * 256 + refNum r
    let ps := a.posters.get [] t
    { a with tok := a.tok.set t (a.tok.get 0 t - 1), posters := a.posters.set t (ps.drop 1),
             links := (ps.take 1).map (fun p => (p, issueNode key i)) ++ a.links }
  else
    let t := refNum r * 256 + key
    { a with used := a.used.set t (a.used.get 0 t + 1), links := (phaseNode (refNum r) (a.used.get 0 t + 1), issueNode key i) :: a.links }

/-- An execution issues and completes. -/
def Abs.issue (a : Abs) (p : Exe × Seen) : Abs :=
  let e := p.1
  let i := a.issued.get 0 e.key
  let a := e.waitRefs.foldl (Abs.consume e.key i) a
  let a := e.tokenPosts.foldl (fun (a : Abs) q =>
    let t := q.1 * 256 + q.2
    { a with tok := a.tok.set t (a.tok.get 0 t + 1), posters := a.posters.set t (a.posters.get [] t ++ [doneNode e.key i]) }) a
  let a := e.barrierPosts.foldl (fun (a : Abs) n =>
    let t := n * 256 + e.key
    { a with posted := a.posted.set t (a.posted.get 0 t + 1), links := (doneNode e.key i, phaseNode n (a.posted.get 0 t + 1)) :: a.links }) a
  { a with issued := a.issued.set e.key (i + 1), order := p :: a.order,
           links := (issueNode e.key i, doneNode e.key i) :: (issueNode e.key i, issueNode e.key (i + 1)) :: a.links }

/-- A tile issues as far as its waits allow. -/
def Abs.tile (g : Image) (key : Nat) : List (Exe × Seen) → Abs → Abs
  | [], a => { a with rest := a.rest.set key [] }
  | p :: t, a => if (a.unmet g p.1).isSome then { a with rest := a.rest.set key (p :: t) } else Abs.tile g key t (a.issue p)

/-- Rounds over all tiles until nothing issues; `fuel` bounds the rounds. -/
def Abs.run (g : Image) : Nat → Abs → Abs
  | 0, a => a
  | fuel + 1, a =>
    let b := tileKeys.foldl (fun a k => Abs.tile g k (a.rest.get [] k) a) a
    if b.order.length = a.order.length then b else Abs.run g fuel b

def Image.abstract (g : Image) (w : Whole) : Abs :=
  Abs.run g ((w.map fun e => e.2.length).sum + 1) ⟨w, [], [], [], [], [], [], []⟩

/-- Nodes reached over links. -/
def reach (links : List (Nat × Nat)) : Nat → List Nat → List Nat → List Nat
  | 0, _, seen => seen
  | fuel + 1, front, seen =>
    let next := (((links.filter fun e => front.contains e.1).map (·.2)).filter fun x => !seen.contains x).eraseDups
    if next = [] then seen else reach links fuel next (next ++ seen)

/-- A chain orders the completion of one execution before the issue of another (R249). -/
def Abs.before (a : Abs) (done start : Nat) : Bool := (reach a.links (a.links.length + 1) [done] [done]).contains start

/-- EPH_RACE (R249): a remote write whose bytes a line of its destination touches with no chain between them. -/
def State.raceFault (s : State) (c : Ctx) (g : Image) (w : Whole) (a : Abs) (es : List (Exe × Seen)) : Option FRec :=
  (es.find? fun p =>
    let e := p.1
    let key := e.outKey
    let v : Env := ⟨c, key, false, 0, 0⟩
    let outs := (g.lineWrites p.2 e.l).filter fun j => (g.desc j).space = 0
    let place (xs : List (Exe × Seen)) (x : Exe) : Nat := xs.findIdx fun q => q.1.n = x.n && q.1.iter = x.iter
    let here := Tbl.get [] key w
    let i := place (Tbl.get [] e.key w) e
    key ≠ e.key && outs ≠ [] && decide (i < a.issued.get 0 e.key) &&
      ((List.range here.length).zip here).any fun x =>
        let touched := (g.lineReads x.2.2 x.2.1.l ++ (if x.2.1.outKey = key then g.lineWrites x.2.2 x.2.1.l else [])).filter fun j =>
          (g.desc j).space = 0
        decide (x.1 < a.issued.get 0 key) && (outs.any fun o => touched.any fun j => Desc.overlaps v (g.desc o) (g.desc j)) &&
          !(a.before (doneNode key x.1) (issueNode e.key i) || a.before (doneNode e.key i) (issueNode key x.1))).map
    fun p => s.exeRec p.1 0x0264 (p.1.l.s 1)

/-! Overlap and alias questions decided at load (R124, R165, R167, R289). -/

/-- The first alias or overlap of a line's outputs, of those that the load decides: code, output, coordinates. -/
def Image.askFault (g : Image) (v : Env) (p : Exe × Seen) : Option (Nat × Nat × Option (Nat × Nat)) :=
  let vec := decide (0x30 ≤ p.1.l.op)
  let outs := (g.lineWrites p.2 p.1.l).filter fun j => !(g.desc j).late
  let ins := g.lineIns p.2 p.1.l
  if !askedOps.contains p.1.l.op then none
  else match if vec then outs.findSome? fun j =>
        if (g.desc j).reduces then none else (g.desc j).aliasPair.map fun e => (j, e) else none with
    | some (j, e) => some (0x0243, j, some e)
    | none => (outs.find? fun j => ins.any fun i =>
        Desc.meets v (g.desc j) (g.desc i) && !(vec && inPlace v (g.desc j) (g.desc i))).map fun j =>
          (if vec then 0x0244 else 0x0234, j, none)

def State.askRec (s : State) (e : Exe) (q : Nat × Nat × Option (Nat × Nat)) : FRec :=
  match q.2.2 with
  | some (i, j) => { s.exeRec e q.1 q.2.1 with c0 := i % 2 ^ 32, c1 := i / 2 ^ 32, c2 := j % 2 ^ 32, c3 := j / 2 ^ 32 }
  | none => s.exeRec e q.1 q.2.1

/-- The first breach of stage 6, as listed in R289. -/
def State.stage6 (s : State) (c : Ctx) (g : Image) (w : Whole) : Option FRec :=
  let es := w.inOrder
  let a := g.abstract w
  let seq := a.order.reverse ++ a.rest.flatMap (·.2)
  match es.findSome? fun p => (g.weightWrite p).map fun j => s.exeRec p.1 0x0250 j with
  | some r => some r
  | none => match es.find? fun p => decide (p.1.l.op = 0x42) && s.misplaced g (p.1.l.s 1) with
    | some p => some (s.exeRec p.1 0x0254 (p.1.l.s 1))
    | none => match minBy (fun x => x.1.key * 2 ^ 64 + x.1.order) (carried g c [] seq) with
      | some x => some (s.exeRec x.1 0x0253 x.2)
      | none => match (List.range g.cat.length).find? (s.stashBad c g) with
        | some j => some (ckRec 0x0252 j)
        | none => match s.tokenFault g (es.map (·.1)) with
          | some r => some r
          | none => match s.balanceFault (es.map (·.1)) with
            | some r => some r
            | none => match s.raceFault c g w a es with
              | some r => some r
              | none => match es.findSome? fun p => (g.askFault ⟨c, p.1.key, false, 0, 0⟩ p).map (s.askRec p.1) with
                | some r => some r
                | none => a.rest.findSome? fun e => (e.2.head?).map fun p =>
                    { s.exeRec p.1 0x0263 with c0 := (a.unmet g p.1).getD 0 }

/-- The checker's stages 2 to 6 over an image (R289): the first breach, with its stage. -/
def State.check (s : State) (c : Ctx) (g : Image) (rank : Nat) (rankTab : List Nat) : Option FRec :=
  let tag (n : Nat) (r : Option FRec) : Option FRec := r.map fun r => { r with check := n }
  match tag 2 (s.stage2 c g) with
  | some r => some r
  | none => match tag 3 (s.stage3 c g fun k => exeOf k (g.linesOf k)) with
    | some r => some r
    | none => match tag 4 (s.stage4 c g) with
      | some r => some r
      | none =>
        let w := g.whole
        match tag 5 (s.stage5 c g rank rankTab w) with
        | some r => some r
        | none => tag 6 (s.stage6 c g w)

end Sys2Proof.Machine
end

