-- ==== Sys2Proof/Machine/Load.lean ====
section
/-! DEFINITION. LOAD (R46, R52, R292, R340, R374, R446, R468): the checks of a program binary in their order and what a program
that passes them leaves in the device. -/

namespace Sys2Proof.Machine

/-- A record of stage 1 of the checker. -/
def stage1 (code : Nat) (c0 c1 : Nat := 0) : FRec := { ckRec code with check := 1, c0 := c0, c1 := c1 }

/-! The configuration binding (R292). -/

/-- A Reserve granule acts as a scratchpad and is in service (R296, R300, R413). -/
def State.scratchpad (s : State) (q : Nat) : Bool :=
  bitAt (s.rsv.acting.get 0 (q / 8)) (q % 8) && !s.rsv.excluded.contains q

/-- Granules that the image binds or its SPACE 1 footprints reach. -/
def Image.granulesUsed (g : Image) : List Nat :=
  (List.range 32).filter fun q => bitAt g.granules q ||
    (g.cat.map Desc.parse).any fun d => d.space = 1 &&
      rangesMeet d.span ((q * 0x2000000 : Nat), ((q + 1) * 0x2000000 : Nat))

/-- Stack addresses that the image uses: SPACE 2 footprints, the slots of its stashes and the staging regions of the plans that its lines
name (R292, R348). -/
def Image.stackSpans (g : Image) : List (Int × Int) :=
  ((g.cat.map Desc.parse).filter fun d => d.space = 2).map Desc.span ++
    (sortNat (g.eph.flatMap fun e => (e.2.2.map Line.parse).filterMap fun l => if 0x40 ≤ l.op then some (l.f 0 16) else none)).filterMap fun j =>
      (g.bytes j).map stageSpan

/-- The map or the granules in force do not hold what the image binds (R292, R296, R304, R317, R321). -/
def State.configBad (s : State) (g : Image) : Bool :=
  decide (s.privBase < g.stackEnd) || g.granulesUsed.any (fun q => !s.scratchpad q) ||
    (s.mapMode != 0 && (List.range 8).any fun k => !s.mapStacks.contains k && g.stackSpans.any
      (rangesMeet ((k * 0xC00000000 : Nat), ((k + 1) * 0xC00000000 : Nat)))) ||
    (s.stk.retired.any fun r => !s.stk.remap.any (·.1 = r) &&
      g.stackSpans.any (rangesMeet ((r * 4096 : Nat), ((r + 1) * 4096 : Nat))))

/-- Mask of C-dies with fewer than 46 usable tiles, and the lowest count (R415). -/
def State.deficient (s : State) : Nat × Nat :=
  (toMask ((List.range 4).filter fun d => (s.usable d).length < 46),
   ((List.range 4).map fun d => (s.usable d).length).foldl min 48)

/-- The least Ephemeris region that the image binds: its longest list of lines (R530). -/
def Image.ephLeast (g : Image) : Nat := (g.eph.map fun e => e.2.2.length).foldl max 0

/-- The first item of the binding that the device does not meet, in the order of R292. -/
def State.bindBad (s : State) (c : Ctx) (g : Image) : Option FRec :=
  if s.sys.capacity || s.sys.failed then some (stage1 0x0807 s.deficient.1 s.deficient.2)
  else if s.catSize c < g.cat.length then some (stage1 0x0206)
  else if (List.range 4).any fun d => decide (s.ephSize d c < g.ephLeast) then some (stage1 0x0265)
  else if s.configBad g then some (stage1 0x0813)
  else if s.winSize c < g.winBytes then some (stage1 0x0203)
  else if ((List.range 4).zip g.pcostMax).any fun e => decide (s.tokensOf e.1 < e.2) then some (stage1 0x0601)
  else none

/-! What a load leaves. -/

/-- Local indices that a tile's image names: the slots and plans of its lines, what the records of those lines name, and the
scale tensors of MX tensors (R229, R530). -/
def Image.namesOf (g : Image) (es : List Exe) : List Nat :=
  let words (j off n : Nat) : List Nat := match g.bytes j with
    | some b => (List.range n).map fun i => bField b (off + 2 * i) 2
    | none => []
  let direct := namedBy es
  let more := es.flatMap fun e =>
    if e.l.op = 0x21 then [0, 1, 2].flatMap fun i => words (e.l.s 0) (8 + 4 * i) 1
    else if e.l.op = 0x30 then words (e.l.s 3) 4 2
    else if e.l.op = 0x42 then words (e.l.f 0 16) 0x20 1 ++ words (e.l.s 1) 2 7
    else if 0x40 ≤ e.l.op then words (e.l.f 0 16) 0x20 1 else []
  sortNat (g.withScales (direct ++ more))

/-- The program of a context (R46, R340). -/
def Image.program (g : Image) (rank : Nat) (trim : Bool) (rankTab : List Nat) : Program :=
  let w := g.whole
  let es := w.inOrder
  { n := g.n, rank := rank, gate := g.gate, trim := trim, digest := g.digest, rankTab := rankTab, ncat := g.cat.length,
    buckets := g.buckets, barriers := g.barriers, lines := tileKeys.map fun k => (k, (g.linesOf k).length),
    records := recordsOf es 2, plans := recordsOf es 3, names := w.map fun e => (e.1, g.namesOf (e.2.map (·.1))),
    copies := w.map fun e => (e.1, (namedBy (e.2.map (·.1))).length) }

/-- The context's partition holds the image's descriptors and nothing else (R217). -/
def State.putCatalogue (s : State) (c : Ctx) (g : Image) : State :=
  let lo := s.catBase c
  let t := s.catalogue.drop fun k => decide (lo ≤ k) && decide (k < lo + s.catSize c)
  { s with catalogue := ((List.range g.cat.length).zip g.cat).foldl (fun t e => t.set (lo + e.1) (BitVec.ofNat 512 e.2)) t }

/-- A tile's region holds its image's lines and nothing else (R240). -/
def State.putLines (s : State) (c : Ctx) (g : Image) (key : Nat) : State :=
  match s.physOf ⟨key / 64, key % 64⟩, g.eph.find? fun e => decide (e.1 = key / 64 ∧ e.2.1 = key % 64) with
  | some k, some e =>
    let lo := s.ephBase (key / 64) c
    s.modTile k fun t =>
      let old := t.eph.drop fun i => decide (lo ≤ i) && decide (i < lo + s.ephSize (key / 64) c)
      { t with eph := ((List.range e.2.2.length).zip e.2.2).foldl (fun u x => u.set (lo + x.1) (BitVec.ofNat 256 x.2)) old }
  | _, _ => s

/-- A CONST or FROZEN tensor in its place, on every tile that names it (R199, R222, R530). -/
def State.putData (s : State) (c : Ctx) (e : Nat × List Byte) : State :=
  let d := s.desc c e.1
  (s.holders c e.1).foldl (fun s k =>
    let v := (s.cxt c).env c k
    s.spWrite (v.space d) ((d.base : Nat) + d.footLo).toNat e.2) s

/-- The context after a load: committed state is kept for the same program digest and N (R374). -/
def CtxSt.withProgram (x : CtxSt) (p : Program) : CtxSt :=
  let same := decide (x.owner = some (p.digest, p.n))
  { x with loaded := true, prog := some p, owner := some (p.digest, p.n),
           committed := if same then x.committed else none, staged := if same then x.staged else none }

/-- A program that passed every check takes its place. -/
def State.install (s : State) (c : Ctx) (g : Image) (p : Program) : State :=
  let s := (s.putCatalogue c g).modCx c fun x => x.withProgram p
  let s := tileKeys.foldl (fun s k => s.putLines c g k) s
  g.data.foldl (fun s e => s.putData c e) s

/-! The command. -/

/-- Where LOAD's payload points: manifest, its bytes, image, its bytes, rank table, RANK, FLAGS (R446). -/
structure LoadArgs where
  man : Nat
  manN : Nat
  img : Nat
  imgN : Nat
  tab : Nat
  rank : Nat
  flags : Nat
  deriving DecidableEq, Repr

def LoadArgs.parse (p : List Byte) : LoadArgs :=
  ⟨bField p 0 8, bField p 8 8, bField p 0x10 8, bField p 0x18 8, bField p 0x20 8, bField p 0x28 2, bField p 0x2A 1⟩

/-- The load of a binary that lies in the input aperture (R46, R289): layouts, digest and rank, rank table, binding; P measured;
stages 2 to 6; then the program in place. -/
def State.loadBinary (s : State) (c : Ctx) (t : CmdTag) (a : LoadArgs) : State :=
  let m := s.hostRead a.man a.manN
  let g := s.hostRead a.img a.imgN
  match manifestBad m with
  | some o => s.refuse c t (stage1 0x0814 0 o)
  | none => match imageBad g with
    | some o => s.refuse c t (stage1 0x0814 1 o)
    | none =>
      let s := (s.countPerms 0 (sha3Perms m.length)).countPerms 1 (sha3Perms g.length)
      let n := bField m 4 4
      if n ≤ a.rank ∨ bField g 4 4 ≠ a.rank ∨ sha3 g ≠ digestOf m a.rank then s.refuse c t (stage1 0x0810)
      else if !s.inInput c a.tab (2 * n) then s.refuseCode c t 0x0808
      else
        let im := Image.of m g
        let tab := (List.range n).map fun i => s.hostNum (a.tab + 2 * i) 2
        match s.bindBad c im with
        | some r => s.refuse c t r
        | none =>
          let s := s.measure (4 + c.num) (16 + c.num) im.digest
          match s.check c im a.rank tab with
          | some r => s.refuse c t r
          | none => (s.install c im (im.program a.rank (bitAt a.flags 0) tab)).done c t

/-- LOAD after it is taken. -/
def State.loadCmd (s : State) (c : Ctx) (t : CmdTag) (p : List Byte) : State :=
  let a := LoadArgs.parse p
  if (s.cxt c).state ≠ .idle ∨ 2 ≤ a.flags ∨ zeros (p.drop 0x2B) = false then s.refuseCode c t 0x0809
  else if !s.inInput c a.man a.manN || !s.inInput c a.img a.imgN then s.refuseCode c t 0x0808
  else ((s.clearMeas (4 + c.num)).remapRetired).loadBinary c t a

def execLoad (c : Ctx) (s : State) : Host.Outcome State Fault Refusal :=
  .next (s.takeIf c 0x01 (fun _ => true) fun s => s.loadCmd c)

end Sys2Proof.Machine
end

