-- ==== Sys2Proof/Machine/Mgmt.lean ====
section
/-! DEFINITION. Management: MCTP, SPDM and PLDM (R469 to R473, R485, R486, R488). Error codes 0x03 Busy, 0x05 Unspecified and
0x07 UnsupportedRequest are DSP0274's (PRESUMED, assumption entry 29). -/

namespace Sys2Proof.Machine

/-- The security island answers: it has booted and is out of reset. -/
def State.islandUp (s : State) : Bool := s.sec.booted.isSome && decide (s.sys.pstate < 3) && !s.sys.mrstLow && !s.sys.stopped

/-- In A3 Keeper alone answers (R488). -/
def State.dark (s : State) : Bool := decide (s.sys.pstate = 3) && !s.sys.stopped && !s.sys.mrstLow

/-- An answer joins the transcript (R471). -/
def State.spdmAnswer (s : State) (code : Nat) (payload : List Byte) : State :=
  { s with sec.transcript := s.sec.transcript ++ payload }.emit (.spdm code payload)

/-- An SPDM request: answered by `f` where the island is up, with Busy in A3, not at all otherwise; it ends A1 (R471, R486,
R488). -/
def State.spdm (s : State) (f : State → State) : State :=
  if s.islandUp then f s.wake
  else if s.dark then s.emit (.spdmError 0x03)
  else s

/-- The device takes its endpoint identifier from the bus owner (R472). -/
def execMctpSetEndpointId (eid : Byte) (s : State) : Host.Outcome State Fault Refusal :=
  .next (if s.islandUp || s.sec.recovery || s.dark then { s.wake with sec.eid := eid.toNat }.emit (.mctpEid eid.toNat) else s)

/-- GET_VERSION restarts the transcript (DSP0274). -/
def execGetVersion (s : State) : Host.Outcome State Fault Refusal :=
  .next (s.spdm fun s => { s with sec.transcript := [] }.spdmAnswer 0x84 (Config.spdmBytes 0x84))

def execGetCapabilities (s : State) : Host.Outcome State Fault Refusal :=
  .next (s.spdm fun s => s.spdmAnswer 0xE1 (Config.spdmBytes 0xE1))

/-- `offered`: the requester offers ML-DSA-44 under the Kwadex registry identifier (R470). -/
def execNegotiateAlgorithms (offered : Bool) (s : State) : Host.Outcome State Fault Refusal :=
  .next (s.spdm fun s => if offered then s.spdmAnswer 0xE3 (Config.spdmBytes 0xE3) else s.emit (.spdmError 0x07))

/-- The digest of the certificate chain of slot 0 (R465, R471). -/
def execGetDigests (s : State) : Host.Outcome State Fault Refusal := .next (s.spdm fun s => s.spdmAnswer 0x81 (sha3 s.certChain))

/-- The chain of slot 0; no other slot exists (R471). -/
def execGetCertificate (slot : Nat) (s : State) : Host.Outcome State Fault Refusal :=
  .next (s.spdm fun s => if slot = 0 then s.spdmAnswer 0x82 s.certChain else s.emit (.spdmError 0x07))

/-- A signed answer: the payload, the nonce, and the signature over the transcript with them; without an identity key every
signing request gets ERROR (R465, R471). -/
def State.signed (s : State) (code : Nat) (payload nonce : List Byte) : State :=
  if s.sec.identity then
    s.spdmAnswer code (payload ++ nonce ++ Config.mldsaSign (s.sec.transcript ++ payload ++ nonce))
  else s.emit (.spdmError 0x05)

def execChallenge (nonce : List Byte) (s : State) : Host.Outcome State Fault Refusal :=
  .next (s.spdm fun s => s.signed 0x83 (sha3 s.certChain) nonce)

/-- The block of a measurement index: the digest last measured under it (R471). -/
def State.measBlock (s : State) (i : Nat) : List Byte :=
  match (s.sec.events.filter fun e => e.2.1 = i).getLast? with
  | some e => bytesLE 1 i ++ e.2.2
  | none => []

def measIndices : List Nat := [1, 2, 3, 4, 5, 6, 16, 17, 18, 19]

/-- GET_MEASUREMENTS: one block, or all under 0xFF (R471). -/
def execGetMeasurements (index : Nat) (nonce : List Byte) (s : State) : Host.Outcome State Fault Refusal :=
  .next (s.spdm fun s =>
    if index = 0xFF then s.signed 0x60 (measIndices.flatMap s.measBlock) nonce
    else if measIndices.contains index then s.signed 0x60 (s.measBlock index) nonce
    else s.emit (.spdmError 0x07))

/-- Every other request: UnsupportedRequest, or Busy while one is in progress (R471). -/
def execSpdmUnsupportedRequest (_code : Byte) (inProgress : Bool) (s : State) : Host.Outcome State Fault Refusal :=
  .next (s.spdm fun s => s.emit (.spdmError (if inProgress then 0x03 else 0x07)))

/-- PLDM type 5: the component verifies against the running device and goes to the Logbook, the image to the slot that did not
boot; else VerifyFailed (R462, R466, R473). Answers: 1 VerifyFailed, 2 ApplyComplete. -/
def State.pldmUpdate (s : State) (component : Nat) (bytes : List Byte) : State :=
  let slot := match s.sec.booted with
    | some k => 1 - k
    | none => 0
  let root := match s.sec.booted with
    | some k => imgRoot ((s.slotImage k).getD [])
    | none => []
  let ok :=
    if component = 0 then imageReason (some bytes) (s.arb 0) false = 0
    else if component = 1 then ownerReason (some bytes) root s.idDigest (s.arb 1) = 0
    else (configReason (some bytes) (if s.sec.owner then some s.sec.ownerPk else none) s.idDigest (s.arb 2)).1 = 0
  if !ok then s.emit (.pldm 5 (bytesLE 1 1))
  else
    let s := if component = 0 then (s.logQueue (0x10 + slot) bytes).logQueue 2 (fwPut s.fwNext slot 0 false)
      else s.logQueue (2 + component) bytes
    s.emit (.pldm 5 (bytesLE 1 2))

/-- In recovery only the image component can verify (R460). -/
def execPldmFirmwareUpdate (component : Nat) (bytes : List Byte) (s : State) : Host.Outcome State Fault Refusal :=
  .next (if s.islandUp || (s.sec.recovery && !s.sys.mrstLow) then s.wake.pldmUpdate component bytes else s)

/-- Monitoring: readouts, ceilings, limits; the rest of the answer is DSP0248's (R485). -/
def State.monitor (s : State) : List Byte :=
  ((List.range 10).flatMap fun d => bytesLE 4 (s.reg (pgTHM d + 0x40))) ++
    ((List.range 8).flatMap fun k => bytesLE 1 (s.stackTemp k)) ++
    ((List.range 4).flatMap fun d => bytesLE 1 (s.die d).ceilPwr ++ bytesLE 1 (s.die d).ceilThm ++ bytesLE 1 s.thr.ceilPkg) ++
    bytesLE 2 (s.reg (pgPKGP + 0x48)) ++ bytesLE 2 (s.reg (pgPKGP + 0x40)) ++ Config.pldmSensors s.free

/-- PLDM type 2, served in A3 too (R473, R485, R488). -/
def execPldmMonitorRead (s : State) : Host.Outcome State Fault Refusal :=
  .next (if s.islandUp then s.wake.emit (.pldm 2 s.wake.monitor) else if s.dark then s.emit (.pldm 2 s.monitor) else s)

/-- A PLDM request for a package reset; it also leaves A3 and the state after a trip (R479, R486, R489). -/
def execPldmPkgRequest (s : State) : Host.Outcome State Fault Refusal := .next (if s.sys.mrstLow then s else s.pkgReset 4)

def execPldmUnparkRequest (s : State) : Host.Outcome State Fault Refusal := .next (if s.islandUp then s.wake.unparkReq else s)

def execPldmDarkRequest (s : State) : Host.Outcome State Fault Refusal := .next (if s.islandUp then s.wake.darkReq else s)

end Sys2Proof.Machine
end

