-- ==== Sys2Proof/Machine/Tap.lean ====
section
/-! DEFINITION. Boundary scan (R524, R525): the two X-die TAPs. -/

namespace Sys2Proof.Machine

/-- Boundary cells of an X-die (R524). -/
def tapCells (x : Nat) : Nat := if x = 0 then 412 else 268

def State.modTap (s : State) (x : Nat) (f : Tap → Tap) : State := { s with sys.taps := modAt f x s.sys.taps }

/-- VDD_X is up (R525). -/
def State.vddX (s : State) : Bool := s.sys.rails.good.contains 2

/-- The instruction that an opcode acts as: BYPASS while VDD_X is down and for unlisted opcodes; EXTEST, HIGHZ and CLAMP only
while MRST# is low (R524, R525). -/
def State.tapActs (s : State) (op : Nat) : Nat :=
  if !s.vddX then 0xFF
  else if op = 1 ∨ op = 2 then op
  else if 3 ≤ op ∧ op ≤ 5 ∧ s.sys.mrstLow then op
  else 0xFF

/-- `n` bits of x, the lowest first, as TDO shifts them. -/
def bitsOf (n x : Nat) : List Bool := (List.range n).map x.testBit

/-- What an instruction captures and shifts out. -/
def State.tapCapture (s : State) (x op : Nat) : List Bool :=
  if op = 1 then bitsOf 32 (if x = 0 then 0x04600A35 else 0x04601A35)
  else if op = 2 ∨ op = 3 then takeD false (tapCells x) (Config.pinCapture s.free)
  else [false]

/-- An instruction enters the register and its data register is shifted once. -/
def State.tap (s : State) (x op : Nat) : State :=
  let a := s.tapActs op
  let s := s.modTap x fun t => { t with ir := op }
  let s := (s.emit (.tdo x (s.tapCapture x a))).tick
  if 3 ≤ a ∧ a ≤ 5 then s.emit (.tapPins x (a - 2)) else s

def execIdcode (x : Nat) (s : State) : Host.Outcome State Fault Refusal := .next (s.tap x 1)

/-- PRELOAD stores the cells shifted in (IEEE 1149.1). -/
def execSamplePreload (x : Nat) (cells : List Bool) (s : State) : Host.Outcome State Fault Refusal :=
  .next (let s' := s.tap x 2
    if s.vddX then s'.modTap x fun t => { t with update := takeD false (tapCells x) cells } else s')

def execExtest (x : Nat) (s : State) : Host.Outcome State Fault Refusal := .next (s.tap x 3)

def execHighz (x : Nat) (s : State) : Host.Outcome State Fault Refusal := .next (s.tap x 4)

def execClamp (x : Nat) (s : State) : Host.Outcome State Fault Refusal := .next (s.tap x 5)

def execBypass (x opcode : Nat) (s : State) : Host.Outcome State Fault Refusal := .next (s.tap x opcode)

/-- TAP reset through TRST#: IDCODE is selected in both TAPs. -/
def execTapReset (s : State) : Host.Outcome State Fault Refusal :=
  .next { s with sys.taps := s.sys.taps.map fun t => { t with ir := 1 } }

end Sys2Proof.Machine
end

