-- ==== Sys2Proof/Machine/Thermal.lean ====
section
/-! DEFINITION. Die readouts, power windows and samples, and the Shutter (R286, R480 to R484), settling pauses (R32). -/

namespace Sys2Proof.Machine

/-- Tiles of a die that the map or a test uses. -/
def State.settleDie (s old : State) (d : Nat) : State := s.settle old (dieTiles d)

/-- PWR_FLOOR, at most once a second (R483, R497). -/
def State.powerFloor (s : State) (mask : Nat) : State :=
  let s := s.tick
  if bitAt (s.reg (pgKPR + 0x44)) 2 && !Config.within 3 s.free then s
  else s.event pgKPR { code := 0x0602, die := 8, c0 := mask, c1 := s.reg (pgPKGP + 0x40) }

/-- The C-dies with a ceiling at its floor, as a mask (R483, R497). -/
def State.floorMask (s : State) : Nat := toMask ((List.range 4).filter fun d => decide ((s.die d).ceilPwr ≤ 4 ∨ (s.die d).ceilThm ≤ 4))

/-- CEIL_PWR of a C-die one step lower; at 4 it stays (R482, R483). -/
def State.lowerPwr (s : State) (d : Nat) : State :=
  if (s.die d).ceilPwr ≤ 4 then s.powerFloor s.floorMask
  else (s.modDie d fun e => { e with ceilPwr := e.ceilPwr - 1 }).settleDie s d

/-- CEIL_THM of a C-die one step lower. -/
def State.lowerThm (s : State) (d : Nat) : State :=
  if (s.die d).ceilThm ≤ 4 then s.powerFloor s.floorMask
  else (s.modDie d fun e => { e with ceilThm := e.ceilThm - 1 }).settleDie s d

/-- CEIL_PKG one step lower. -/
def State.lowerPkg (s : State) : State :=
  if s.thr.ceilPkg ≤ 4 then s.powerFloor 0x10
  else { s with thr.ceilPkg := s.thr.ceilPkg - 1 }.settle s allTiles

def State.raisePwr (s : State) (d : Nat) : State :=
  (s.modDie d fun e => { e with ceilPwr := min 16 (e.ceilPwr + 1) }).settleDie s d
def State.raiseThm (s : State) (d : Nat) : State :=
  (s.modDie d fun e => { e with ceilThm := min 16 (e.ceilThm + 1) }).settleDie s d
def State.raisePkg (s : State) : State := { s with thr.ceilPkg := min 16 (s.thr.ceilPkg + 1) }.settle s allTiles

/-- JWARN and JTHROTTLE in force (R485). -/
def State.jwarn (s : State) (d : Nat) : Nat := s.regField (pgTHM d + 0x40) 16 8
def State.jthrottle (s : State) (d : Nat) : Nat := s.regField (pgTHM d + 0x40) 24 8

/-- Readouts in a row below JTHROTTLE - 3 of a die. -/
def State.coolOf (s : State) (d : Nat) : Nat := if d < 4 then (s.die d).cool else s.thr.dieCool.get 0 d
def State.setCool (s : State) (d n : Nat) : State :=
  if d < 4 then s.modDie d fun e => { e with cool := n } else { s with thr.dieCool := s.thr.dieCool.set d n }

/-- THM_DIE with its states and records (R484). -/
def State.thmDie (s : State) (d temp : Nat) : State :=
  let a := pgTHM d + 0x40
  let w0 := bitAt (s.reg a) 8
  let t0 := bitAt (s.reg a) 9
  let w := if s.jwarn d ≤ temp then true else if temp + 2 < s.jwarn d then false else w0
  let t := if s.jthrottle d ≤ temp then true else if temp + 3 < s.jthrottle d then false else t0
  let s := s.setRegField a 0 16 (temp % 256 + 256 * b2n w + 512 * b2n t)
  let s := if w && !w0 then s.event (pgTHM d) { code := 0x0610, die := d, c0 := d, c1 := temp } else s
  if t && !t0 then s.event (pgTHM d) { code := 0x0611, die := d, c0 := d, c1 := temp } else s

/-- DIE_READOUT, every 100 us: thresholds and the Shutter; ten readouts in a row below JTHROTTLE - 3 make one raise (R482). -/
def execDieReadout (die temp : Nat) (s : State) : Host.Outcome State Fault Refusal :=
  .next (if s.sys.bringup < 2 || decide (3 ≤ s.sys.pstate) then s
  else
    let s := s.thmDie die temp
    if s.jthrottle die ≤ temp then
      let s := s.setCool die 0
      if die < 4 then s.lowerThm die else s.lowerPkg
    else if temp + 3 < s.jthrottle die then
      if 9 ≤ s.coolOf die then
        let s := s.setCool die 0
        if die < 4 then s.raiseThm die else s.raisePkg
      else s.setCool die (s.coolOf die + 1)
    else s.setCool die 0)

/-- POWER_WINDOW: energy of a 1 us window in tokens of 0.125 uJ; an overrun lowers CEIL_PWR, 1,000 windows without one raise it
(R286, R482, R509). -/
def execPowerWindow (die energy : Nat) (s : State) : Host.Outcome State Fault Refusal :=
  .next (
    let s := s.setReg (pgPWR die + 0x50) (energy % 2 ^ 20)
    if s.regField (pgPWR die + 0x40) 0 16 < energy then
      ((s.incReg (pgPWR die + 0x48)).modDie die fun e => { e with windows := 0 }).lowerPwr die
    else if 999 ≤ (s.die die).windows then (s.modDie die fun e => { e with windows := 0 }).raisePwr die
    else s.modDie die fun e => { e with windows := e.windows + 1 })

/-- PKG_POWER_SAMPLE: above 2,100 W every island pauses for 2 us and CEIL_PKG falls (R482). -/
def execPkgPowerSample (watts : Nat) (s : State) : Host.Outcome State Fault Refusal :=
  .next (
    let s := s.setReg (pgPKGP + 0x40) (watts % 2 ^ 32)
    if 2100 < watts then { s with thr.pkgPause := true }.lowerPkg else s)

/-- PKG_POWER_AVERAGE: above PKG_W CEIL_PKG falls; ten evaluations in a row below 0.95 PKG_W raise it (R482). -/
def execPkgPowerAverage (watts : Nat) (s : State) : Host.Outcome State Fault Refusal :=
  .next (
    let s := s.setReg (pgPKGP + 0x44) (watts % 2 ^ 32)
    let w := s.reg (pgPKGP + 0x48)
    if w < watts then { s with thr.pkgCool := 0 }.lowerPkg
    else if 100 * watts < 95 * w then
      if 9 ≤ s.thr.pkgCool then { s with thr.pkgCool := 0 }.raisePkg
      else { s with thr.pkgCool := s.thr.pkgCool + 1 }
    else { s with thr.pkgCool := 0 })

/-- SHUTTER_PAUSE_END: a Shutter pause is one of the whole package, and every island resumes with it (R481, R482). -/
def execShutterPauseEnd (_die _pos : Nat) (s : State) : Host.Outcome State Fault Refusal := .next { s with thr.pkgPause := false }

/-- CLOCK_SETTLE_END (R32). -/
def execClockSettleEnd (die pos : Nat) (s : State) : Host.Outcome State Fault Refusal :=
  .next (if (s.tile (48 * die + pos)).settle then s.modTile (48 * die + pos) fun t => { t with settle := false } else s)

end Sys2Proof.Machine
end

