-- ==== Sys2Proof/Machine/Dispatch.lean ====
section
/-! DEFINITION. The meaning of each command: one arm per constructor of Instr. -/

namespace Sys2Proof.Machine

def exec (i : Instr) (s : State) : Host.Outcome State Fault Refusal :=
  match i with
  | .load c => Sys2Proof.Machine.execLoad c s
  | .arm c => Sys2Proof.Machine.execArm c s
  | .disarm c => Sys2Proof.Machine.execDisarm c s
  | .step c => Sys2Proof.Machine.execStep c s
  | .revert c => Sys2Proof.Machine.execRevert c s
  | .plate c => Sys2Proof.Machine.execPlate c s
  | .restore c reply => Sys2Proof.Machine.execRestore c reply s
  | .switch c => Sys2Proof.Machine.execSwitch c s
  | .pairCopy c => Sys2Proof.Machine.execPairCopy c s
  | .coelostat c => Sys2Proof.Machine.execCoelostat c s
  | .cmdTail c idx => Sys2Proof.Machine.execCmdTail c idx s
  | .ringHead r idx => Sys2Proof.Machine.execRingHead r idx s
  | .ctxReset c v => Sys2Proof.Machine.execCtxReset c v s
  | .pause c v => Sys2Proof.Machine.execPause c v s
  | .resume c v => Sys2Proof.Machine.execResume c v s
  | .pkg v => Sys2Proof.Machine.execPkg v s
  | .park v => Sys2Proof.Machine.execPark v s
  | .a2Entry => Sys2Proof.Machine.execA2Entry s
  | .unpark v => Sys2Proof.Machine.execUnpark v s
  | .a2ExitComplete => Sys2Proof.Machine.execA2ExitComplete s
  | .dark v => Sys2Proof.Machine.execDark v s
  | .a1Entry => Sys2Proof.Machine.execA1Entry s
  | .a1Exit => Sys2Proof.Machine.execA1Exit s
  | .por => Sys2Proof.Machine.execPor s
  | .mrst => Sys2Proof.Machine.execMrst s
  | .perst => Sys2Proof.Machine.execPerst s
  | .flr => Sys2Proof.Machine.execFlr s
  | .railPgRise r => Sys2Proof.Machine.execRailPgRise r s
  | .railPgTimeout r => Sys2Proof.Machine.execRailPgTimeout r s
  | .railPgFall r => Sys2Proof.Machine.execRailPgFall r s
  | .thermalTrip die => Sys2Proof.Machine.execThermalTrip die s
  | .clockLoss clk => Sys2Proof.Machine.execClockLoss clk s
  | .bringupStepComplete rep => Sys2Proof.Machine.execBringupStepComplete rep s
  | .trialGood => Sys2Proof.Machine.execTrialGood s
  | .trialTimeout => Sys2Proof.Machine.execTrialTimeout s
  | .mctpSetEndpointId eid => Sys2Proof.Machine.execMctpSetEndpointId eid s
  | .getVersion => Sys2Proof.Machine.execGetVersion s
  | .getCapabilities => Sys2Proof.Machine.execGetCapabilities s
  | .negotiateAlgorithms offered => Sys2Proof.Machine.execNegotiateAlgorithms offered s
  | .getDigests => Sys2Proof.Machine.execGetDigests s
  | .getCertificate slot => Sys2Proof.Machine.execGetCertificate slot s
  | .challenge nonce => Sys2Proof.Machine.execChallenge nonce s
  | .getMeasurements index nonce => Sys2Proof.Machine.execGetMeasurements index nonce s
  | .spdmUnsupportedRequest code inProgress => Sys2Proof.Machine.execSpdmUnsupportedRequest code inProgress s
  | .pldmFirmwareUpdate component bytes => Sys2Proof.Machine.execPldmFirmwareUpdate component bytes s
  | .pldmMonitorRead => Sys2Proof.Machine.execPldmMonitorRead s
  | .pldmPkgRequest => Sys2Proof.Machine.execPldmPkgRequest s
  | .pldmUnparkRequest => Sys2Proof.Machine.execPldmUnparkRequest s
  | .pldmDarkRequest => Sys2Proof.Machine.execPldmDarkRequest s
  | .idcode x => Sys2Proof.Machine.execIdcode x s
  | .samplePreload x cells => Sys2Proof.Machine.execSamplePreload x cells s
  | .extest x => Sys2Proof.Machine.execExtest x s
  | .highz x => Sys2Proof.Machine.execHighz x s
  | .clamp x => Sys2Proof.Machine.execClamp x s
  | .bypass x opcode => Sys2Proof.Machine.execBypass x opcode s
  | .nop t c => Sys2Proof.Machine.execNop t c s
  | .loop t c => Sys2Proof.Machine.execLoop t c s
  | .qwin t c => Sys2Proof.Machine.execQwin t c s
  | .stepend t c => Sys2Proof.Machine.execStepend t c s
  | .pmov t c ups => Sys2Proof.Machine.execPmov t c ups s
  | .ald t c ups => Sys2Proof.Machine.execAld t c s ups
  | .aosp t c ups => Sys2Proof.Machine.execAosp t c s ups
  | .amm t c ups tc => Sys2Proof.Machine.execAmm t c ups s tc
  | .aout t c ups tc => Sys2Proof.Machine.execAout t c ups s tc
  | .vch t c ups again => Sys2Proof.Machine.execVch t c ups s again
  | .vld t c ups => Sys2Proof.Machine.execVld t c s ups
  | .vst t c => Sys2Proof.Machine.execVst t c s
  | .vsmx t c ups again => Sys2Proof.Machine.execVsmx t c ups s again
  | .vgth t c ups => Sys2Proof.Machine.execVgth t c s ups
  | .vsct t c ups => Sys2Proof.Machine.execVsct t c s ups
  | .csend t c ups => Sys2Proof.Machine.execCsend t c s ups
  | .crecv t c => Sys2Proof.Machine.execCrecv t c s
  | .cupd t c ups => Sys2Proof.Machine.execCupd t c s ups
  | .psend t c ups => Sys2Proof.Machine.execPsend t c s ups
  | .precv t c => Sys2Proof.Machine.execPrecv t c s
  | .passCommit t c tc => Sys2Proof.Machine.execPassCommit t c tc s
  | .lineComplete t c line iter tc => Sys2Proof.Machine.execLineComplete t c line iter tc s
  | .trimBlockTake donor helper c ups tc => Sys2Proof.Machine.execTrimBlockTake donor helper c ups s tc
  | .collimatorDecision die ups lost => Sys2Proof.Machine.execCollimatorDecision die ups lost s
  | .meridianPhaseComplete c num => Sys2Proof.Machine.execMeridianPhaseComplete c num s
  | .stepBoundary c => Sys2Proof.Machine.execStepBoundary c s
  | .batchLoadComplete c => Sys2Proof.Machine.execBatchLoadComplete c s
  | .shard c child digests refusal stepLo => Sys2Proof.Machine.execShard c child digests refusal s stepLo
  | .batch c digest refusal => Sys2Proof.Machine.execBatch c digest refusal s
  | .gateUp c child attempt key marker => Sys2Proof.Machine.execGateUp c child attempt key marker s
  | .stepUp c child attempt key marker => Sys2Proof.Machine.execStepUp c child attempt key marker s
  | .result c gate key marker => Sys2Proof.Machine.execResult c gate key marker s
  | .fault c kind rank fromChild attempt stepLo => Sys2Proof.Machine.execFault c kind rank fromChild s attempt stepLo
  | .stepCommit c => Sys2Proof.Machine.execStepCommit c s
  | .stepAbort c => Sys2Proof.Machine.execStepAbort c s
  | .attestTimeout c => Sys2Proof.Machine.execAttestTimeout c s
  | .ephStall t c => Sys2Proof.Machine.execEphStall t c s
  | .updateShard c record ups again => Sys2Proof.Machine.execUpdateShard c record ups again s
  | .planDataArrival c plan member stepMsg attempt stepLo data poison offset => Sys2Proof.Machine.execPlanDataArrival c plan member stepMsg attempt stepLo data poison s offset
  | .collectiveReduce c plan => Sys2Proof.Machine.execCollectiveReduce c plan s
  | .flitReceive port bytes fec => Sys2Proof.Machine.execFlitReceive port bytes fec s
  | .retryRequest port seq => Sys2Proof.Machine.execRetryRequest port seq s
  | .retryRequestTimer port => Sys2Proof.Machine.execRetryRequestTimer port s
  | .ackTimer port => Sys2Proof.Machine.execAckTimer port s
  | .linkRetrain port => Sys2Proof.Machine.execLinkRetrain port s
  | .linkRetrainComplete port ok => Sys2Proof.Machine.execLinkRetrainComplete port ok s
  | .coelostatMessage offset data poison => Sys2Proof.Machine.execCoelostatMessage offset data s poison
  | .coelostatReport child failed => Sys2Proof.Machine.execCoelostatReport child failed s
  | .plateChunkRead reader => Sys2Proof.Machine.execPlateChunkRead reader s
  | .plateDrainComplete reader => Sys2Proof.Machine.execPlateDrainComplete reader s
  | .pltWaitLimit c => Sys2Proof.Machine.execPltWaitLimit c s
  | .buddyChunkReceive sender header chunk data => Sys2Proof.Machine.execBuddyChunkReceive sender header chunk data s
  | .buddyAck c ok => Sys2Proof.Machine.execBuddyAck c ok s
  | .restoreChunkRequest port rank c stepNo chunk => Sys2Proof.Machine.execRestoreChunkRequest port rank c stepNo chunk s
  | .restoreChunkArrival c chunk data => Sys2Proof.Machine.execRestoreChunkArrival c chunk data s
  | .restoreComplete c => Sys2Proof.Machine.execRestoreComplete c s
  | .stageComplete c => Sys2Proof.Machine.execStageComplete c s
  | .pairCopyComplete c => Sys2Proof.Machine.execPairCopyComplete c s
  | .refreshInterval ch => Sys2Proof.Machine.execRefreshInterval ch s
  | .refreshIssue ch => Sys2Proof.Machine.execRefreshIssue ch s
  | .channelHoldEnd ch => Sys2Proof.Machine.execChannelHoldEnd ch s
  | .channelRetrain ch interfaceErrors ok => Sys2Proof.Machine.execChannelRetrain ch interfaceErrors ok s
  | .pprStep ch group unreadable => Sys2Proof.Machine.execPprStep ch group unreadable s
  | .spareSweepStep stack unreadable => Sys2Proof.Machine.execSpareSweepStep stack unreadable s
  | .scrubRead addr e => Sys2Proof.Machine.execScrubRead addr e s
  | .stackReadout stack temp => Sys2Proof.Machine.execStackReadout stack temp s
  | .dieReadout die temp => Sys2Proof.Machine.execDieReadout die temp s
  | .powerWindow die energy => Sys2Proof.Machine.execPowerWindow die energy s
  | .pkgPowerSample watts => Sys2Proof.Machine.execPkgPowerSample watts s
  | .pkgPowerAverage watts => Sys2Proof.Machine.execPkgPowerAverage watts s
  | .shutterPauseEnd die pos => Sys2Proof.Machine.execShutterPauseEnd die pos s
  | .clockSettleEnd die pos => Sys2Proof.Machine.execClockSettleEnd die pos s
  | .tilClk die pos v => Sys2Proof.Machine.execTilClk die pos v s
  | .rotationRequest => Sys2Proof.Machine.execRotationRequest s
  | .testAgeDue die pos => Sys2Proof.Machine.execTestAgeDue die pos s
  | .rotationPoint => Sys2Proof.Machine.execRotationPoint s
  | .migrationComplete die => Sys2Proof.Machine.execMigrationComplete die s
  | .fieldTestComplete die pos failures logicOk => Sys2Proof.Machine.execFieldTestComplete die pos failures logicOk s
  | .init u v => Sys2Proof.Machine.execInit u v s
  | .scan u v => Sys2Proof.Machine.execScan u v s
  | .scanComplete u => Sys2Proof.Machine.execScanComplete u s
  | .finish u v => Sys2Proof.Machine.execFinish u v s
  | .chkData32 u v => Sys2Proof.Machine.execChkData32 u v s
  | .chkData8 u v => Sys2Proof.Machine.execChkData8 u v s
  | .rsvGranuleCfg m v => Sys2Proof.Machine.execRsvGranuleCfg m v s
  | .granuleCfgApply m => Sys2Proof.Machine.execGranuleCfgApply m s
  | .logbookWrite type payload => Sys2Proof.Machine.execLogbookWrite type payload s
  | .logbookWriteComplete readback => Sys2Proof.Machine.execLogbookWriteComplete readback s
  | .hostReadCompletion addr ok => Sys2Proof.Machine.execHostReadCompletion addr ok s
  | .msixHoldoffEnd vector => Sys2Proof.Machine.execMsixHoldoffEnd vector s
  | .bar2Read offset len => Sys2Proof.Machine.execBar2Read offset len s
  | .bar2Write offset data => Sys2Proof.Machine.execBar2Write offset data s
  | .bar0BadAccess offset write size => Sys2Proof.Machine.execBar0BadAccess offset write s size
  | .evtClr page v => Sys2Proof.Machine.execEvtClr page v s
  | .errInject page v => Sys2Proof.Machine.execErrInject page v s
  | .lnkInject port v => Sys2Proof.Machine.execLnkInject port v s
  | .tilStallClr die pos v => Sys2Proof.Machine.execTilStallClr die pos v s
  | .colFwdDataRead x => Sys2Proof.Machine.execColFwdDataRead x s
  | .colFwdDataWrite x v => Sys2Proof.Machine.execColFwdDataWrite x v s
  | .pairLowRead offset => Sys2Proof.Machine.execPairLowRead offset s
  | .pairLowWrite offset v => Sys2Proof.Machine.execPairLowWrite offset v s
  | .pairHighWrite offset v => Sys2Proof.Machine.execPairHighWrite offset v s
  | .regWrite offset v => Sys2Proof.Machine.execRegWrite offset v s
  | .mrstRise => Sys2Proof.Machine.execMrstRise s
  | .pcieLinkDown => Sys2Proof.Machine.execPcieLinkDown s
  | .railPgFallAtPowerDown r => Sys2Proof.Machine.execRailPgFallAtPowerDown r s
  | .rankDigestGather c digests stepNo => Sys2Proof.Machine.execRankDigestGather c digests s stepNo
  | .configurationRequest => Sys2Proof.Machine.execConfigurationRequest s
  | .powerGatedPageAccess offset write => Sys2Proof.Machine.execPowerGatedPageAccess offset write s
  | .predictivePolicySparing ch => Sys2Proof.Machine.execPredictivePolicySparing ch s
  | .tapReset => Sys2Proof.Machine.execTapReset s

end Sys2Proof.Machine
end

