-- ==== Sys2Proof/Safety.lean ====
section
/-! DEFINITION. What counts as a safe state: every memory in its canonical form and one entry for each of the four contexts. -/

namespace Sys2Proof.Machine

/-- A tile keeps its store's canonical form and has a sequencer context for each program context (R36). -/
abbrev TileSt.ok (t : TileSt) : Prop := t.mem.wf = true ∧ t.cx.length = 4

/-- Every byte memory keeps its canonical form: stacks, Reserve, host, Logbook, tile stores (assumption entry 5). -/
abbrev State.memWf (s : State) : Prop :=
  s.stk.mem.wf = true ∧ s.rsv.mem.wf = true ∧ s.host.mem.wf = true ∧ s.log.flash.wf = true ∧
    ∀ e ∈ s.tiles, e.2.ok

/-- There are four contexts (R36). -/
abbrev State.ctxWf (s : State) : Prop := s.cx.length = 4

/-- A safe state. -/
abbrev State.safe (s : State) : Prop := s.memWf ∧ s.ctxWf

/-! What a command leaves besides its reports. -/

/-- A register that only reports change: ERR_STATUS and EVENT_COUNT of a page (R500), KPR_ALERT (R514), the counts of records
lost on full rings (R451). -/
def reportReg (a : Nat) : Bool :=
  decide (a % 0x1000 = 0x10) || decide (a % 0x1000 = 0x1C) || decide (a = pgKPR + 0x44) || decide (a = pgHST + 0x58) ||
    allCtx.any fun c => decide (a = hstCtx c 0x68)

/-- A context but for its ring indices and the completion entries that wait. -/
def CtxSt.core (x : CtxSt) : CtxSt := { x with cmdHead := 0, cplTail := 0, almTail := 0, fltTail := 0, cplWait := [] }

/-- The host side but for what records, entries and messages change: its memory, the event ring's tail, the record number, the
messages held. -/
def HostSt.core (x : HostSt) : HostSt :=
  { x with mem := [], poison := [], evtTail := 0, seq := 0, msixHold := [], msixDue := [], msixPend := [], early := [] }

/-- An interrupt message (R450). -/
def Out.isMsix : Out → Bool
  | .msix _ => true
  | _ => false

/-- A state without its reports: the interrupt messages sent, the free counter, the registers that only reports change, the ring indices
that the device advances, the host's memory. Two states of equal core differ in reports alone. -/
def State.core (s : State) : State :=
  { s with out := s.out.filter (fun o => !o.isMsix), free := 0, regs := s.regs.drop reportReg, cx := s.cx.map CtxSt.core, host := s.host.core }

/-- A byte of host memory that no ring of context c and no event ring holds (R440 to R442): tail block and slots of the
completion ring, slots of the Almanac and fault rings, tail block and slots of the event ring. -/
def State.offRings (s : State) (c : Ctx) (a : Nat) : Prop :=
  ¬ (s.cplBase c ≤ a ∧ a < s.cplBase c + 0x40 + 32 * s.ringSize c 4) ∧
  ¬ (s.almBase c ≤ a ∧ a < s.almBase c + 128 * s.ringSize c 8) ∧
  ¬ (s.fltBase c ≤ a ∧ a < s.fltBase c + 64 * s.ringSize c 12) ∧
  ¬ (s.evtBase ≤ a ∧ a < s.evtBase + 0x40 + 64 * s.evtSize)

/-- From s to t, a canonical host memory keeps every byte that lies on no ring of context c. -/
def State.hostKept (s t : State) (c : Ctx) : Prop :=
  s.host.mem.wf = true → ∀ a, s.offRings c a → t.host.mem.read a = s.host.mem.read a

/-! Bytes that no key of a list names (`Space.byteKey`) read in t as in s. -/

/-- Bytes of tile stores. -/
abbrev State.keepsTiles (s t : State) (ks : List Nat) : Prop :=
  ∀ k a, (∀ n ∈ ks, n < 2 ^ 40 → n / 2 ^ 24 = k → n % 2 ^ 24 ≠ a) → (t.tile k).mem.read a = (s.tile k).mem.read a

/-- Bytes of the Reserve. -/
abbrev State.keepsRsv (s t : State) (ks : List Nat) : Prop :=
  ∀ a, (∀ n ∈ ks, 2 ^ 40 ≤ n → n < 2 ^ 48 → n - 2 ^ 40 ≠ a) → t.rsv.mem.read a = s.rsv.mem.read a

/-- Bytes of the stacks, by their place behind the remap. -/
abbrev State.keepsStk (s t : State) (ks : List Nat) : Prop :=
  ∀ a, (∀ n ∈ ks, 2 ^ 48 ≤ n → n < 2 ^ 64 → s.stkPhys (n - 2 ^ 48) ≠ a) → t.stk.mem.read a = s.stk.mem.read a

/-- Bytes of host memory. -/
abbrev State.keepsHost (s t : State) (ks : List Nat) : Prop :=
  ∀ a, (∀ n ∈ ks, 2 ^ 64 ≤ n → n < 2 ^ 70 → s.winBase (ctxOfNat (n / 2 ^ 64 - 1)) + n % 2 ^ 64 ≠ a) →
    t.host.mem.read a = s.host.mem.read a

/-- Bytes of every memory. -/
abbrev State.bytesKept (s t : State) (ks : List Nat) : Prop :=
  s.keepsTiles t ks ∧ s.keepsRsv t ks ∧ s.keepsStk t ks ∧ s.keepsHost t ks

/-- t differs from s in reports alone: records, entries and messages of context c and of the event ring. -/
def State.reports (s t : State) (c : Ctx) : Prop := t.core = s.core ∧ s.hostKept t c

/-- The command `op` is the entry e at the head of the context's ring, its reserved bytes 0, in a device that takes it (R441, R444
to R448). -/
abbrev State.atHead (s : State) (c : Ctx) (op : Nat) (e : List Byte) : Prop :=
  s.headEntry c = some e ∧ s.canTake c = true ∧ entryOp e = op ∧ entryReserved e = false

end Sys2Proof.Machine
end

