-- ==== Sys2Proof/Certificates/Slice0/Obligations.lean ====
section
/-! DEFINITION. The statements for the provers: what the rules of the spec say of the block, each as a proposition. -/

open Sys2Proof Sys2Proof.Machine

/-! The block as a whole. -/

/-- A step takes the command at the front of the queue and runs it on the state with the queue's rest; on an empty queue it answers
the state it was given (the model's choice: assumption entry 3). -/
def Obligations.StepTakesFront : Prop :=
  (∀ (s : State) (c : Instr) (rest : List Instr), s.pending = c :: rest → step s = exec c { s with pending := rest }) ∧
  (∀ s : State, s.pending = [] → step s = .next s)

/-- Every step from a safe state leaves a safe state: each byte memory in its canonical form, four contexts and four sequencer contexts a tile (R36). -/
def Obligations.StepKeepsSafe : Prop :=
  ∀ s t : State, s.safe → step s = .next t → t.safe

/-- The commands that may change a committed state: the commit of a step, REVERT, SWITCH, the ends of a restore and of a pair copy, a
program load of another program (R374), the resets that clear it (R491), the entry of A3 and what resets the package. -/
def Sys2Proof.Machine.commits : Instr → Bool
  | .stepCommit _ | .revert _ | .switch _ | .restoreComplete _ | .pairCopyComplete _ | .load _ => true
  | .flr | .perst | .pkg _ | .por | .mrst | .pldmPkgRequest | .trialTimeout => true
  | .park _ | .unpark _ | .dark _ | .pldmDarkRequest => true
  | .railPgFall _ | .railPgTimeout _ | .thermalTrip _ | .clockLoss _ => true
  | _ => false

/-- A command outside `commits` leaves counter, seal and seed of every context: a step that is refused, aborted or abandoned by a
context reset among them (R182). -/
def Obligations.CommittedStateKept : Prop :=
  ∀ (i : Instr) (s t : State), s.safe → commits i = false → exec i s = .next t → t.cx.map CtxSt.committed = s.cx.map CtxSt.committed

/-- The Logbook's bytes change only as a Logbook write ends (R495) and at a trial's end, which a PKG follows (R462). -/
def Obligations.LogbookKept : Prop :=
  ∀ (i : Instr) (s t : State), s.safe → (∀ b, i ≠ .logbookWriteComplete b) → i ≠ .trialTimeout → exec i s = .next t →
    t.log.flash = s.log.flash

/-- The state after reset is safe. What reset leaves (R185, R310, R370, R420, R453, R454, R482, R485, R491, R493): every context IDLE, no program,
unarmed, not paused, no committed state, rings of the sizes of R454, all limits 1,000 ms, the bank pointer at A; ceilings 16; the stacks, the Reserve
and every tile store empty and no unit poisoned; no line in flight; ports untrained; not READY. -/
def Obligations.ResetState : Prop :=
  (State.reset.safe) ∧
  ((∀ c : Ctx, (State.reset.cxt c).state = .idle ∧ (State.reset.cxt c).loaded = false ∧ (State.reset.cxt c).armed = false ∧
     (State.reset.cxt c).paused = false ∧ (State.reset.cxt c).prog = none ∧ (State.reset.cxt c).committed = none ∧
     (State.reset.cxt c).bankB = false ∧ (State.reset.cxt c).run = none ∧ (State.reset.cxt c).stallMs = 1000 ∧
     State.reset.ringSize c 0 = 16 ∧ State.reset.ringSize c 4 = 64 ∧ State.reset.ringSize c 8 = 64 ∧ State.reset.ringSize c 12 = 64) ∧
   (∀ k, State.reset.tile k = TileSt.reset ∧ (State.reset.tile k).running = [] ∧ (State.reset.tile k).poison = []) ∧
   (∀ d, (State.reset.die d).ceilPwr = 16 ∧ (State.reset.die d).ceilThm = 16) ∧ State.reset.thr.ceilPkg = 16 ∧
   State.reset.stk.mem = [] ∧ State.reset.stk.poison = [] ∧ State.reset.rsv.mem = [] ∧
   (∀ p, (State.reset.port p).state = 0) ∧ State.reset.sys.pstate = 0 ∧ State.reset.ready = false ∧
   State.reset.reg (pgRST + 0x48) = 0x10064)

/-! Host commands taken from a ring (R444 to R448). -/

/-- The running attempt that a STEP command which passes its checks starts (R186, R187). -/
def Sys2Proof.Machine.stepStarted (tag : Nat) (p : List Byte) (ms : List Micro) : StepRun :=
  { n := bField p 0 8, seed := bField p 8 8,
    expect := if bitAt (bField p 0x3A 1) 0 then some ((p.drop 0x10).take 32) else none,
    micro := ms, tag := tag, attempt := 1, ownShard := none, refusal := none, batch := [], sealD := [], matched := false,
    marker := false, faultCode := 0, faultSeq := 0, gateKids := [], gateOwn := false, gateDone := false, stepKids := [],
    stepOwn := false, outcome := none, timedOut := false, replaying := false }

/-- A STEP at the head of a READY context's ring, with free slots, no pause, no rotation wanted, no Coelostat and full capacity,
that passes the checks of R187 is taken: LOADING, with its number, seed, expected seal and micro-batches. -/
def Obligations.StepTaken : Prop :=
  ∀ (s : State) (c : Ctx) (e : List Byte), s.atHead c 0x10 e → (s.cxt c).state = .ready → 0 < s.almFree c → 0 < s.cplFree c →
    (s.cxt c).paused = false → s.thr.rotWanted = false → s.fab.coel = none → s.sys.capacity = false →
    (s.dies.all fun d => d.2.migrating.isNone) = true → (s.popHead c).stepFault c (entryPayload e) = none →
    ∃ t, exec (.step c) s = .next t ∧ (s.modCx c fun x =>
        { x with state := .loading, prev := none,
                 run := some (stepStarted (bField e 4 4) (entryPayload e)
                   ((s.microEntries (bField (entryPayload e) 0x30 8) (bField (entryPayload e) 0x38 2)).map (·.1))) }).reports t c

/-- ARM of a loaded context in IDLE, with limits in their ranges and plates that fit, leaves it READY and armed with those limits; DISARM of a READY
context leaves it IDLE and unarmed, program and committed state kept (R446, R185). Nothing else changes but reports. REVERT while READY after a
commit: the bank pointer back where the program holds update records, the kept counter, seed and seal in force, drains of the reverted bank cancelled
(R214). SWITCH after a staged load: the pointer switches, counter, seed and seal are those of the staged header (R376). LOAD of a binary that passes every check of
R46, R292 and the checker leaves the context loaded with its program, still in IDLE. -/
def Obligations.RingCommands : Prop :=
  ((∀ (s : State) (c : Ctx) (e : List Byte), s.atHead c 0x02 e → (s.cxt c).state = .idle → (s.cxt c).loaded = true →
     0 < bField (entryPayload e) 0 4 → bField (entryPayload e) 0 4 ≤ 10000 → bField (entryPayload e) 4 4 ≤ 60000 →
     bField (entryPayload e) 8 4 ≤ 10000 → zeros ((entryPayload e).drop 0xC) = true → (s.popHead c).plateConfigBad c = false →
     ∃ t, exec (.arm c) s = .next t ∧
       (s.modCx c fun x =>
         { x with state := .ready, armed := true, attestMs := bField (entryPayload e) 0 4,
                  stallMs := if bField (entryPayload e) 4 4 = 0 then 1000 else bField (entryPayload e) 4 4,
                  pltWaitMs := if bField (entryPayload e) 8 4 = 0 then 1000 else bField (entryPayload e) 8 4, prev := none }).reports t c) ∧
   (∀ (s : State) (c : Ctx) (e : List Byte), s.atHead c 0x03 e → (s.cxt c).state = .ready → zeros (entryPayload e) = true →
     ∃ t, exec (.disarm c) s = .next t ∧ (s.modCx c fun x => { x with state := .idle, armed := false, prev := none }).reports t c)) ∧
  ((∀ (s : State) (c : Ctx) (e : List Byte) (k cur : Committed) (b : Digest), s.safe → s.atHead c 0x11 e → (s.cxt c).state = .ready →
     0 < s.almFree c → 0 < s.cplFree c → zeros (entryPayload e) = true → (s.cxt c).prev = some (k, b) → (s.cxt c).committed = some cur →
     ∃ t, exec (.revert c) s = .next t ∧
       ((s.cutReaders fun r => decide (r.ctx = c) && r.copyTo.isNone && decide (r.snap.counter = cur.counter) &&
         decide (r.bank = (s.cxt c).bankB)).modCx c fun x =>
         { x with bankB := if x.hasUpdates then !x.bankB else x.bankB, committed := some k, prev := none }).reports t c) ∧
   (∀ (s : State) (c : Ctx) (e : List Byte) (k : Committed), s.atHead c 0x22 e → (s.cxt c).state = .ready →
     zeros (entryPayload e) = true → (s.cxt c).staged = some k →
     ∃ t, exec (.switch c) s = .next t ∧
       (s.modCx c fun x => { x with bankB := !x.bankB, committed := some k, staged := none, prev := none }).reports t c)) ∧
  (∀ (s : State) (c : Ctx) (e : List Byte), s.cx.length = 4 → s.atHead c 0x01 e → (s.cxt c).state = .idle →
     let a := LoadArgs.parse (entryPayload e)
     let u := ((s.popHead c).clearMeas (4 + c.num)).remapRetired
     let m := u.hostRead a.man a.manN
     let g := u.hostRead a.img a.imgN
     let w := (u.countPerms 0 (sha3Perms m.length)).countPerms 1 (sha3Perms g.length)
     let n := bField m 4 4
     let im := Image.of m g
     let tab := (List.range n).map fun i => w.hostNum (a.tab + 2 * i) 2
     a.flags < 2 → zeros ((entryPayload e).drop 0x2B) = true → (s.popHead c).inInput c a.man a.manN = true →
     (s.popHead c).inInput c a.img a.imgN = true → manifestBad m = none → imageBad g = none → a.rank < n → bField g 4 4 = a.rank →
     sha3 g = digestOf m a.rank → w.inInput c a.tab (2 * n) = true → w.bindBad c im = none →
     (w.measure (4 + c.num) (16 + c.num) im.digest).check c im a.rank tab = none →
     ∃ t, exec (.load c) s = .next t ∧ (t.cxt c).loaded = true ∧ (t.cxt c).state = .idle ∧
       (t.cxt c).prog = some (im.program a.rank (bitAt a.flags 0) tab))

/-- ARM, DISARM, REVERT, PLATE, RESTORE, SWITCH, LOAD and STEP at the head in a state that R446 does not allow are taken and refused:
nothing changes but the refusal's reports (R445, R447). -/
def Obligations.WrongStateRefused : Prop :=
  ∀ (s : State) (c : Ctx) (e : List Byte),
    (s.atHead c 0x01 e → (s.cxt c).state ≠ .idle → ∃ t, exec (.load c) s = .next t ∧ s.reports t c) ∧
    (s.atHead c 0x02 e → (s.cxt c).state ≠ .idle ∨ (s.cxt c).loaded = false → ∃ t, exec (.arm c) s = .next t ∧ s.reports t c) ∧
    (s.atHead c 0x03 e → (s.cxt c).state ≠ .ready → ∃ t, exec (.disarm c) s = .next t ∧ s.reports t c) ∧
    (s.atHead c 0x10 e → (s.cxt c).state ≠ .ready → ∃ t, exec (.step c) s = .next t ∧ s.reports t c) ∧
    (s.atHead c 0x11 e → (s.cxt c).state ≠ .ready → ∃ t, exec (.revert c) s = .next t ∧ s.reports t c) ∧
    (s.atHead c 0x20 e → (s.cxt c).state ≠ .ready → ∃ t, exec (.plate c) s = .next t ∧ s.reports t c) ∧
    (∀ reply, s.atHead c 0x21 e → (s.cxt c).state ≠ .ready → ∃ t, exec (.restore c reply) s = .next t ∧ s.reports t c) ∧
    (s.atHead c 0x22 e → (s.cxt c).state ≠ .ready → ∃ t, exec (.switch c) s = .next t ∧ s.reports t c)

/-- An entry is written to its slot of the completion region, with the layout of R444, when a slot is free; else it waits (R448). The fault record of
a context (R291, R439, R451): 64 bytes in the next slot of its fault ring, the count of lost records one up when the ring is full; its tail moves on,
and nothing else changes but reports. -/
def Obligations.ReportEntries : Prop :=
  (∀ (s : State) (c : Ctx) (t : CmdTag) (status code alm seq : Nat), s.safe →
     (0 < s.cplFree c → (s.cxt c).cplWait = [] →
       (s.complete c t status code alm seq).hostRead (s.cplBase c + 0x40 + (s.cxt c).cplTail % s.ringSize c 4 * 32) 32 =
           bytesLE 4 t.tag ++ bytesLE 1 t.opcode ++ bytesLE 1 status ++ bytesLE 2 code ++ bytesLE 8 (s.cxt c).counter ++
             bytesLE 4 alm ++ bytesLE 4 seq ++ List.replicate 8 0#8 ∧
         ((s.complete c t status code alm seq).cxt c).cplTail = ((s.cxt c).cplTail + 1) % 2 ^ 32 ∧
         s.reports (s.complete c t status code alm seq) c) ∧
     (s.cplFree c = 0 ∨ (s.cxt c).cplWait ≠ [] →
       s.complete c t status code alm seq = s.modCx c fun x =>
         { x with cplWait := x.cplWait ++ [cplEntry t.tag t.opcode status code (s.cxt c).counter alm seq] })) ∧
  (∀ (s : State) (c : Ctx) (r : FRec), s.safe →
     (ringUsed (s.cxt c).fltHead (s.cxt c).fltTail < s.ringSize c 12 → 
         s.fltBase c + s.ringSize c 12 * 64 ≤ s.cplBase c ∨ s.cplBase c + 0x40 ≤ s.fltBase c →
       (s.ctxRecord c r).hostRead (s.fltBase c + (s.cxt c).fltTail % s.ringSize c 12 * 64) 64 =
           ({ r with ctx := c.num } : FRec).bytes (s.host.seq + 1) (Config.timeNs s.free) ∧
         ((s.ctxRecord c r).cxt c).fltTail = ((s.cxt c).fltTail + 1) % 2 ^ 32) ∧
     (s.ringSize c 12 ≤ ringUsed (s.cxt c).fltHead (s.cxt c).fltTail →
       (s.ctxRecord c r).reg (hstCtx c 0x68) = (s.reg (hstCtx c 0x68) + 1) % 2 ^ 32 ∧ (s.ctxRecord c r).host.mem = s.host.mem) ∧
     s.reports (s.ctxRecord c r) c)


/-- PLATE of a READY context with committed state, with a target, at most one other drain and none of the same bank, starts a drain of
the committed bank at once (R364, R365, R368, R369): a reader over every chunk of the partition's pairs, with the committed counter,
seal and seed of this moment; for a host target the header with COMPLETE clear at the start of the slot that does not hold the newest
complete plate, for a buddy target the header on its way to the device of PLT_BUDDY.TO. -/
def Obligations.PlateTaken : Prop :=
  (∀ (s : State) (c : Ctx) (e : List Byte), s.atHead c 0x20 e →
    let u := s.popHead c
    let f := bField (entryPayload e) 0 1
    let buddy := bitAt f 1 && decide (u.buddyTo ≠ 0xFFFF)
    (s.cxt c).state = .ready → f < 8 → zeros ((entryPayload e).drop 1) = true → (s.cxt c).committed ≠ none →
    (u.drainsOf c).length < 2 → ((u.drainsOf c).any fun r => r.bank = (s.cxt c).bankB) = false → (bitAt f 0 || buddy) = true →
    (bitAt f 0 = true → u.slotFits c (u.freeSlot c) = true) →
    ∃ t, exec (.plate c) s = .next t ∧
      (u.startDrain c (if bitAt f 0 then some (u.freeSlot c) else none) buddy (bitAt f 2) (some ⟨bField e 4 4, 0x20⟩)).reports t c) ∧
  (∀ (s : State) (c : Ctx) (host : Option Nat) (buddy dg : Bool) (tag : Option CmdTag) (k : Committed), s.safe →
    (s.cxt c).committed = some k →
    let t := s.startDrain c host buddy dg tag
    (∃ r : Reader, t.plt = { s.plt with readers := s.plt.readers ++ [r], readerNo := s.plt.readerNo + 1 } ∧ r.id = s.plt.readerNo ∧
      r.ctx = c ∧ r.bank = (s.cxt c).bankB ∧ r.copyTo = none ∧ r.snap = k ∧ r.host = host ∧ r.buddy = buddy ∧ r.digest = dg ∧ r.tag = tag ∧
      r.chunks = s.chunksFor c (s.pairs c) ∧ r.unread = List.range r.chunks.length ∧ r.got = []) ∧
    (∀ i, host = some i → bField (t.hostRead (s.slotAddr c i) 0x100) 0 4 = 1 ∧ bField (t.hostRead (s.slotAddr c i) 0x100) 4 1 = c.num ∧
      bitAt (bField (t.hostRead (s.slotAddr c i) 0x100) 5 1) 0 = false ∧
      bField (t.hostRead (s.slotAddr c i) 0x100) 0x10 8 = k.counter % 2 ^ 64) ∧
    (∀ a, (∀ i, host = some i → a < s.slotAddr c i ∨ s.slotAddr c i + 0x100 ≤ a) → t.host.mem.read a = s.host.mem.read a) ∧
    (∀ d, d ≠ c → t.cxt d = s.cxt d) ∧ t.regs = s.regs ∧ t.tiles = s.tiles ∧ t.stk = s.stk ∧ t.rsv = s.rsv ∧ t.fab = s.fab ∧ t.log = s.log)

/-- The restore that an accepted RESTORE starts: all chunks still to come (R371, R373). -/
def Sys2Proof.Machine.restoreStarted (tag : CmdTag) (p h : List Byte) : Restoring :=
  { stage := bitAt (bField p 0x15 1) 0, check := bitAt (bField p 0x15 1) 1, buddy := decide (bField p 0x14 1 = 1), addr := bField p 8 8,
    header := h, chunks := phTable h, holder := bField p 0x10 2, ports := maskBits 12 (bField p 0x12 2),
    missing := List.range (phTable h).length, tries := [], data := [], tag := tag, weightOk := none,
    failed := 0 }

/-- RESTORE in READY whose header and tables pass every check of R372 is taken: drains and copies of the context end, a staged load ends,
and all chunks are asked for, in turn over the ports for a buddy source, each request with the holder and the plate's rank, context and step
(R371, R373). It runs in the foreground unless STAGE is set (R446). -/
def Obligations.RestoreTaken : Prop :=
  ∀ (s : State) (c : Ctx) (reply e : List Byte), s.atHead c 0x21 e →
    let u := s.popHead c
    let p := entryPayload e
    let src := bField p 0x14 1
    let h := if src = 0 then u.hostRead (bField p 8 8) (plateTables (u.pairs c).length (u.chunksFor c (u.pairs c)).length) else reply
    let ports := maskBits 12 (bField p 0x12 2)
    let tag : CmdTag := ⟨bField e 4 4, 0x21⟩
    (s.cxt c).state = .ready → bField p 0x15 1 < 8 → src < 2 → bField p 0x12 2 < 0x1000 → zeros ((p.drop 0x16).take 10) = true →
    (bitAt (bField p 0x15 1) 0 = true → (u.cxt c).hasUpdates = false ∧ (s.plt.restoring.any (·.1 = c.num)) = false) →
    (src = 0 → (u.inPlates c (bField p 8 8) 0x100 || u.inInput c (bField p 8 8) 0x100) = true ∧
      (u.inPlates c (bField p 8 8) (phTotal h) || u.inInput c (bField p 8 8) (phTotal h)) = true) →
    u.headerMatches c p h = true → bitAt (bField h 5 1) 2 = false →
    (bitAt (bField p 0x15 1) 1 = true → bitAt (bField h 5 1) 1 = true) →
    let v := (u.cutContext c).cutStage c
    let w := { v with plt.restoring := v.plt.restoring.set c.num (restoreStarted tag p h) }.modCx c fun x =>
      { x with fg := if bitAt (bField p 0x15 1) 0 then none else some tag, staged := none }
    ∃ t, exec (.restore c reply) s = .next t ∧
      (if src = 1 ∧ ports ≠ [] then
        (List.range (phTable h).length).foldl (fun t i =>
          t.emit (.chunkAsk (nth 0 (i % ports.length) ports) (bField p 0x10 2) (s.cxt c).rank c (phStep h) i)) w
       else w).reports t c

/-- PAIRCOPY in a READY destination that names another source with committed state and a list of pairs that agree (R377) is taken: the
copier becomes a reader of the source's committed bank, with the source's counter, seal and seed of this moment. -/
def Obligations.PairCopyTaken : Prop :=
  ∀ (s : State) (c src : Ctx) (e : List Byte) (k : Committed), s.atHead c 0x23 e → s.cx.length = 4 →
    let u := s.popHead c
    let p := entryPayload e
    let j := bField p 2 2
    let list := u.copyList c j
    let tag : CmdTag := ⟨bField e 4 4, 0x23⟩
    bField p 0 1 = src.num → zeros ((p.drop 1).take 1) = true → zeros (p.drop 4) = true → (s.cxt src).committed = some k →
    (s.cxt c).state = .ready → src ≠ c → (u.cxt c).prog ≠ none → (u.desc c j).kind = 1 → (u.desc c j).fmt = 0xF →
    ((u.cxt c).prog.any fun q => decide (j < q.ncat)) = true → list.all (u.copyOk src c) = true →
    ∃ (t : State) (r : Reader), exec (.pairCopy c) s = .next t ∧
      r.ctx = src ∧ r.bank = (s.cxt src).bankB ∧ r.copyTo = some c ∧ r.list = list ∧ r.snap = k ∧ r.tag = some tag ∧
      r.unread = List.range r.chunks.length ∧ r.got = [] ∧ r.waiting = none ∧
      r.chunks = ((List.range list.length).flatMap fun i =>
        (pieces (u.desc src (nth (0, 0) i list).1).bankBytes).map fun q => (i, q.1, q.2)) ∧
      ({ s with plt.readers := s.plt.readers ++ [r], plt.readerNo := s.plt.readerNo + 1 }.modCx c fun x =>
        { x with fg := some tag, staged := none }).reports t c

/-- The Coelostat transfer that an accepted command starts (R353). -/
def Sys2Proof.Machine.coelStarted (s : State) (c : Ctx) (tag : CmdTag) (p : List Byte) (root : Bool) : Coel :=
  { ctx := c, root := root, addr := bField p 0x10 8, len := bField p 0x18 8, crc := bField p 0x20 8, parent := (s.coelTree p root).1,
    children := (s.coelTree p root).2, written := 0, ownOk := none, kids := [], failed := [], failSeq := 0, tag := tag, saved := s.coelSaved }

/-- COELOSTAT with no context in a step state, no transfer running and check unit 15 free, whose payload, range and tree are as R353 asks,
is taken: a participant waits for messages; the root reads its host memory and sends it on in messages of at most 1 MiB (R354). A
command whose range is not as R353 asks is refused and changes nothing. -/
def Obligations.CoelostatTaken : Prop :=
  ∀ (s : State) (c : Ctx) (e : List Byte), s.atHead c 0x30 e → s.anyStep = false → s.fab.coel = none → (s.chkSt 15).scan = false →
    let u := s.popHead c
    let p := entryPayload e
    let root := decide (bField p 0 2 = u.devId)
    let k := coelStarted u c ⟨bField e 4 4, 0x30⟩ p root
    zeros ((p.drop 2).take 6) = true → bField p 0x28 1 < 2 → bField p 0x2A 2 < 4096 → zeros (p.drop 0x2C) = true →
    (root = true → u.inInput c (bField p 8 8) k.len = true) →
    (u.coelRangeOk k.addr k.len = true → root = decide (k.parent = 0xF) → k.children.length ≤ 11 →
      (root = false → k.parent < 12) → k.children.contains k.parent = false →
      ∃ t, exec (.coelostat c) s = .next t ∧
        (root = false → ({ u with fab.coel := some k } : State).reports t c) ∧
        (root = true → (({ u with fab.coel := some k } : State).coelRead k (bField p 8 8)).reports t c)) ∧
    (u.coelRangeOk k.addr k.len = false → ∃ t, exec (.coelostat c) s = .next t ∧ s.reports t c)

/-- A message of the parent (R354), at most 1 MiB and inside the range: every byte that no remap touches and whose channel is in service
lies in the stack, every other stack byte reads as before, the message goes on to each child with the poisoned units that it names in its own range (R332), and nothing else changes but poison, the
cache's tags and counters. A report of a child counts once, its failed devices join the list; with the own check and every child's report the transfer ends
and the report goes up (R354, R355; entry 34 for the list); a check that fails leaves the range unspecified (R355; entry 20). -/
def Obligations.CoelostatRuns : Prop :=
  (∀ (s : State) (k : Coel) (off : Nat) (data : List Byte) (poison : List Nat), s.safe → s.fab.coel = some k → k.root = false → off + data.length ≤ k.len →
    data.length ≤ 0x100000 → k.ownOk = none → s.stk.remap = [] →
    (∀ i < data.length, s.stkFenced (k.addr + off + i) = false) →
    ∃ t, exec (.coelostatMessage off data poison) s = .next t ∧
      (∀ i < data.length, t.stk.mem.read (k.addr + off + i) = nth 0#8 i data) ∧
      (∀ a, a < k.addr + off ∨ k.addr + off + data.length ≤ a → t.stk.mem.read a = s.stk.mem.read a) ∧
      t.fab = { s.fab with coel := some { k with written := k.written + data.length } } ∧
      t.out = s.out ++ k.children.map (fun p => Out.coelData p off data (poison.filter (unitsOf off data.length).contains)) ∧
      t.cx = s.cx ∧ t.tiles = s.tiles ∧ t.host = s.host ∧ t.plt = s.plt ∧ t.rsv.mem = s.rsv.mem ∧ t.log = s.log) ∧
  (∀ (s : State) (k : Coel) (p : Nat) (failed : List Nat), s.fab.coel = some k → p ∈ k.children → p ∉ k.kids →
    (k.ownOk = none ∨ (∃ q ∈ k.children, q ≠ p ∧ q ∉ k.kids)) →
    exec (.coelostatReport (some p) failed) s =
      .next { s with fab.coel := some { k with kids := k.kids ++ [p], failed := k.failed ++ failed } }) ∧
  (∀ (s : State) (k : Coel), s.fab.coel = some k → k.ownOk = none → k.len ≤ k.written → k.children = [] → k.failed = [] → k.saved = [] →
    (crc64 (s.stkRead k.addr k.len) = k.crc →
      ∃ t, exec (.coelostatReport none []) s = .next t ∧
        ((({ s with fab.coel := none } : State).emit (.coelReport []))).reports t k.ctx) ∧
    (crc64 (s.stkRead k.addr k.len) ≠ k.crc →
      ∃ t, exec (.coelostatReport none []) s = .next t ∧
        ((({ s.coelRangeLost k with fab.coel := none } : State).emit (.coelReport [s.devId]))).reports t k.ctx))

/-- LOAD of a binary that passes every check of R46, R292 and the checker puts the program in its place: the Catalogue partition, the lines of each
tile's region and the constant data, the program of the context; the digest is measured in slot 4 + c (R468). The committed state is kept for the same
digest and N alone (R374). A binary that fails a check changes nothing of the Catalogue, the lines or the weights. What a load leaves in its context
(R46, R374): the program, and the committed state if the digest and N are those that own it. -/
def Obligations.ProgramLoad : Prop :=
  (∀ (s : State) (c : Ctx) (e : List Byte), s.atHead c 0x01 e → (s.cxt c).state = .idle →
     let a := LoadArgs.parse (entryPayload e)
     let u := ((s.popHead c).clearMeas (4 + c.num)).remapRetired
     let m := u.hostRead a.man a.manN
     let g := u.hostRead a.img a.imgN
     let w := (u.countPerms 0 (sha3Perms m.length)).countPerms 1 (sha3Perms g.length)
     let n := bField m 4 4
     let im := Image.of m g
     let tab := (List.range n).map fun i => w.hostNum (a.tab + 2 * i) 2
     a.flags < 2 → zeros ((entryPayload e).drop 0x2B) = true → (s.popHead c).inInput c a.man a.manN = true →
     (s.popHead c).inInput c a.img a.imgN = true →
     (manifestBad m = none → imageBad g = none → a.rank < n → bField g 4 4 = a.rank → sha3 g = digestOf m a.rank →
       w.inInput c a.tab (2 * n) = true → w.bindBad c im = none →
       (w.measure (4 + c.num) (16 + c.num) im.digest).check c im a.rank tab = none →
       ∃ t, exec (.load c) s = .next t ∧
         ((w.measure (4 + c.num) (16 + c.num) im.digest).install c im (im.program a.rank (bitAt a.flags 0) tab)).reports t c) ∧
     (manifestBad m = none → imageBad g = none → a.rank < n → bField g 4 4 = a.rank → sha3 g = digestOf m a.rank →
       (w.inInput c a.tab (2 * n) = false → ∃ t, exec (.load c) s = .next t ∧ w.reports t c) ∧
       (w.inInput c a.tab (2 * n) = true → w.bindBad c im ≠ none → ∃ t, exec (.load c) s = .next t ∧ w.reports t c) ∧
       (w.inInput c a.tab (2 * n) = true → w.bindBad c im = none →
         (w.measure (4 + c.num) (16 + c.num) im.digest).check c im a.rank tab ≠ none →
         ∃ t, exec (.load c) s = .next t ∧ (w.measure (4 + c.num) (16 + c.num) im.digest).reports t c)) ∧
     (manifestBad m ≠ none → ∃ t, exec (.load c) s = .next t ∧ u.reports t c) ∧
     (manifestBad m = none → imageBad g ≠ none → ∃ t, exec (.load c) s = .next t ∧ u.reports t c) ∧
     (manifestBad m = none → imageBad g = none → n ≤ a.rank ∨ bField g 4 4 ≠ a.rank ∨ sha3 g ≠ digestOf m a.rank →
       ∃ t, exec (.load c) s = .next t ∧ w.reports t c)) ∧
  (∀ (s : State) (c : Ctx) (g : Image) (p : Program), s.cx.length = 4 →
     ((s.install c g p).cxt c).loaded = true ∧ ((s.install c g p).cxt c).prog = some p ∧
     ((s.cxt c).owner = some (p.digest, p.n) → ((s.install c g p).cxt c).committed = (s.cxt c).committed) ∧
     ((s.cxt c).owner ≠ some (p.digest, p.n) → ((s.install c g p).cxt c).committed = none) ∧
     (∀ d, d ≠ c → (s.install c g p).cxt d = s.cxt d) ∧
     (∀ i, i < g.cat.length → g.cat.length ≤ s.catSize c →
       (s.install c g p).catalogue.get 0 (s.catBase c + i) = BitVec.ofNat 512 (nth 0 i g.cat)) ∧
     (∀ j, j < s.catBase c ∨ s.catBase c + s.catSize c ≤ j → g.cat.length ≤ s.catSize c →
       (s.install c g p).catalogue.get 0 j = s.catalogue.get 0 j) ∧
     (∀ (die lt k : Nat) (e : Nat × Nat × List Nat), die < 4 → lt < 46 → s.physOf ⟨die, lt⟩ = some k →
       (g.eph.find? fun e => decide (e.1 = die ∧ e.2.1 = lt)) = some e →
       (∀ i, i < e.2.2.length → ((s.install c g p).tile k).eph.get 0 (s.ephBase die c + i) = BitVec.ofNat 256 (nth 0 i e.2.2)) ∧
       (∀ i, i < s.ephBase die c ∨ s.ephBase die c + s.ephSize die c ≤ i → e.2.2.length ≤ s.ephSize die c →
         ((s.install c g p).tile k).eph.get 0 i = (s.tile k).eph.get 0 i)))

/-! Doorbells and context control (R443, R452 to R454). -/

/-- CMD_TAIL and the head doorbells store their index when it leaves at most the ring's size between head and tail; else the write is ignored but for
DB_RANGE (R443). A write that the device does not take, its link or power down, changes nothing. PAUSE holds the context back and takes its tiles'
power requests out of the queues; RESUME ends that; a write with both is ignored (R453). -/
def Obligations.DoorbellsAndPause : Prop :=
  ((∀ (s : State) (c : Ctx) (idx : W32), s.busUp = true →
     (ringUsed (s.cxt c).cmdHead idx.toNat ≤ s.ringSize c 0 →
       ∃ t, exec (.cmdTail c idx) s = .next t ∧ (s.wake.modCx c fun x => { x with cmdTail := idx.toNat }).reports t c) ∧
     (s.ringSize c 0 < ringUsed (s.cxt c).cmdHead idx.toNat →
       ∃ t, exec (.cmdTail c idx) s = .next t ∧ s.wake.reports t c ∧ bitAt (t.reg (pgHST + 0x10)) 3 = true)) ∧
   (∀ (s : State) (c : Ctx) (idx : W32), s.busUp = true → s.cx.length = 4 → (∀ e ∈ (s.cxt c).cplWait, e.length ≤ 32) →
     (ringUsed idx.toNat (s.cxt c).cplTail ≤ s.ringSize c 4 →
       ∃ t, exec (.ringHead (.cpl c) idx) s = .next t ∧ (s.wake.modCx c fun x => { x with cplHead := idx.toNat }).reports t c) ∧
     (s.ringSize c 4 < ringUsed idx.toNat (s.cxt c).cplTail →
       ∃ t, exec (.ringHead (.cpl c) idx) s = .next t ∧ s.wake.reports t c ∧ bitAt (t.reg (pgHST + 0x10)) 3 = true)) ∧
   (∀ (s : State) (c : Ctx) (idx : W32), s.busUp = true → ringUsed idx.toNat (s.cxt c).almTail ≤ s.ringSize c 8 →
     exec (.ringHead (.alm c) idx) s = .next (s.wake.modCx c fun x => { x with almHead := idx.toNat })) ∧
   (∀ (s : State) (c : Ctx) (idx : W32), s.busUp = true → ringUsed idx.toNat (s.cxt c).fltTail ≤ s.ringSize c 12 →
     exec (.ringHead (.flt c) idx) s = .next (s.wake.modCx c fun x => { x with fltHead := idx.toNat })) ∧
   (∀ (s : State) (idx : W32), s.busUp = true → ringUsed idx.toNat s.host.evtTail ≤ s.evtSize →
     exec (.ringHead .evt idx) s = .next { s.wake with host.evtHead := idx.toNat }) ∧
   (∀ (s : State) (c : Ctx) (idx : W32), s.busUp = true →
     (s.ringSize c 8 < ringUsed idx.toNat (s.cxt c).almTail →
       ∃ t, exec (.ringHead (.alm c) idx) s = .next t ∧ s.wake.reports t c ∧ bitAt (t.reg (pgHST + 0x10)) 3 = true) ∧
     (s.ringSize c 12 < ringUsed idx.toNat (s.cxt c).fltTail →
       ∃ t, exec (.ringHead (.flt c) idx) s = .next t ∧ s.wake.reports t c ∧ bitAt (t.reg (pgHST + 0x10)) 3 = true) ∧
     (s.evtSize < ringUsed idx.toNat s.host.evtTail →
       ∃ t, exec (.ringHead .evt idx) s = .next t ∧ s.wake.reports t c ∧ bitAt (t.reg (pgHST + 0x10)) 3 = true)) ∧
   (∀ (s : State) (c : Ctx) (r : Ring) (idx : W32), s.busUp = false →
     exec (.cmdTail c idx) s = .next s ∧ exec (.ringHead r idx) s = .next s)) ∧
  (∀ (s : State) (c : Ctx) (v : W32), s.busUp = true → bitAt v.toNat 0 = false →
     (bitAt v.toNat 1 = true → bitAt v.toNat 2 = false →
       exec (.pause c v) s = .next ({ s.wake with dies := s.dies.map fun (e : Nat × DieSt) =>
         (e.1, { e.2 with powerQ := e.2.powerQ.filter fun q => q.2 != c }) }.modCx c fun x => { x with paused := true })) ∧
     (bitAt v.toNat 2 = true → bitAt v.toNat 1 = false →
       exec (.resume c v) s = .next (s.wake.modCx c fun x => { x with paused := false })) ∧
     (bitAt v.toNat 1 = true → bitAt v.toNat 2 = true → exec (.pause c v) s = .next s.wake ∧ exec (.resume c v) s = .next s.wake))

/-- CTX_RESET acts whatever the ring's state (R454, R491): the context IDLE, without program, run or sticky flags, its untaken entries
discarded; its committed state, bank pointer, ring indices and every other context's lines and tile registers kept, and every byte of the stacks, the
Reserve and the tile stores that no running line of the context writes (R135, R179: those are undefined; entry 20). -/
def Obligations.ContextReset : Prop :=
  ∀ (s : State) (c : Ctx) (v : W32), s.busUp = true → s.safe → bitAt v.toNat 0 = true →
    ∃ t, exec (.ctxReset c v) s = .next t ∧
      (t.cxt c).state = .idle ∧ (t.cxt c).loaded = false ∧ (t.cxt c).armed = false ∧ (t.cxt c).paused = false ∧ (t.cxt c).prog = none ∧
      (t.cxt c).run = none ∧ (t.cxt c).fg = none ∧ (t.cxt c).nonfinite = [] ∧ (t.cxt c).cmdHead = (s.cxt c).cmdTail ∧
      (t.cxt c).cmdTail = (s.cxt c).cmdTail ∧ (t.cxt c).committed = (s.cxt c).committed ∧ (t.cxt c).bankB = (s.cxt c).bankB ∧
      (t.cxt c).cplHead = (s.cxt c).cplHead ∧ (t.cxt c).owner = (s.cxt c).owner ∧
      (∀ d, d ≠ c → (∀ r ∈ s.plt.readers, r.ctx = c → r.copyTo ≠ some d) → t.cxt d = s.cxt d) ∧
      s.keepsTiles t (s.outKeys c) ∧ s.keepsRsv t (s.outKeys c) ∧ s.keepsStk t (s.outKeys c) ∧
      (∀ k, (t.tile k).running = (s.tile k).running.filter (fun r => r.ctx != c) ∧ (t.tile k).poison = (s.tile k).poison ∧ (∀ d, d ≠ c → t.tctx k d = s.tctx k d)) ∧
      t.rsv = { s.rsv with mem := t.rsv.mem } ∧ t.log = s.log ∧ t.sec = s.sec ∧ t.roles = s.roles ∧ t.thr = s.thr ∧ t.chk = s.chk

/-! Rails, resets, power states (18). -/

/-- The enables rise in the order of R477: VDD_X, VDD_M, the four C-die rails, VDD1_S, VDD2_S, VDDQ, VDDA_LNK, VDDA_PCI, each once every
enabled rail is good (R478). A power-good without its enable is ignored (R520); the endpoint may link once VDD_X and VDDA_PCI are up (R493).
At power-down each power-good that falls lets the next enable fall, and so does the expiry of 10 ms on the rail lowered last where its power-good was not up. -/
def Obligations.RailSequence : Prop :=
  (nextRails [] = [2] ∧ nextRails [2] = [3] ∧ nextRails [2, 3] = [4, 5, 6, 7] ∧ nextRails [2, 3, 4, 5, 6, 7] = [8] ∧
    nextRails [2, 3, 4, 5, 6, 7, 8] = [9] ∧ nextRails [2, 3, 4, 5, 6, 7, 8, 9] = [10] ∧ nextRails [2, 3, 4, 5, 6, 7, 8, 9, 10] = [11] ∧
    nextRails [2, 3, 4, 5, 6, 7, 8, 9, 10, 11] = [12] ∧ nextRails allRails = []) ∧
  (∀ (s : State) (r : Nat), s.sys.rails.enabled.contains r = true → s.sys.rails.good.contains r = false →
    let good := insertNat r s.sys.rails.good
    let up := s.host.linkUp || (decide (r = 2 ∨ r = 12) && good.contains 2 && good.contains 12 && !s.sec.recovery)
    let on := s.sys.rails.seqUp && s.sys.rails.enabled.all fun k => good.contains k
    (on = false → exec (.railPgRise r) s = .next { s with host.linkUp := up, sys.rails := { s.sys.rails with good := good } }) ∧
    (on = true → nextRails s.sys.rails.enabled ≠ [] →
      let enabled := (nextRails s.sys.rails.enabled).foldl (fun l k => insertNat k l) s.sys.rails.enabled
      exec (.railPgRise r) s = .next { s with host.linkUp := up, sys.rails := { s.sys.rails with good := good, enabled := enabled } }) ∧
    (on = true → nextRails s.sys.rails.enabled = [] →
      exec (.railPgRise r) s = .next { s with host.linkUp := up, sys.rails := { s.sys.rails with good := good, seqUp := false } })) ∧
  (∀ (s : State) (r : Nat), s.sys.rails.enabled.contains r = false ∨ s.sys.rails.good.contains r = true →
    exec (.railPgRise r) s = .next s) ∧
  (∀ (s : State) (r : Nat), s.sys.rails.seqDown = true → s.sys.rails.good.contains r = true → s.sys.rails.enabled.contains r = false →
    ∃ t, exec (.railPgFallAtPowerDown r) s = .next t ∧ t = { s with sys.rails := t.sys.rails } ∧
      t.sys.rails.good = eraseNat r s.sys.rails.good ∧ t.sys.rails.enabled = s.sys.rails.enabled.dropLast ∧
      (t.sys.rails.seqDown = false ↔ t.sys.rails.good = [] ∧ t.sys.rails.enabled = [])) ∧
  (∀ (s : State) (r : Nat), s.sys.rails.seqDown = true → s.sys.rails.good.contains r = false → s.sys.rails.enabled.contains r = false →
    (lastDown s.sys.rails.enabled = some r → ∃ t, exec (.railPgFallAtPowerDown r) s = .next t ∧ t = { s with sys.rails := t.sys.rails } ∧
      t.sys.rails.enabled = s.sys.rails.enabled.dropLast ∧ ∀ k, k ∈ t.sys.rails.good ↔ k ∈ s.sys.rails.good) ∧
    (lastDown s.sys.rails.enabled ≠ some r → exec (.railPgFallAtPowerDown r) s = .next s))

/-- What a rail fault and a thermal trip leave (R479, R485): the rail state of A3, every island stopped, the trip latch set, contexts and
tiles at reset, stack contents gone (entry 5), the Logbook, the queue and host memory as they were. -/
def Sys2Proof.Machine.State.cutOff (s t : State) (kind which : Nat) : Prop :=
  t.sys.pstate = 3 ∧ t.sys.stopped = true ∧ t.sys.tripLatch = some (kind, which) ∧ t.sys.tripNew = true ∧ t.host.linkUp = false ∧
    t.cx = State.reset.cx ∧ t.tiles = [] ∧ t.stk.mem = [] ∧ t.rsv.mem = [] ∧ t.plt = PltSt.reset ∧ t.fab = FabSt.reset ∧
    t.log.flash = s.log.flash ∧ t.pending = s.pending ∧ t.host.mem = s.host.mem

/-- A power-good that falls under its enable, one that does not come in time, a lost reference of the dies and a thermal trip stop the device
(R478, R479, R485, R523): for a rail fault the last enable falls first, for a trip every enable falls and THERMTRIP# goes low. A lost
reference of fabric ports takes those ports down, the six of its reference alone (stated where no transfer and no buddy drain runs over them); that of
PCI Express takes its link down. -/
def Obligations.DeviceStops : Prop :=
  (∀ (s : State) (r : Nat), s.sys.stopped = false → s.sys.rails.enabled.contains r = true →
    (s.sys.rails.good.contains r = true → ∃ t, exec (.railPgFall r) s = .next t ∧ s.cutOff t 2 r ∧
      t.sys.rails.enabled = s.sys.rails.enabled.dropLast ∧ t.sys.rails.good = s.sys.rails.good) ∧
    (s.sys.rails.good.contains r = false → s.sys.rails.seqUp = true → ∃ t, exec (.railPgTimeout r) s = .next t ∧ s.cutOff t 2 r ∧
      t.sys.rails.enabled = s.sys.rails.enabled.dropLast)) ∧
  (∀ (s : State) (die : Nat), s.sys.stopped = false → s.sys.pstate ≠ 3 →
    ∃ t, exec (.thermalTrip die) s = .next t ∧ s.cutOff t 1 die ∧ t.sys.rails.enabled = [] ∧ t.sys.thermTrip = true) ∧
  (∀ (s : State) (clk : Nat), clk < 6 → s.sys.stopped = false →
    ∃ t, exec (.clockLoss clk) s = .next t ∧ s.cutOff t 3 clk ∧ t.sys.rails.enabled = s.sys.rails.enabled.dropLast) ∧
  (∀ (s : State) (clk : Nat), clk = 6 ∨ clk = 7 → s.fab.coel = none → (∀ r ∈ s.plt.readers, r.buddy = false) →
    ∃ t, exec (.clockLoss clk) s = .next t ∧ (∀ p, 6 * (clk - 6) ≤ p → p < 6 * (clk - 6) + 6 → (t.port p).state = 3) ∧
      (∀ p, p < 6 * (clk - 6) ∨ 6 * (clk - 6) + 6 ≤ p → t.port p = s.port p) ∧
      ({ s with fab.ports := t.fab.ports } : State).reports t .train) ∧
  (∀ (s : State) (clk : Nat), 8 ≤ clk → exec (.clockLoss clk) s = .next { s with host.linkUp := false })

/-- What a package reset leaves (R489, R491): the Logbook and the trip latch, the queue and host memory; contexts, tiles, stacks, Reserve,
security state and registers at reset, bring-up to run from the security island's boot, the cause in RST_STATUS. -/
def Sys2Proof.Machine.State.packageReset (s t : State) (cause : Nat) : Prop :=
  t.cx = State.reset.cx ∧ t.tiles = [] ∧ t.catalogue = [] ∧ t.dies = [] ∧ t.roles = [] ∧ t.stk.mem = [] ∧ t.rsv = RsvSt.reset ∧
    t.plt = PltSt.reset ∧ t.fab = FabSt.reset ∧ t.thr = ThrSt.reset ∧ t.chk = [] ∧ t.sec = Sec.reset ∧ t.sys.bringup = 1 ∧
    t.sys.failed = false ∧ t.sys.pstate = 0 ∧ t.ready = false ∧ t.regField (pgRST + 0x44) 4 4 = cause ∧
    t.log.flash = s.log.flash ∧ t.log.queue = [] ∧ t.sys.tripLatch = s.sys.tripLatch ∧ t.pending = s.pending ∧ t.host.mem = s.host.mem

/-- RST_CTRL.PKG, MRST#, a PLDM request and POR reset the package with their causes, 6 when PKG leaves A3 (R489, R492); rails that are up stay
up under PKG and none is up after POR. MRST# holds the device in reset until it rises (R520). -/
def Obligations.PackageResets : Prop :=
  (∀ (s : State) (v : W32), s.busUp = true → bitAt v.toNat 0 = true → rstBits v.toNat = 1 →
    ∃ t, exec (.pkg v) s = .next t ∧ s.packageReset t 3 ∧ t.sys.rails.enabled = s.sys.rails.enabled ∧ t.sys.rails.good = s.sys.rails.good) ∧
  (∀ s : State, ∃ t, exec .mrst s = .next t ∧ s.packageReset t (if s.sys.pstate = 3 ∧ s.sys.stopped = false then 6 else 2) ∧
    t.sys.mrstLow = true) ∧
  (∀ s : State, exec .mrstRise s = .next { s with sys.mrstLow := false }) ∧
  (∀ s : State, s.sys.mrstLow = false → ∃ t, exec .pldmPkgRequest s = .next t ∧
    s.packageReset t (if s.sys.pstate = 3 ∧ s.sys.stopped = false then 6 else 4)) ∧
  (∀ s : State, s.sys.mrstLow = true → exec .pldmPkgRequest s = .next s) ∧
  (∀ s : State, ∃ t, exec .por s = .next t ∧ s.packageReset t 1 ∧ t.sys.rails.enabled = [] ∧ t.sys.rails.good = [] ∧
    t.host.linkUp = false)

/-- A write of RST_CTRL with two bits, a PARK while a step, a background command or a Coelostat runs or in A2, an UNPARK outside A2 and a DARK with
an armed context set RST_STATUS.REFUSED and change nothing else (R486, R492). -/
def Obligations.PowerRequestsRefused : Prop :=
  ∀ (s : State) (v : W32), s.busUp = true →
    let r := s.wake.setReg (pgRST + 0x44) (s.reg (pgRST + 0x44) ||| 8)
    (1 < rstBits v.toNat → (bitAt v.toNat 0 = true → exec (.pkg v) s = .next r) ∧ (bitAt v.toNat 1 = true → exec (.park v) s = .next r) ∧
      (bitAt v.toNat 2 = true → exec (.unpark v) s = .next r) ∧ (bitAt v.toNat 3 = true → exec (.dark v) s = .next r)) ∧
    (rstBits v.toNat = 1 → bitAt v.toNat 1 = true →
      s.anyStep = true ∨ s.background = true ∨ s.fab.coel ≠ none ∨ s.sys.pstate = 2 → exec (.park v) s = .next r) ∧
    (rstBits v.toNat = 1 → bitAt v.toNat 2 = true → s.sys.pstate ≠ 2 → exec (.unpark v) s = .next r) ∧
    (rstBits v.toNat = 1 → bitAt v.toNat 3 = true → s.anyArmed = true → exec (.dark v) s = .next r)

/-- A2 (R486, R487): PARK is accepted, the device enters once drains, copies, restores and an incoming buddy plate have ended; every context is
IDLE with no program, committed state kept, tiles and Catalogue gone, Reserve and stacks kept. UNPARK is accepted in A2, and the
exit restores A0 with every ceiling at 16 (R482). -/
def Obligations.ParkAndUnpark : Prop :=
  (∀ (s : State) (v : W32), s.busUp = true → rstBits v.toNat = 1 → bitAt v.toNat 1 = true → s.anyStep = false → s.background = false →
    s.fab.coel = none → s.sys.pstate < 2 → exec (.park v) s = .next { s.wake with sys.parking := true }) ∧
  (∀ s : State, s.sys.parking = true → s.anyStep = false → s.plt.readers = [] → s.plt.rx = none → s.plt.restoring = [] → s.fab.coel = none →
    ∃ t, exec .a2Entry s = .next t ∧ t.sys = { s.sys with parking := false, pstate := 2 } ∧ t.cx.length = s.cx.length ∧
      (∀ c : Ctx, (t.cxt c).state = .idle ∧ (t.cxt c).loaded = false ∧ (t.cxt c).prog = none ∧ (t.cxt c).committed = (s.cxt c).committed ∧
        (t.cxt c).bankB = (s.cxt c).bankB ∧ (t.cxt c).cmdTail = (s.cxt c).cmdTail ∧ (t.cxt c).staged = (s.cxt c).staged) ∧
      t.tiles = [] ∧ t.catalogue = [] ∧ t.stk.mem = s.stk.mem ∧ t.rsv.mem = s.rsv.mem ∧ t.rsv.cache = [] ∧ t.regs = s.regs ∧
      t.host = s.host ∧ t.log = s.log ∧ t.sec = s.sec ∧ t.roles = s.roles) ∧
  (∀ s : State, s.sys.parking = false ∨ s.anyStep = true ∨ s.plt.readers ≠ [] ∨ s.plt.rx ≠ none ∨ s.plt.restoring ≠ [] ∨ s.fab.coel ≠ none →
    exec .a2Entry s = .next s) ∧
  (∀ (s : State) (v : W32), s.busUp = true → rstBits v.toNat = 1 → bitAt v.toNat 2 = true → s.sys.pstate = 2 →
    exec (.unpark v) s = .next { s with sys.unparking := true }) ∧
  (∀ s : State, s.islandUp = true → s.sys.pstate < 2 →
    exec .pldmUnparkRequest s = .next (s.wake.setReg (pgRST + 0x44) (s.reg (pgRST + 0x44) ||| 8))) ∧
  (∀ s : State, s.islandUp = true → s.sys.pstate = 2 → exec .pldmUnparkRequest s = .next { s with sys.unparking := true }) ∧
  (∀ s : State, s.sys.unparking = true → s.sys.pstate = 2 →
    ∃ t, exec .a2ExitComplete s = .next t ∧ t.core = s.leaveA2.core ∧ t.sys.pstate = 0 ∧ t.thr.ceilPkg = 16 ∧
      (∀ d, (t.die d).ceilPwr = 16 ∧ (t.die d).ceilThm = 16) ∧
      (s.host.mem.wf = true → ∀ a, (∀ c, s.offRings c a) → t.host.mem.read a = s.host.mem.read a)) ∧
  (∀ s : State, s.sys.unparking = false → exec .a2ExitComplete s = .next s)

/-- A1 is entered in A0 by a ready device with nothing to do and A1_EN set, and every access ends it (R486). A3 is entered on DARK or a PLDM request
with no context armed: contexts and tiles at reset, the Logbook kept, the link off, the rails on their way down, the last cause kept (R486, R491). PARK of an idle device is accepted and
leads to A2, UNPARK or a PLDM request in A2 is accepted and leads to A0 (R486, R487). -/
def Obligations.IdleAndDark : Prop :=
  (∀ (s : State) (v : W32), s.busUp = true → rstBits v.toNat = 1 →
    (bitAt v.toNat 1 = true → s.anyStep = false → s.background = false → s.fab.coel = none → s.sys.pstate < 2 →
      exec (.park v) s = .next { s.wake with sys.parking := true }) ∧
    (bitAt v.toNat 2 = true → s.sys.pstate = 2 → exec (.unpark v) s = .next { s with sys.unparking := true })) ∧
  (∀ s : State, (s.islandUp = true → s.sys.pstate = 2 → exec .pldmUnparkRequest s = .next { s with sys.unparking := true }) ∧
    (s.sys.parking = true → s.anyStep = false → s.plt.readers = [] → s.plt.rx = none → s.plt.restoring = [] → s.fab.coel = none →
      ∃ t, exec .a2Entry s = .next t ∧ t.sys = { s.sys with parking := false, pstate := 2 }) ∧
    (s.sys.unparking = true → s.sys.pstate = 2 → ∃ t, exec .a2ExitComplete s = .next t ∧ t.sys.pstate = 0)) ∧
  (∀ s : State, s.ready = true → s.sys.pstate = 0 → bitAt (s.reg (pgRST + 0x48)) 16 = true → s.quiet = true → s.sys.parking = false →
    exec .a1Entry s = .next { s with sys.pstate := 1 }) ∧
  (∀ s : State, s.ready = false ∨ s.sys.pstate ≠ 0 ∨ bitAt (s.reg (pgRST + 0x48)) 16 = false ∨ s.quiet = false ∨ s.sys.parking = true →
    exec .a1Entry s = .next s) ∧
  (∀ s : State, (s.sys.pstate = 1 → exec .a1Exit s = .next { s with sys.pstate := 0 }) ∧ (s.sys.pstate ≠ 1 → exec .a1Exit s = .next s)) ∧
  (∀ (s : State) (v : W32), s.anyArmed = false →
    let dark (t : State) : Prop := t.sys.pstate = 3 ∧ t.host.linkUp = false ∧ t.sys.stopped = false ∧ t.cx = State.reset.cx ∧ t.tiles = [] ∧
      t.stk.mem = [] ∧ t.log.flash = s.log.flash ∧ t.sys.tripLatch = s.sys.tripLatch ∧ t.sys.rails.enabled = s.sys.rails.enabled.dropLast ∧
      t.sys.rails.good = s.sys.rails.good ∧ t.regField (pgRST + 0x44) 4 4 = s.regField (pgRST + 0x44) 4 4 ∧ t.pending = s.pending ∧
      t.host.mem = s.host.mem
    (s.busUp = true → rstBits v.toNat = 1 → bitAt v.toNat 3 = true → ∃ t, exec (.dark v) s = .next t ∧ dark t) ∧
    (s.islandUp = true → ∃ t, exec .pldmDarkRequest s = .next t ∧ dark t))

/-- FLR and PERST# (R489 to R491): every context at reset, no committed state, measurement slots 4 to 7 zero and slots 0 to 3 kept (R469), tile
stores cleared, registers of reset kind FLR at their reset values, the others kept; a tile settles where its setting in force changes (R32); stacks, Reserve and host memory kept but for bytes that running lines
write (R135, R179; entry 20); Logbook, rotation map, ceilings kept. The device leaves A1 and A2 first. -/
def Obligations.FunctionResets : Prop :=
  ∀ s : State, s.safe → s.sec.meas.length = 8 → s.fab.coel = none → (∀ r ∈ s.plt.readers, r.copyTo = none) → s.sys.pstate < 3 →
    let after (t : State) : Prop :=
      (∀ c : Ctx, t.cxt c = CtxSt.reset) ∧
      (∀ i, i < 4 → nth [] i t.sec.meas = nth [] i s.sec.meas) ∧
      (∀ i, 4 ≤ i → i < 8 → nth [] i t.sec.meas = List.replicate 32 0#8) ∧
      (∀ k, (t.tile k).mem = [] ∧ (t.tile k).running = [] ∧ ((s.tile k).settle = true → (t.tile k).settle = true) ∧
        (s.sys.pstate < 2 → (t.tile k).settle = ((s.tile k).settle || (decide (k ∈ allTiles) && decide (t.tilEff k ≠ s.tilEff k))))) ∧
      (∀ a r, regRow a = some r → r.flr = true → t.reg a = regReset a % 2 ^ 32) ∧
      (∀ a r, regRow a = some r → r.flr = false → r.ctx = false → t.reg a = s.reg a) ∧
      s.keepsStk t (allCtx.flatMap s.outKeys) ∧ s.keepsRsv t (allCtx.flatMap s.outKeys) ∧ t.log = s.log ∧ t.roles = s.roles ∧
      (s.sys.pstate < 2 → t.thr = s.thr ∧ ∀ d, (t.die d).ceilPwr = (s.die d).ceilPwr ∧ (t.die d).ceilThm = (s.die d).ceilThm) ∧
      (s.sys.pstate = 2 → t.thr.ceilPkg = 16 ∧ ∀ d, (t.die d).ceilPwr = 16 ∧ (t.die d).ceilThm = 16) ∧
      t.plt.readers = [] ∧ t.plt.restoring = [] ∧ s.keepsHost t (allCtx.flatMap s.outKeys) ∧ t.sys.pstate = 0
    (s.busUp = true → ∃ t, exec .flr s = .next t ∧ after t ∧ t.host.linkUp = s.host.linkUp) ∧
    (s.sys.mrstLow = false → s.sys.stopped = false → ∃ t, exec .perst s = .next t ∧ after t ∧ t.host.linkUp = s.endpointUp) ∧
    (s.busUp = false → exec .flr s = .next s) ∧
    (s.sys.mrstLow = true → exec .perst s = .next s)

/-- Each bring-up step completes in its turn and nothing runs a context meanwhile (R493): the boot enables the rails, step 6 leaves the stacks
zero and unpoisoned, the last step sets READY. A failed step sets FAILED and is recorded. A trial image that reached READY is no trial any more once it is recorded as good; one that did
not in time starts bring-up again from its first step (R462). -/
def Obligations.BringupSteps : Prop :=
  (∀ s : State, s.sec.trial = true → s.ready = true → ∃ t, exec .trialGood s = .next t ∧ t.sec = { s.sec with trial := false } ∧ t.sys = s.sys) ∧
  (∀ (s : State) (k : Nat), s.sec.booted = some k → k < 2 → s.sec.trial = true → s.sys.pstate < 3 →
    ∃ t, exec .trialTimeout s = .next t ∧ t.sys.bringup = 1 ∧ t.sec = Sec.reset) ∧
  (∀ (s : State) (rep : BringupReport), s.sys.stopped = false → s.sys.pstate ≠ 3 → s.sys.mrstLow = false → s.sys.failed = false →
    s.sec.recovery = false → 1 ≤ s.sys.bringup → s.sys.bringup < 8 → s.fab.coel = none →
    (s.sys.bringup = 2 → ∀ r ∈ allRails, s.sys.rails.good.contains r = true) →
    (rep.ok = true → (s.sys.bringup = 1 → s.boot.sec.recovery = false) →
      ∃ t, exec (.bringupStepComplete rep) s = .next t ∧ t.sys.bringup = s.sys.bringup + 1 ∧ t.cx = s.cx ∧ t.tiles = s.tiles ∧
        t.log.flash = s.log.flash ∧ t.pending = s.pending ∧
        (s.sys.bringup = 1 → t.sys.rails.seqUp = true ∨ nextRails s.sys.rails.enabled = []) ∧
        (s.sys.bringup = 5 → t.stk.mem = [] ∧ t.stk.poison = [] ∧
          ((∀ ch ∈ s.sparedChannels, ch < 128) → bitAt (t.reg stkMapCfg) 31 = true)) ∧
        (s.sys.bringup = 7 → t.ready = true ∧ t.sys.hdrReady = true)) ∧
    (rep.ok = false → ∃ t, exec (.bringupStepComplete rep) s = .next t ∧ t.sys.failed = true ∧ t.ready = false ∧
      ({ s with sys.failed := true } : State).reports t .train)) ∧
  (∀ (s : State) (rep : BringupReport), s.sys.failed = true ∨ s.sys.bringup = 8 ∨ s.sys.mrstLow = true →
    exec (.bringupStepComplete rep) s = .next s)

/-- A trial image that brings the device up is recorded as good: the firmware state with its SVN and BUILD and, where its SVN is above the counter, the
raised counter go to the Logbook's queue, each built on the record that the waiting writes leave (R462, R463); one that does not is counted as failed in the
Logbook, its slot rejected at the second failure, and a package reset with cause 5 follows (R462, R489). -/
def Obligations.Trials : Prop :=
  (∀ s : State, s.sec.trial = true → s.ready = true →
    ∃ t, exec .trialGood s = .next t ∧ t.sec = { s.sec with trial := false } ∧
      t.log.queue = s.log.queue ++ [(2, s.fwNext.take 4 ++ bytesLE 4 s.sec.svn ++ bytesLE 4 s.sec.build)] ++
        (if s.arbNext 0 < s.sec.svn then [(1, bytesLE 4 s.sec.svn ++ bytesLE 4 (s.arbNext 1) ++ bytesLE 4 (s.arbNext 2))] else []) ∧
      t.log.flash = s.log.flash ∧ t.cx = s.cx ∧ t.regs = s.regs ∧ t.host = s.host ∧ t.sys = s.sys) ∧
  (∀ s : State, s.sec.trial = false ∨ s.ready = false → exec .trialGood s = .next s) ∧
  (∀ (s : State) (k : Nat), s.sec.booted = some k → k < 2 → s.sec.trial = true → s.sys.pstate < 3 →
    ∃ t, exec .trialTimeout s = .next t ∧ t.sys.bringup = 1 ∧ t.sec = Sec.reset ∧ t.cx = State.reset.cx ∧
      t.regField (pgRST + 0x44) 4 4 = 5 ∧ t.pending = s.pending ∧
      t.log.flash = (s.logNow 2 (fwPut s.fwState k (fwFails s.fwState k + 1) (2 ≤ fwFails s.fwState k + 1))).log.flash) ∧
  (∀ s : State, s.sec.booted = none ∨ s.sec.trial = false → exec .trialTimeout s = .next s)

/-! Management and boundary scan (17, 20). -/

/-- While the security island is up, the listed SPDM requests are answered, the answer joins the transcript and goes out, GET_VERSION starts a new
transcript, signed answers carry the nonce and a signature over the transcript; an unlisted request, another slot or index gets UnsupportedRequest,
one that meets a request in progress Busy, and a signing request without an identity key an error (R465, R470, R471; the codes of DSP0274 and the
opaque bytes are the model's, entries 10 and 29). Each ends A1 (R486); a device whose island is down and that is not dark answers nothing. -/
def Obligations.SpdmAnswers : Prop :=
  ∀ s : State,
    let w := s.wake
    let say (u : State) (code : Nat) (b : List Byte) : State :=
      { u with sec.transcript := u.sec.transcript ++ b, out := u.out ++ [.spdm code b] }
    let no (code : Nat) : State := { w with out := s.out ++ [.spdmError code] }
    let sign (b nonce : List Byte) : List Byte := b ++ nonce ++ Config.mldsaSign (s.sec.transcript ++ b ++ nonce)
    (s.islandUp = true →
      exec .getVersion s = .next (say { w with sec.transcript := [] } 0x84 (Config.spdmBytes 0x84)) ∧
      exec .getCapabilities s = .next (say w 0xE1 (Config.spdmBytes 0xE1)) ∧
      exec (.negotiateAlgorithms true) s = .next (say w 0xE3 (Config.spdmBytes 0xE3)) ∧
      exec (.negotiateAlgorithms false) s = .next (no 0x07) ∧
      exec .getDigests s = .next (say w 0x81 (sha3 s.certChain)) ∧
      exec (.getCertificate 0) s = .next (say w 0x82 s.certChain) ∧
      (∀ k, k ≠ 0 → exec (.getCertificate k) s = .next (no 0x07)) ∧
      (∀ nonce, s.sec.identity = true → exec (.challenge nonce) s = .next (say w 0x83 (sign (sha3 s.certChain) nonce))) ∧
      (∀ i nonce, s.sec.identity = true → i ∈ measIndices →
        exec (.getMeasurements i nonce) s = .next (say w 0x60 (sign (s.measBlock i) nonce))) ∧
      (∀ nonce, s.sec.identity = true →
        exec (.getMeasurements 0xFF nonce) s = .next (say w 0x60 (sign (measIndices.flatMap s.measBlock) nonce))) ∧
      (∀ i nonce, i ≠ 0xFF → i ∉ measIndices → exec (.getMeasurements i nonce) s = .next (no 0x07)) ∧
      (∀ nonce, s.sec.identity = false → exec (.challenge nonce) s = .next (no 0x05)) ∧
      (∀ b, exec (.spdmUnsupportedRequest b false) s = .next (no 0x07) ∧ exec (.spdmUnsupportedRequest b true) s = .next (no 0x03))) ∧
    (s.islandUp = false → s.dark = false → ∀ nonce i b,
      exec .getVersion s = .next s ∧ exec .getCapabilities s = .next s ∧ exec (.negotiateAlgorithms true) s = .next s ∧
      exec .getDigests s = .next s ∧ exec (.getCertificate i) s = .next s ∧ exec (.challenge nonce) s = .next s ∧
      exec (.getMeasurements i nonce) s = .next s ∧ exec (.spdmUnsupportedRequest b false) s = .next s)

/-- R488: DARK clears the security island's internal memory and leaves it in reset; in A3 Keeper answers MCTP, serves PLDM type 2 and answers every
SPDM request with Busy; the island's own services do not answer. -/
def Obligations.ManagementInDark : Prop :=
  (∀ s t : State, s.islandUp = true → s.anyArmed = false → exec .pldmDarkRequest s = .next t →
    t.sec = Sec.reset ∧ t.islandUp = false ∧ t.dark = true) ∧
  (∀ (s : State) (v : W32) (t : State), s.busUp = true → rstBits v.toNat = 1 → bitAt v.toNat 3 = true → s.anyArmed = false →
    exec (.dark v) s = .next t → t.sec = Sec.reset ∧ t.islandUp = false ∧ t.dark = true) ∧
  (∀ s : State, s.dark = true →
    let busy : State := { s with out := s.out ++ [.spdmError 0x03] }
    (∀ eid, exec (.mctpSetEndpointId eid) s = .next { s with sec.eid := eid.toNat, out := s.out ++ [.mctpEid eid.toNat] }) ∧
    (∃ b, exec .pldmMonitorRead s = .next { s with out := s.out ++ [.pldm 2 b] }) ∧
    exec .getVersion s = .next busy ∧ exec .getCapabilities s = .next busy ∧ (∀ o, exec (.negotiateAlgorithms o) s = .next busy) ∧
    exec .getDigests s = .next busy ∧ (∀ k, exec (.getCertificate k) s = .next busy) ∧ (∀ n, exec (.challenge n) s = .next busy) ∧
    (∀ i n, exec (.getMeasurements i n) s = .next busy) ∧ (∀ b p, exec (.spdmUnsupportedRequest b p) s = .next busy) ∧
    (s.sec.recovery = false → ∀ k b, exec (.pldmFirmwareUpdate k b) s = .next s) ∧
    exec .pldmUnparkRequest s = .next s ∧ exec .pldmDarkRequest s = .next s)

/-- The device takes its endpoint identifier (R472), serves monitoring (R473, R485), and takes a firmware component that verifies into the Logbook's
queue, the image for the slot that did not boot with its failures cleared; one that does not verify is answered VerifyFailed and discarded
(R462, R466, R473). -/
def Obligations.ManagementServices : Prop :=
  ∀ s : State, s.islandUp = true →
    let w := s.wake
    (∀ eid, exec (.mctpSetEndpointId eid) s = .next { w with sec.eid := eid.toNat, out := s.out ++ [.mctpEid eid.toNat] }) ∧
    (∃ b, exec .pldmMonitorRead s = .next { w with out := s.out ++ [.pldm 2 b] }) ∧
    (∀ (k : Nat) (i : List Byte), s.sec.booted = some k →
      (imageReason (some i) (s.arb 0) false = 0 → exec (.pldmFirmwareUpdate 0 i) s = .next { w with
        log.queue := s.log.queue ++ [(0x10 + (1 - k), i), (2, fwPut s.fwNext (1 - k) 0 false)], out := s.out ++ [.pldm 5 [2#8]] }) ∧
      (imageReason (some i) (s.arb 0) false ≠ 0 → exec (.pldmFirmwareUpdate 0 i) s = .next { w with out := s.out ++ [.pldm 5 [1#8]] })) ∧
    (∀ (k : Nat) (b : List Byte), s.sec.booted = some k →
      (ownerReason (some b) (imgRoot ((s.slotImage k).getD [])) s.idDigest (s.arb 1) = 0 →
        exec (.pldmFirmwareUpdate 1 b) s = .next { w with log.queue := s.log.queue ++ [(3, b)], out := s.out ++ [.pldm 5 [2#8]] }) ∧
      (ownerReason (some b) (imgRoot ((s.slotImage k).getD [])) s.idDigest (s.arb 1) ≠ 0 →
        exec (.pldmFirmwareUpdate 1 b) s = .next { w with out := s.out ++ [.pldm 5 [1#8]] })) ∧
    (∀ b : List Byte,
      let r := (configReason (some b) (if s.sec.owner then some s.sec.ownerPk else none) s.idDigest (s.arb 2)).1
      (r = 0 → exec (.pldmFirmwareUpdate 2 b) s = .next { w with log.queue := s.log.queue ++ [(4, b)], out := s.out ++ [.pldm 5 [2#8]] }) ∧
      (r ≠ 0 → exec (.pldmFirmwareUpdate 2 b) s = .next { w with out := s.out ++ [.pldm 5 [1#8]] }))

/-- Boundary scan (R524, R525): the instruction enters the TAP's register; IDCODE shifts out the die's code, SAMPLE and EXTEST the cells; EXTEST, HIGHZ
and CLAMP take the pins only while MRST# is low; while VDD_X is down, and for every other opcode, one bit of bypass. TAP reset selects
IDCODE. Nothing else changes but the free counter. -/
def Obligations.BoundaryScan : Prop :=
  (∀ (s : State) (x : Nat), x < 2 → s.sys.taps.length = 2 →
    let at' (op : Nat) (os : List Out) : State :=
      { s with sys.taps := modAt (fun t => { t with ir := op }) x s.sys.taps, out := s.out ++ os, free := s.free + 1 }
    let code := bitsOf 32 (if x = 0 then 0x04600A35 else 0x04601A35)
    let cells := takeD false (if x = 0 then 412 else 268) (Config.pinCapture s.free)
    (s.vddX = true → exec (.idcode x) s = .next (at' 1 [.tdo x code])) ∧
    (∀ c, s.vddX = true → ∃ t, exec (.samplePreload x c) s = .next t ∧ t.out = s.out ++ [.tdo x cells] ∧
      (nth ⟨0, []⟩ x t.sys.taps) = ⟨2, takeD false (if x = 0 then 412 else 268) c⟩ ∧
      t = { s with sys.taps := t.sys.taps, out := t.out, free := s.free + 1 }) ∧
    (s.vddX = true → s.sys.mrstLow = true →
      exec (.extest x) s = .next (at' 3 [.tdo x cells, .tapPins x 1]) ∧ exec (.highz x) s = .next (at' 4 [.tdo x [false], .tapPins x 2]) ∧
      exec (.clamp x) s = .next (at' 5 [.tdo x [false], .tapPins x 3])) ∧
    (s.sys.mrstLow = false →
      exec (.extest x) s = .next (at' 3 [.tdo x [false]]) ∧ exec (.highz x) s = .next (at' 4 [.tdo x [false]]) ∧
      exec (.clamp x) s = .next (at' 5 [.tdo x [false]])) ∧
    (s.vddX = false → ∀ c, exec (.idcode x) s = .next (at' 1 [.tdo x [false]]) ∧ exec (.samplePreload x c) s = .next (at' 2 [.tdo x [false]]) ∧
      exec (.extest x) s = .next (at' 3 [.tdo x [false]])) ∧
    (∀ op, 6 ≤ op ∨ op = 0 → exec (.bypass x op) s = .next (at' op [.tdo x [false]]))) ∧
  (∀ s : State, exec .tapReset s = .next { s with sys.taps := s.sys.taps.map fun t => { t with ir := 1 } })

/-! Stack maintenance (10). -/

/-- Refresh and holds (R310, R311, R314, R322): an interval raises the postponement, and at 8 a refresh is due and starts on a free channel; a quiet
window pulls refreshes in, lowest channel first and four at a time; a hold that ends lets the next due one start, retraining first. Only the
channel's state and the stack's EVENT_COUNT change. -/
def Obligations.RefreshAndHolds : Prop :=
  ∀ (s : State) (ch : Nat),
    let c := s.chan ch
    let st := ch / 16
    let only (t : State) (n : Nat) : Prop := t = { s with stk.chans := t.stk.chans, regs := t.regs } ∧ (∀ k, k ≠ ch → t.chan k = s.chan k) ∧
      (∀ a, a ≠ pgSTK st + 0x1C → t.reg a = s.reg a) ∧ t.reg (pgSTK st + 0x1C) = (s.reg (pgSTK st + 0x1C) + n) % 2 ^ 32
    (s.stackUp st = true → c.post + 1 < 8 → ∃ t, exec (.refreshInterval ch) s = .next t ∧ only t 0 ∧ t.chan ch = { c with post := c.post + 1 }) ∧
    (s.stackUp st = true → 8 ≤ c.post + 1 → c.hold = none → c.due = [] →
      ∃ t, exec (.refreshInterval ch) s = .next t ∧ only t 1 ∧ t.chan ch = { c with hold := some .refresh }) ∧
    (s.stackUp st = true → 8 ≤ c.post + 1 → c.hold ≠ none → c.due = [] →
      ∃ t, exec (.refreshInterval ch) s = .next t ∧ only t 0 ∧ t.chan ch = { c with post := c.post + 1, due := [.refresh] }) ∧
    (s.stackUp st = true → 0 < (s.stackSt st).windows → -8 < c.post → c.hold = none →
      ((List.range 16).filter fun l => decide ((s.chan (16 * st + l)).hold = some .refresh)).length < 4 →
      (∀ l, l < ch % 16 → (s.chan (16 * st + l)).hold ≠ none ∨ (s.chan (16 * st + l)).post ≤ -8) →
      ∃ t, exec (.refreshIssue ch) s = .next t ∧ only t 1 ∧ t.chan ch = { c with hold := some .refresh, post := c.post - 1 }) ∧
    ((s.stackSt st).windows ≤ 0 → exec (.refreshIssue ch) s = .next s) ∧
    (c.hold ≠ none → c.due = [] → ∃ t, exec (.channelHoldEnd ch) s = .next t ∧ only t 0 ∧ t.chan ch = { c with hold := none }) ∧
    (c.hold ≠ none → c.due = [.refresh, .retrain] → ∃ t, exec (.channelHoldEnd ch) s = .next t ∧ only t 1 ∧
      t.chan ch = { c with hold := some .retrain, due := [.refresh] }) ∧
    (c.hold ≠ none → c.due = [.refresh] → ∃ t, exec (.channelHoldEnd ch) s = .next t ∧ only t 1 ∧
      t.chan ch = { c with hold := some .refresh, due := [], post := c.post - 1 }) ∧
    (c.hold = none → exec (.channelHoldEnd ch) s = .next s)

/-- Retraining (R314, R315): asked for by interface errors or 10 degrees since the last training; it holds a free channel, is counted, and a
success clears the failures. The third failure in a row makes the channel fail: its sweep onto the spare starts. The predictive policy makes
it fail too. -/
def Obligations.RetrainingAndSparing : Prop :=
  ∀ (s : State) (ch : Nat),
    let c := s.chan ch
    let st := ch / 16
    let temp := s.stackTemp st
    let page := pgSTK st
    s.stackUp st = true → c.fenced = false → bitAt (s.reg (page + 0x18)) 8 = false →
    (∀ errs, errs = true ∨ c.trainTemp + 10 ≤ temp ∨ temp + 10 ≤ c.trainTemp → c.hold = none → c.due = [] →
      (∃ t, exec (.channelRetrain ch errs true) s = .next t ∧ t.chan ch = { c with hold := some .retrain, fails := 0, trainTemp := temp } ∧
        t = { s with stk.chans := t.stk.chans, regs := t.regs } ∧ (∀ k, k ≠ ch → t.chan k = s.chan k) ∧
        (∀ a, a ≠ page + 0x1C → a ≠ s.chBlock ch + 0xC → t.reg a = s.reg a)) ∧
      (c.fails < 2 → ∃ t, exec (.channelRetrain ch errs false) s = .next t ∧
        t.chan ch = { c with hold := some .retrain, fails := c.fails + 1 } ∧ t = { s with stk.chans := t.stk.chans, regs := t.regs }) ∧
      (2 ≤ c.fails → (s.stackSt st).sweep = none → (s.stackSt st).spareUsed = false →
        ∃ t, exec (.channelRetrain ch errs false) s = .next t ∧ (t.stackSt st).sweep = some (ch % 16, 0) ∧
          (t.chan ch).fails = c.fails + 1 ∧ t = { s with stk := t.stk, regs := t.regs } ∧ t.stk.mem = s.stk.mem ∧ t.stk.poison = s.stk.poison)) ∧
    (temp < c.trainTemp + 10 → c.trainTemp < temp + 10 → ∀ ok, exec (.channelRetrain ch false ok) s = .next s) ∧
    ((s.stackSt st).sweep = none → (s.stackSt st).spareUsed = false →
      ∃ t, exec (.predictivePolicySparing ch) s = .next t ∧ (t.stackSt st).sweep = some (ch % 16, 0) ∧ t.chan ch = { c with failing := [] } ∧
        t = { s with stk.chans := t.stk.chans, stk.st := t.stk.st }) ∧
    ((s.stackSt st).sweep = none → (s.stackSt st).spareUsed = true →
      ∃ t, exec (.predictivePolicySparing ch) s = .next t ∧ t.chan ch = { c with failing := [], fenced := true, due := [] } ∧
        ({ s with stk := t.stk, log := t.log } : State).reports t .train ∧ t.stk.mem = s.stk.mem ∧ t.stk.poison = s.stk.poison)

/-- A row repair runs its four phases one hold at a time and ends with the row in the group's repair row of the physical channel that serves it
(R319, R322, R324). Sectors that cannot be read become poisoned (R308); no stored byte changes. -/
def Obligations.RowRepair : Prop :=
  ∀ (s : State) (ch g : Nat) (bad : List Nat) (p : Ppr), (s.pprOf ch).find? (·.group = g) = some p → p.ch = ch →
    (s.stk.st.any (·.2.halt)) = false → (s.chan ch).hold = none →
    let only (t : State) : Prop :=
      ({ s with stk := t.stk, regs := t.regs, log := t.log } : State).reports t .train ∧ t.stk.mem = s.stk.mem ∧ t.stk.remap = s.stk.remap ∧
        (t.chan ch) = { (s.chan ch) with hold := some .ppr } ∧ (∀ k, k ≠ ch → t.chan k = s.chan k) ∧ t.log.flash = s.log.flash
    (p.phase = 1 → ∃ t, exec (.pprStep ch g bad) s = .next t ∧ only t ∧ t.stk.poison = s.stk.poison ∧
      (t.pprOf ch).find? (·.group = g) = some { p with phase := 2,
                                                         bad := (s.rowSectors ch (16 * p.row + 4 * g + p.bank)).filter bad.contains }) ∧
    (p.phase = 2 → ∃ t, exec (.pprStep ch g bad) s = .next t ∧ only t ∧ t.stk.poison = s.stk.poison ∧
      (t.pprOf ch).find? (·.group = g) = some { p with phase := 3 }) ∧
    (p.phase = 3 → ∃ t, exec (.pprStep ch g bad) s = .next t ∧ only t ∧ (t.pprOf ch).find? (·.group = g) = some { p with phase := 4 } ∧
      (∀ a ∈ p.bad, a / 64 ∈ t.stk.poison) ∧ (∀ u ∈ s.stk.poison, u ∈ t.stk.poison)) ∧
    (4 ≤ p.phase → ∃ t, exec (.pprStep ch g bad) s = .next t ∧ only t ∧ (t.pprOf ch).find? (·.group = g) = none ∧
      t.stk.groups.get ⟨0, 0, 0⟩ (grpKey (ch / 16) p.inst g) = ⟨p.row, p.bank, match s.stk.groups.find? (·.1 = grpKey (ch / 16) p.inst g) with
        | some (_, r) => r.done + 1
        | none => 1⟩ ∧ t.stk.poison = s.stk.poison)

/-- A spare sweep copies one row number a hold, a due step of a row repair going first, and ends with the spare in the channel's place (R315, R322).
Sectors that cannot be read become poisoned (R308); no stored byte changes. -/
def Obligations.SpareSweep : Prop :=
  ∀ (s : State) (stack l row : Nat) (bad : List Nat), (s.stackSt stack).sweep = some (l, row) → l < 16 →
    (s.stk.st.any (·.2.halt)) = false → (s.chan (16 * stack + l)).hold = none →
    let ch := 16 * stack + l
    (s.pprOf ch ≠ [] → exec (.spareSweepStep stack bad) s = .next s) ∧
    (s.pprOf ch = [] → row + 1 ≠ bankRows → ∃ t, exec (.spareSweepStep stack bad) s = .next t ∧ (t.stackSt stack).sweep = some (l, row + 1) ∧
      t.chan ch = { (s.chan ch) with hold := some .sweep } ∧ t.stk.mem = s.stk.mem ∧
      (∀ u ∈ s.stk.poison, u ∈ t.stk.poison) ∧
      (∀ b, b < 16 → ∀ a ∈ s.rowSectors ch (16 * row + b), a ∈ bad → a / 64 ∈ t.stk.poison) ∧
      ({ s with stk := t.stk, regs := t.regs, log := t.log } : State).reports t .train) ∧
    (s.pprOf ch = [] → row + 1 = bankRows → (s.chan ch).inst = l →
      ∃ t, exec (.spareSweepStep stack bad) s = .next t ∧ (t.stackSt stack).sweep = none ∧ (t.stackSt stack).spareUsed = true ∧
        (t.chan ch).inst = 16 ∧ (t.chan ch).fails = 0 ∧ (t.chan ch).outOfService = true ∧ t.stk.mem = s.stk.mem ∧
        ({ s with stk := t.stk, regs := t.regs, log := t.log } : State).reports t .train)

/-- Scrub and temperature (R307 to R309, R312, R313, R318, R510): a clean scrub moves STK_SCRUB_ROW alone; an uncorrectable sector becomes poisoned and
stored bytes stay; a readout sets WARN, THROTTLE and HALT at 85, 90 and 95 degrees and clears them below 83, 88 and 92. At the first halt a recovery run
under way is marked as running on (R401). -/
def Obligations.ScrubAndTemperature : Prop :=
  (∀ (s : State) (a : Nat),
    let ch := (s.stkDecode a).1
    s.stkHas a = true → s.stackUp (ch / 16) = true → bitAt (s.reg (pgSTK (ch / 16) + 0x18)) 8 = false → a % 64 = 0 →
    (s.chan ch).inst ≤ 16 →
    exec (.scrubRead a .clean) s = .next (s.setReg (pgSTK (ch / 16) + 0x4C) ((s.stkDecode a).2 / 128)) ∧
    ((s.chan ch).fenced = false → ∃ t, exec (.scrubRead a .uncorrectable) s = .next t ∧ a / 64 ∈ t.stk.poison ∧ t.stk.mem = s.stk.mem ∧
      (∀ u ∈ s.stk.poison, u ∈ t.stk.poison) ∧ ({ s with stk := t.stk, regs := t.regs, log := t.log } : State).reports t .train) ∧
    ((s.chan ch).fenced = false → ∃ t, exec (.scrubRead a .corrected) s = .next t ∧ t.stk.mem = s.stk.mem ∧ t.stk.poison = s.stk.poison ∧
      t.reg (s.rowBlock ch ((s.stkDecode a).2 / 128) + 4) = (s.reg (s.rowBlock ch ((s.stkDecode a).2 / 128) + 4) + 1) % 2 ^ 32 ∧
      ({ s with stk := t.stk, regs := t.regs, log := t.log } : State).reports t .train)) ∧
  (∀ (s : State) (st temp : Nat), st < 8 → temp < 256 → bitAt (s.reg stkMapCfg) 31 = true →
    let x := s.stackSt st
    ∃ t, exec (.stackReadout st temp) s = .next t ∧
      t.stackSt st = { x with warn := if 85 ≤ temp then true else if temp < 83 then false else x.warn,
                              throttle := if 90 ≤ temp then true else if temp < 88 then false else x.throttle,
                              halt := if 95 ≤ temp then true else if temp < 92 then false else x.halt } ∧
      (∀ k, k ≠ st → t.stackSt k = s.stackSt k) ∧ t.regField (pgSTK st + 0x44) 0 8 = temp ∧
      (∀ d, t.die d = { (s.die d) with runOn := if 95 ≤ temp ∧ (s.stk.st.any (·.2.halt)) = false then decide ((s.die d).collQ ≠ [])
                                                else (s.die d).runOn }) ∧
      ({ s with stk.st := t.stk.st, regs := t.regs, dies := t.dies } : State).reports t .train) ∧
  (∀ (s : State) (st temp : Nat), bitAt (s.reg stkMapCfg) 31 = false → exec (.stackReadout st temp) s = .next s)

/-! Power, temperature and clocks (18). -/

/-- From s to t only ceilings and their counters, settling marks, registers and reports differ (R259: a throttle is slip). -/
def Sys2Proof.Machine.State.slipOnly (s t : State) : Prop :=
  ({ s with dies := t.dies, thr := t.thr, tiles := t.tiles, regs := t.regs } : State).reports t .train ∧
    (∀ k, { (t.tile k) with settle := false } = { (s.tile k) with settle := false }) ∧
    (∀ d, (t.die d).collQ = (s.die d).collQ ∧ (t.die d).powerQ = (s.die d).powerQ ∧ (t.die d).migrating = (s.die d).migrating)

/-- A ceiling one step lower; at 4 it stays (R482, R483). -/
def Sys2Proof.Machine.lowered (n : Nat) : Nat := if n ≤ 4 then n else n - 1

/-- The Shutter (R286, R481 to R484): an energy overrun lowers CEIL_PWR of its die and restarts the count of good windows, the thousandth good one
raises it; a C-die readout at JTHROTTLE lowers CEIL_THM, one of an M-die or X-die CEIL_PKG, and the tenth readout in a row below JTHROTTLE - 3 raises
it; no ceiling leaves 4 to 16. Package power (R482): a sample above 2,100 W pauses every island and lowers CEIL_PKG; an average above PKG_W lowers it
and the tenth evaluation in a row below 0.95 PKG_W raises it; the pause ends for the whole package at once. -/
def Obligations.Shutter : Prop :=
  ((∀ (s : State) (d energy : Nat), d < 4 →
     (s.regField (pgPWR d + 0x40) 0 16 < energy → ∃ t, exec (.powerWindow d energy) s = .next t ∧ s.slipOnly t ∧
       (t.die d).ceilPwr = lowered (s.die d).ceilPwr ∧ (t.die d).windows = 0 ∧ (∀ e, e ≠ d → t.die e = s.die e) ∧ t.thr = s.thr) ∧
     (energy ≤ s.regField (pgPWR d + 0x40) 0 16 → (s.die d).windows < 999 → ∃ t, exec (.powerWindow d energy) s = .next t ∧ s.slipOnly t ∧
       t.die d = { (s.die d) with windows := (s.die d).windows + 1 } ∧ (∀ e, e ≠ d → t.die e = s.die e) ∧ t.tiles = s.tiles ∧ t.thr = s.thr) ∧
     (energy ≤ s.regField (pgPWR d + 0x40) 0 16 → 999 ≤ (s.die d).windows → ∃ t, exec (.powerWindow d energy) s = .next t ∧ s.slipOnly t ∧
       (t.die d).ceilPwr = min 16 ((s.die d).ceilPwr + 1) ∧ (t.die d).windows = 0 ∧ t.thr = s.thr)) ∧
   (∀ (s : State) (d temp : Nat), d < 10 → temp < 256 → 2 ≤ s.sys.bringup → s.sys.pstate < 3 →
     ∃ t, exec (.dieReadout d temp) s = .next t ∧ s.slipOnly t ∧ t.regField (pgTHM d + 0x40) 0 8 = temp ∧
       (s.jthrottle d ≤ temp → d < 4 → (t.die d).ceilThm = lowered (s.die d).ceilThm ∧ (t.die d).cool = 0 ∧ t.thr = s.thr) ∧
       (s.jthrottle d ≤ temp → 4 ≤ d → t.thr.ceilPkg = lowered s.thr.ceilPkg ∧ t.dies = s.dies) ∧
       (temp + 3 < s.jthrottle d → d < 4 → (s.die d).cool < 9 → (t.die d).cool = (s.die d).cool + 1 ∧ (t.die d).ceilThm = (s.die d).ceilThm) ∧
       (temp + 3 < s.jthrottle d → d < 4 → 9 ≤ (s.die d).cool → (t.die d).ceilThm = min 16 ((s.die d).ceilThm + 1) ∧ (t.die d).cool = 0) ∧
       (temp + 3 < s.jthrottle d → 4 ≤ d → s.coolOf d < 9 → t.coolOf d = s.coolOf d + 1 ∧ t.thr.ceilPkg = s.thr.ceilPkg ∧ t.dies = s.dies) ∧
       (temp + 3 < s.jthrottle d → 4 ≤ d → 9 ≤ s.coolOf d → t.thr.ceilPkg = min 16 (s.thr.ceilPkg + 1) ∧ t.coolOf d = 0 ∧ t.dies = s.dies) ∧
       (temp < s.jthrottle d → s.jthrottle d ≤ temp + 3 → d < 4 → (t.die d).ceilThm = (s.die d).ceilThm ∧ (t.die d).cool = 0)) ∧
   (∀ (s : State) (d temp : Nat), s.sys.bringup < 2 ∨ 3 ≤ s.sys.pstate → exec (.dieReadout d temp) s = .next s)) ∧
  ((∀ (s : State) (w : Nat), 2100 < w → ∃ t, exec (.pkgPowerSample w) s = .next t ∧ s.slipOnly t ∧ t.thr.pkgPause = true ∧
     t.thr.ceilPkg = lowered s.thr.ceilPkg ∧ t.dies = s.dies) ∧
   (∀ (s : State) (w : Nat), w ≤ 2100 → exec (.pkgPowerSample w) s = .next (s.setReg (pgPKGP + 0x40) (w % 2 ^ 32))) ∧
   (∀ (s : State) (w : Nat),
     let lim := s.reg (pgPKGP + 0x48)
     ∃ t, exec (.pkgPowerAverage w) s = .next t ∧ s.slipOnly t ∧ t.dies = s.dies ∧ t.thr.pkgPause = s.thr.pkgPause ∧
       (lim < w → t.thr.ceilPkg = lowered s.thr.ceilPkg ∧ t.thr.pkgCool = 0) ∧
       (w ≤ lim → 100 * w < 95 * lim → s.thr.pkgCool < 9 → t.thr.ceilPkg = s.thr.ceilPkg ∧ t.thr.pkgCool = s.thr.pkgCool + 1) ∧
       (w ≤ lim → 100 * w < 95 * lim → 9 ≤ s.thr.pkgCool → t.thr.ceilPkg = min 16 (s.thr.ceilPkg + 1) ∧ t.thr.pkgCool = 0) ∧
       (w ≤ lim → 95 * lim ≤ 100 * w → t.thr.ceilPkg = s.thr.ceilPkg ∧ t.thr.pkgCool = 0)) ∧
   (∀ (s : State) (d p : Nat), exec (.shutterPauseEnd d p) s = .next { s with thr.pkgPause := false }))

/-- TIL_CLK and settling (R31, R32, R480): a setting of 4 to 16 is stored, and the island settles when the setting in force changes; another value is counted and
ignored; the pause ends. Accesses while the C-dies are power-gated are counted in the HST page (R504). -/
def Obligations.TileClocks : Prop :=
  (∀ (s : State) (d p : Nat) (v : W32), d < 4 → p < 48 → s.busUp = true →
    let k := 48 * d + p
    let n := v.toNat % 32
    (s.sys.pstate < 2 → (s.role k).state ≠ 3 → 4 ≤ n → n ≤ 16 → ∃ t, exec (.tilClk d p v) s = .next t ∧
      t.reg (pgTIL d p + 0x40) = n ∧ (∀ a, a ≠ pgTIL d p + 0x40 → t.reg a = s.reg a) ∧
      t.tile k = { (s.tile k) with settle := (s.tile k).settle || decide (t.tilEff k ≠ s.tilEff k) } ∧
      (∀ j, j ≠ k → t.tile j = s.tile j) ∧ t = { s.wake with regs := t.regs, tiles := t.tiles }) ∧
    (s.sys.pstate < 2 → (s.role k).state ≠ 3 → n < 4 ∨ 16 < n →
      exec (.tilClk d p v) s = .next (s.wake.setReg (pgTIL d p + 0x1C) ((s.reg (pgTIL d p + 0x1C) + 1) % 2 ^ 32))) ∧
    (s.sys.pstate = 2 → exec (.tilClk d p v) s = .next (s.setReg (pgHST + 0x1C) ((s.reg (pgHST + 0x1C) + 1) % 2 ^ 32))) ∧
    (s.sys.pstate < 2 → (s.role k).state = 3 → exec (.tilClk d p v) s = .next s.wake)) ∧
  (∀ (s : State) (d p : Nat), ((s.tile (48 * d + p)).settle = true →
      exec (.clockSettleEnd d p) s = .next (s.modTile (48 * d + p) fun t => { t with settle := false })) ∧
    ((s.tile (48 * d + p)).settle = false → exec (.clockSettleEnd d p) s = .next s))

/-! Rotation and field tests (13, 14). -/

/-- A tile falls due by age, a spare goes to its test (R416); a due tile at its limit requests a rotation (R417). At a rotation point, with no context
in a step state, each die that has a due tile and a spare starts one migration. A migration moves the role and the contents of a tile to the spare,
frees and resets the old position, which settles where its setting in force changes (R32), and writes the map (R265, R266, R418, R496); with the C-dies
power-gated no role moves (R23). A field test that passes makes the tile a clean spare; one that fails
its logic test makes it unusable (R412, R418). -/
def Obligations.RotationAndTests : Prop :=
  ((∀ s : State, ((∃ k, k < 192 ∧ (s.role k).state = 0 ∧ (s.role k).due = true) → exec .rotationRequest s = .next { s with thr.rotWanted := true }) ∧
     ((∀ k, k < 192 → (s.role k).state ≠ 0 ∨ (s.role k).due = false) → exec .rotationRequest s = .next s)) ∧
   (∀ (s : State) (d p : Nat),
     let k := 48 * d + p
     let days := s.bstCfg 8 8
     (days = 0 → exec (.testAgeDue d p) s = .next s) ∧
     (days ≠ 0 → ∃ t, exec (.testAgeDue d p) s = .next t ∧ (t.role k).ageH = min (24 * days) 0xFFFF ∧
       (∀ j, j ≠ k → t.role j = s.role j) ∧ t = { s with roles := t.roles, thr := t.thr } ∧ (t.role k).lt = (s.role k).lt ∧
       ((s.role k).state = 0 → (t.role k).due = true ∧ (t.role k).state = 0 ∧
         t.thr.rotWanted = (s.thr.rotWanted || decide (s.bstCfg 16 8 = 0))) ∧
       ((s.role k).state = 1 → (t.role k).state = 2 ∧ t.thr = s.thr) ∧
       (2 ≤ (s.role k).state → (t.role k).state = (s.role k).state ∧ t.thr = s.thr))) ∧
   (∀ s : State, s.cGated = false → s.anyStep = false → (s.dies.any fun e => e.2.migrating.isSome) = false →
     ∃ t, exec .rotationPoint s = .next t ∧ t.roles = s.roles ∧ t.tiles = s.tiles ∧ t.cx = s.cx ∧
       (∀ d k, d < 4 → s.firstDue d = some k → ∀ j, ((dieTiles d).find? fun j => decide ((s.role j).state = 1)) = some j →
         (t.die d).migrating = some (k % 48, j % 48)) ∧
       (∀ d, d < 4 → s.firstDue d = none → t.die d = s.die d) ∧
       ({ s with dies := t.dies, thr.rotWanted := t.thr.rotWanted, sys.capacity := t.sys.capacity } : State).reports t .train) ∧
   (∀ s : State, s.cGated = true ∨ s.anyStep = true → exec .rotationPoint s = .next s)) ∧
  ((∀ (s : State) (d a b : Nat), s.cGated = false → (s.die d).migrating = some (a, b) → a ≠ b → a < 48 → b < 48 →
     let i := 48 * d + a
     let j := 48 * d + b
     ∃ t, exec (.migrationComplete d) s = .next t ∧ (t.die d).migrating = none ∧ (∀ e, e ≠ d → t.die e = s.die e) ∧
       t.role j = { (s.role j) with state := 0, lt := (s.role i).lt } ∧ t.role i = { (s.role i) with state := 2, lt := 0x3F, due := false } ∧
       (∀ k, k ≠ i → k ≠ j → t.role k = s.role k ∧ t.tile k = s.tile k) ∧
       (t.tile j).mem = (s.tile i).mem ∧ (t.tile j).poison = (s.tile i).poison ∧ (t.tile j).cx = (s.tile i).cx ∧
       (t.tile j).banks = (s.tile i).banks ∧ (t.tile j).eph = (s.tile i).eph ∧ t.tile i = { TileSt.reset with settle := decide (t.tilEff i ≠ s.tilEff i) } ∧
       t.log.queue = s.log.queue ++ [(5, t.rotationBytes)] ∧ t.log.flash = s.log.flash ∧ t.cx = s.cx ∧ t.stk = s.stk ∧ t.rsv = s.rsv ∧ t.host = s.host) ∧
   (∀ (s : State) (d : Nat), s.cGated = true ∨ (s.die d).migrating = none → exec (.migrationComplete d) s = .next s) ∧
   (∀ (s : State) (d p : Nat), (s.role (48 * d + p)).state = 2 → p < 48 →
     (∃ t, exec (.fieldTestComplete d p [] true) s = .next t ∧
       t.role (48 * d + p) = { (s.role (48 * d + p)) with state := 1, lt := 0x3F, suspect := false, quarantine := false, due := false, ageH := 0,
                                                          transients := 0 } ∧
       (∀ k, k ≠ 48 * d + p → t.role k = s.role k) ∧ t = { s with roles := t.roles, log := t.log } ∧
       t.log.queue = s.log.queue ++ [(5, t.rotationBytes)]) ∧
     (∃ t, exec (.fieldTestComplete d p [] false) s = .next t ∧ (t.role (48 * d + p)).state = 3 ∧ (t.role (48 * d + p)).lt = 0x3F ∧
       (∀ k, k ≠ 48 * d + p → t.role k = s.role k) ∧
       ({ s with roles := t.roles, log := t.log, stk.repair := t.stk.repair, regs := t.regs } : State).reports t .train)) ∧
   (∀ (s : State) (d p : Nat) (fs : List BstFailure) (ok : Bool), (s.role (48 * d + p)).state ≠ 2 →
     exec (.fieldTestComplete d p fs ok) s = .next s))


/-! Register pages (21): access codes and locks (R13, R501), pairs (R503), the common header (R500), tables. -/

/-- The page of a BAR0 offset is served: the device up, the C-dies not power-gated where it is theirs (R504). -/
abbrev Sys2Proof.Machine.State.serves0 (s : State) (a : Nat) : Prop := s.busUp = true ∧ (s.sys.pstate < 2 ∨ 0x1000000 ≤ a)

/-- A write of a register without an action of its own (R13, R501): each RW bit, and each RWL bit while unlocked, takes the written value;
each W1C bit written 1 clears; every other bit stays, and so does all else. While locked, an RWL register's page shows LOCK_VIOL. HST_RING_CFG takes sizes of
2^4 to 2^12 only (R454); RST_STATUS clears the trip latch with its bit. A write to the page of check unit 0, or of unit 15 while a COELOSTAT owns it, is ignored
and sets OWNED (R431; that the header's registers count as the page is the model's reading, entry 83). -/
def Obligations.RegisterWrites : Prop :=
  (∀ (s : State) (a : Nat) (v : W32) (r : RegRow), s.serves0 a → regRow a = some r → r.own = false → r.pair = 0 → a < msixTable →
    s.pageShut a = false → ¬ (addrOff a = 8 ∧ bitAt v.toNat 0 = true) → (∀ c, a ≠ hstCtx c 8) → a ≠ pgRST + 0x44 → s.ownedPage a = false →
    (∀ u, chkOf a = some u → u ≠ 0 ∧ addrOff a ≠ 0x40 ∧ (u = 15 → s.fab.coel = none) ∧ ((s.chkSt u).scan = true → addrOff a = 0x48)) →
    ∃ n, (∀ i, i < 32 → bitAt n i =
        if bitAt r.rw i || (bitAt r.rwl i && !s.lockedBy r.owner) then bitAt v.toNat i
        else if bitAt r.w1c i && bitAt v.toNat i then false else bitAt (s.reg a) i) ∧
      (r.rwl = 0 ∨ s.lockedBy r.owner = false → exec (.regWrite a v) s = .next (s.wake.setReg a n)) ∧
      (r.rwl ≠ 0 → s.lockedBy r.owner = true →
        ∃ t, exec (.regWrite a v) s = .next t ∧ (s.wake.setReg a n).reports t .train ∧ bitAt (t.reg (pageBase a + 0x10)) 1 = true)) ∧
  (∀ (s : State) (c : Ctx) (v : W32), s.busUp = true → (s.cxt c).armed = false →
    ((∀ i, i < 4 → 4 ≤ v.toNat / 16 ^ i % 16 ∧ v.toNat / 16 ^ i % 16 ≤ 12) → ∃ t, exec (.regWrite (hstCtx c 8) v) s = .next t ∧
      t.reg (hstCtx c 8) % 2 ^ 24 = v.toNat % 2 ^ 24 ∧ (∀ a, a ≠ hstCtx c 8 → t.reg a = s.reg a) ∧ t = { s.wake with regs := t.regs }) ∧
    ((∃ i, i < 4 ∧ (v.toNat / 16 ^ i % 16 < 4 ∨ 12 < v.toNat / 16 ^ i % 16)) → exec (.regWrite (hstCtx c 8) v) s = .next s.wake)) ∧
  (∀ (s : State) (v : W32) (k d : Nat), s.busUp = true → s.sys.tripLatch = some (k, d) → k = 1 ∨ k = 2 →
    ∃ t, exec (.regWrite (pgRST + 0x44) v) s = .next t ∧ (∀ i, i < 32 → bitAt (t.reg (pgRST + 0x44)) i =
        (bitAt (s.reg (pgRST + 0x44)) i && !(bitAt 0x308 i && bitAt v.toNat i))) ∧
      t.sys.tripLatch = (if bitAt v.toNat (7 + k) then none else some (k, d)) ∧ (∀ a, a ≠ pgRST + 0x44 → t.reg a = s.reg a) ∧
      t = { s.wake with regs := t.regs, sys.tripLatch := t.sys.tripLatch }) ∧
  (∀ (s : State) (a : Nat) (v : W32) (r : RegRow), s.busUp = true → s.ownedPage a = true → regRow a = some r → r.own = false → r.pair = 0 →
    ¬ (addrOff a = 8 ∧ bitAt v.toNat 0 = true) →
    ∃ t, exec (.regWrite a v) s = .next t ∧ s.wake.reports t .train ∧ bitAt (t.reg (pageBase a + 0x10)) 4 = true)

/-- 64-bit pairs (R503) and the forwarding table (R341, R513). A low word's read returns it and latches the high word; a low word's write waits in the
page's shadow; the high word's write stores both, the low word 0 without a shadow of that pair. COL_FWD_DATA reads and writes the word that COL_FWD_ADDR
names and moves on; armed, a write shows LOCK_VIOL and moves nothing. -/
def Obligations.PairsAndTables : Prop :=
  (∀ (s : State) (a : Nat) (r : RegRow), s.serves0 a → regRow a = some r → r.pair = 1 → s.ready = true →
    exec (.pairLowRead a) s = .next (({ s.wake with latch := s.latch.set a (BitVec.ofNat 32 (s.wake.readReg (a + 4))) } : State).emit
      (.readData (bytesLE 4 (s.wake.readReg a)) false)) ∧
    ∀ t, exec (.pairLowRead a) s = .next t → t.readHigh (a + 4) = s.wake.readReg (a + 4) % 2 ^ 32) ∧
  (∀ (s : State) (a : Nat) (v w : W32) (l h : RegRow), s.serves0 a → regRow a = some l → regRow (a + 4) = some h → l.pair = 1 → s.pageShut a = false →
    l.rw + l.rwl + h.rw + h.rwl ≠ 0 → l.rwl = 0 ∨ s.lockedBy l.owner = false → chkOf a = none →
    exec (.pairLowWrite a v) s = .next { s.wake with shadow := s.shadow.set (pageBase a) (a, v) } ∧
    (∃ t, exec (.pairHighWrite (a + 4) w) s = .next t ∧
      let low := match s.shadow.find? (·.1 = pageBase a) with
        | some (_, b, x) => if b = a then x.toNat else 0
        | none => 0
      (∀ i, i < 32 → bitAt (t.reg a) i = if bitAt (l.rw + l.rwl) i then bitAt low i else bitAt (s.reg a) i) ∧
      (∀ i, i < 32 → bitAt (t.reg (a + 4)) i = if bitAt (h.rw + h.rwl) i then bitAt w.toNat i else bitAt (s.reg (a + 4)) i) ∧
      (∀ b, b ≠ a → b ≠ a + 4 → reportReg b = false → t.reg b = s.reg b) ∧
      ({ s.wake with regs := t.regs, shadow := t.shadow } : State).reports t .train)) ∧
  (∀ (s : State) (a : Nat) (v w : W32) (l h : RegRow), s.serves0 a → regRow a = some l → regRow (a + 4) = some h → l.pair = 1 → s.pageShut a = false →
    l.rwl ≠ 0 → s.lockedBy l.owner = true →
    (∃ t, exec (.pairLowWrite a v) s = .next t ∧ s.wake.reports t .train ∧ bitAt (t.reg (pageBase a + 0x10)) 1 = true) ∧
    (∃ t, exec (.pairHighWrite (a + 4) w) s = .next t ∧ s.wake.reports t .train ∧ bitAt (t.reg (pageBase a + 0x10)) 1 = true)) ∧
  (∀ (s : State) (x : Nat) (v : W32), x < 2 → s.busUp = true →
    let w := s.regField (pgCOL x + 0x50) 0 13
    (s.ready = true → exec (.colFwdDataRead x) s =
      .next ((s.wake.setReg (pgCOL x + 0x50) ((w + 1) % 8192)).emit (.readData (bytesLE 4 ((s.fwdTable x).get full32 w)) false))) ∧
    (s.anyArmed = false → ∃ t, exec (.colFwdDataWrite x v) s = .next t ∧ t.reg (pgCOL x + 0x50) = (w + 1) % 8192 ∧
      (∀ i, i < 8 → t.fwdEntry x (8 * w + i) = v.toNat / 16 ^ i % 16) ∧ (∀ d, d / 8 ≠ w → t.fwdEntry x d = s.fwdEntry x d) ∧
      (∀ y d, y < 2 → y ≠ x → t.fwdEntry y d = s.fwdEntry y d) ∧
      t = { s.wake with regs := t.regs, fab.fwd0 := t.fab.fwd0, fab.fwd1 := t.fab.fwd1 }) ∧
    (s.anyArmed = true → ∃ t, exec (.colFwdDataWrite x v) s = .next t ∧ s.wake.reports t .train ∧ bitAt (t.reg (pgCOL x + 0x10)) 1 = true))

/-- A page index that R498 does not list reads 0 at every offset, PAGE_ID included, and writes change nothing; a listed page has a non-zero
PAGE_ID.BLOCK (R499). -/
def Obligations.ReservedPages : Prop :=
  ∀ (s : State) (die page off : Nat), die < 10 → page < 0x400 → off < 0x1000 → s.serves0 (regAddr die page off) → s.ready = true →
    ((pageBlock die page).1 = 0 → s.readReg (regAddr die page off) = 0 ∧
      ∀ v : W32, exec (.regWrite (regAddr die page off) v) s = .next s.wake ∧ exec (.pairLowWrite (regAddr die page off) v) s = .next s.wake ∧
        exec (.pairHighWrite (regAddr die page off) v) s = .next s.wake ∧ exec (.evtClr (regAddr die page 0) v) s = .next s.wake ∧
        exec (.errInject (regAddr die page 0) v) s = .next s.wake) ∧
    ((pageBlock die page).1 ≠ 0 → s.readReg (regAddr die page 0) % 256 ≠ 0)

/-- Registers with an action (R500, R404, R405, R356, R280): EVT_CLR clears EVENT_COUNT and stores REPORT_EN; ERR_INJECT stores a listed POINT and a
RATE_EXP of 4 to 20 and else stays, POINT 0 armed counts and shows INJ; LNK_INJECT likewise; TIL_STALL_CLR clears the stall counters and late captures
of the contexts whose bits are set, and those only; the page of an owned check unit takes no write and shows OWNED (R431, entry 83). An access of wrong size or alignment (R15, R436): a read gets all ones of its own width, the addressed page shows
ACC_SIZE; nothing else changes. A C-die page while power-gated: all ones, and the HST page counts (R504). -/
def Obligations.RegisterActions : Prop :=
  ((∀ (s : State) (p : Nat) (v : W32), s.serves0 p → p % 0x1000 = 0 → s.ownedPage p = true →
     (bitAt v.toNat 0 = true → ∃ t, exec (.evtClr p v) s = .next t ∧ s.wake.reports t .train ∧ bitAt (t.reg (p + 0x10)) 4 = true) ∧
     ∃ t, exec (.errInject p v) s = .next t ∧ s.wake.reports t .train ∧ bitAt (t.reg (p + 0x10)) 4 = true) ∧
   (∀ (s : State) (p : Nat) (v : W32), s.serves0 p → p % 0x1000 = 0 → p < 0x2800000 → (pageBlock (addrDie p) (addrPage p)).1 ≠ 0 → s.ownedPage p = false →
     (bitAt v.toNat 0 = true → ∃ t, exec (.evtClr p v) s = .next t ∧ t.reg (p + 0x1C) = 0 ∧ bitAt (t.reg (p + 8)) 1 = bitAt v.toNat 1 ∧
       (∀ a, a ≠ p + 8 → a ≠ p + 0x1C → t.reg a = s.reg a) ∧ t = { s.wake with regs := t.regs }) ∧
     (let point := v.toNat % 256
      let rate := v.toNat / 1024 % 32
      let b := (pageBlock (addrDie p) (addrPage p)).1
      (injPoints b < point ∨ rate < 4 ∨ 20 < rate → exec (.errInject p v) s = .next s.wake) ∧
      (point ≤ injPoints b → 4 ≤ rate → rate ≤ 20 → point ≠ 0 ∨ bitAt v.toNat 8 = false →
        ∃ t, exec (.errInject p v) s = .next t ∧ t.reg (p + 0x18) % 2 ^ 15 = v.toNat % 2 ^ 15 ∧
          t.reg (p + 0x18) / 2 ^ 15 = s.reg (p + 0x18) / 2 ^ 15 ∧ (∀ a, a ≠ p + 0x18 → t.reg a = s.reg a) ∧
          t = { s.wake with regs := t.regs, sys.injSeen := t.sys.injSeen }) ∧
      (point = 0 → bitAt v.toNat 8 = true → 4 ≤ rate → rate ≤ 20 →
        ∃ t, exec (.errInject p v) s = .next t ∧ bitAt (t.reg (p + 0x10)) 2 = true ∧
          t.reg (p + 0x18) / 2 ^ 16 = (s.reg (p + 0x18) / 2 ^ 16 + 1) % 2 ^ 16 ∧ bitAt (t.reg (p + 0x18)) 8 = bitAt v.toNat 9 ∧
          ({ s.wake with regs := t.regs, sys.injSeen := t.sys.injSeen } : State).reports t .train ∧
          (∀ a, a ≠ p + 0x18 → reportReg a = false → t.reg a = s.reg a)))) ∧
   (∀ (s : State) (p : Nat) (v : W32), p < 12 → s.busUp = true → (s.port p).state = 3 → exec (.lnkInject p v) s = .next s.wake) ∧
   (∀ (s : State) (p : Nat) (v : W32), p < 12 → s.busUp = true → (s.port p).state ≠ 3 →
     let rate := v.toNat / 256 % 32
     (v.toNat / 2 % 4 = 3 ∨ rate < 4 ∨ 20 < rate → exec (.lnkInject p v) s = .next s.wake) ∧
     (v.toNat / 2 % 4 ≠ 3 → 4 ≤ rate → rate ≤ 20 → ∃ t, exec (.lnkInject p v) s = .next t ∧
       t.reg (pgLNK p + 0x44) % 2 ^ 13 = v.toNat % 2 ^ 13 ∧ t.reg (pgLNK p + 0x44) / 2 ^ 13 = s.reg (pgLNK p + 0x44) / 2 ^ 13 ∧
       (∀ a, a ≠ pgLNK p + 0x44 → t.reg a = s.reg a) ∧ t.port p = { (s.port p) with injSeen := 0 } ∧ (∀ q, q ≠ p → t.port q = s.port q) ∧
       t = { s.wake with regs := t.regs, fab.ports := t.fab.ports })) ∧
   (∀ (s : State) (d p : Nat) (v : W32), d < 4 → p < 48 → s.busUp = true → s.sys.pstate < 2 → (s.role (48 * d + p)).state ≠ 3 →
     ∃ t, exec (.tilStallClr d p v) s = .next t ∧
       (∀ a c o, a = pgTIL d p + 0x100 + 0x80 * c + o → c < 4 → o < 0x80 → bitAt v.toNat c = true → t.reg a = 0) ∧
       (∀ a, (∀ c o, a = pgTIL d p + 0x100 + 0x80 * c + o → c < 4 → o < 0x80 → bitAt v.toNat c = false) → t.reg a = s.reg a) ∧
       t = { s.wake with regs := t.regs, latch := t.latch })) ∧
  (∀ (s : State) (a n : Nat), s.busUp = true →
     let rd (t : State) (n : Nat) (w : Bool) : State := if w then t else t.emit (.readData (List.replicate n 0xFF#8) false)
     let page := if a < 0x2800000 then pageBase a else pgHST
     (s.sys.pstate < 2 ∨ 0x1000000 ≤ a → a < 0x2805000 → 0x2800000 ≤ a ∨ (pageBlock (addrDie a) (addrPage a)).1 ≠ 0 →
       ∀ w, ∃ t, exec (.bar0BadAccess a w n) s = .next t ∧ (rd s.wake n w).reports t .train ∧ bitAt (t.reg (page + 0x10)) 0 = true) ∧
     (s.sys.pstate = 2 → a < 0x1000000 →
       ∀ w, exec (.powerGatedPageAccess a w) s = .next ((rd s 4 w).setReg (pgHST + 0x1C) ((s.reg (pgHST + 0x1C) + 1) % 2 ^ 32)) ∧
         exec (.bar0BadAccess a w n) s = .next ((rd s n w).setReg (pgHST + 0x1C) ((s.reg (pgHST + 0x1C) + 1) % 2 ^ 32))))


/-! Check units (15). -/

/-- The computation of a check unit at width w, from its registers (R423, R424). -/
def Sys2Proof.Machine.State.crcWith (s : State) (u w : Nat) : CrcCfg :=
  let cfg := s.reg (pgCHK u + 0x40)
  ⟨w, s.reg64 (pgCHK u + 0x50) % 2 ^ w, s.reg64 (pgCHK u + 0x58) % 2 ^ w, bitAt cfg 7, bitAt cfg 8, bitAt cfg 9⟩

/-- FINISH over a register value: what VALUE, COUNT and RESULT hold afterwards (R423, R428). -/
def Sys2Proof.Machine.State.finished (s t : State) (u w v : Nat) : Prop :=
  let n := s.regField (pgCHK u + 0x40) 10 2
  let count := s.reg (pgCHK u + 0x4C) % 2 ^ 16
  let v1 := crcFeed (s.crcWith u w) v (bytesLE n count)
  t.reg64 (pgCHK u + 0x60) = v1 ∧ t.reg64 (pgCHK u + 0x68) = crcOut (s.crcWith u w) v1 ∧
    t.reg (pgCHK u + 0x4C) = if n = 0 then s.reg (pgCHK u + 0x4C) else (count + 1) % 2 ^ (8 * n)

/-- A check unit's registers that a command may write: CHK_STAT, CHK_ALIVE, VALUE, RESULT. -/
def Sys2Proof.Machine.chkResult (u a : Nat) : Bool :=
  [0x48, 0x4C, 0x60, 0x64, 0x68, 0x6C].contains (a - pgCHK u) && decide (pgCHK u ≤ a)

/-- CHK_CMD on a unit that neither is BUSY nor owned (R423 to R429): INIT puts the width in effect and loads INIT into VALUE; SCAN of a valid range starts and sets
BUSY; FINISH mixes the alive counter and latches RESULT; without a scan the command is DONE at once. A scan of a range that R429 refuses feeds nothing,
sets RANGE and goes on to FINISH. -/
def Obligations.CheckCommands : Prop :=
  ∀ (s : State) (u : Nat) (v : W32) (i : Instr), s.busUp = true → 0 < u → u < 16 → (u = 15 → s.fab.coel = none) → (s.chkSt u).scan = false →
    (i = .init u v ∧ bitAt v.toNat 0 = true) ∨ (i = .scan u v ∧ bitAt v.toNat 1 = true) ∨ (i = .finish u v ∧ bitAt v.toNat 2 = true) →
    let w := if bitAt v.toNat 0 then s.chkWidth u else (s.chkSt u).width
    let v0 := if bitAt v.toNat 0 then s.reg64 (pgCHK u + 0x58) % 2 ^ w else s.reg64 (pgCHK u + 0x60)
    let fits := s.scanOk u (s.scanSpace u) (s.scanAddr u) (s.scanLen u)
    0 < w → w ≤ 64 → s.regField (pgCHK u + 0x40) 10 2 < 3 →
    (bitAt v.toNat 1 = true → fits = true → ∃ t, exec i s = .next t ∧ t.chkSt u = ⟨true, bitAt v.toNat 2, w⟩ ∧ t.reg64 (pgCHK u + 0x60) = v0 ∧
      (∀ a, a ≠ pgCHK u + 0x60 → a ≠ pgCHK u + 0x64 → t.reg a = s.reg a) ∧ (∀ x, x ≠ u → t.chkSt x = s.chkSt x) ∧
      t = { s.wake with regs := t.regs, chk := t.chk }) ∧
    (bitAt v.toNat 1 = false ∨ fits = false → ∃ t, exec i s = .next t ∧ t.chkSt u = ⟨false, false, w⟩ ∧
      (bitAt v.toNat 2 = true → s.finished t u w v0) ∧
      (bitAt v.toNat 2 = false → t.reg64 (pgCHK u + 0x60) = v0 ∧ t.reg64 (pgCHK u + 0x68) = s.reg64 (pgCHK u + 0x68) ∧
        t.reg (pgCHK u + 0x4C) = s.reg (pgCHK u + 0x4C)) ∧
      t.reg (pgCHK u + 0x48) = (if bitAt v.toNat 1 then s.reg (pgCHK u + 0x48) ||| 8 else s.reg (pgCHK u + 0x48)) ||| 2 ∧
      (∀ a, chkResult u a = false → reportReg a = false → t.reg a = s.reg a) ∧ (∀ x, x ≠ u → t.chkSt x = s.chkSt x) ∧
      ({ s.wake with regs := t.regs, chk := t.chk } : State).reports t .train) ∧
    (s.scanSpace u = 0 ∨ 3 < s.scanSpace u ∨ (s.scanSpace u = 2 ∧ s.mapTop < s.scanAddr u + s.scanLen u) ∨
      (s.scanSpace u = 1 ∧ 0x40000000 < s.scanAddr u + s.scanLen u) → fits = false)

/-- The end of a scan feeds the range's bytes as stored, in ascending order, marks POISON, runs a requested FINISH and sets DONE (R429, R430). A feed
register's write feeds its bytes (R426). The default configurations give the check values of R432. Writes that a check unit turns away: OWNED for unit
0 and for unit 15 during a COELOSTAT (R431), counted while BUSY (R427). CHK_CFG takes a WIDTH of 8 to 64 and ALIVE 0 to 2 and masks VALUE; POLY, INIT
and VALUE keep W bits (R424, R433). -/
def Obligations.CheckFeedsAndGuards : Prop :=
  ((∀ (s : State) (u : Nat), u < 16 → (s.chkSt u).scan = true → s.host.linkUp = true ∨ s.scanSpace u ≠ 3 →
     let w := (s.chkSt u).width
     let sp := s.scanSpace u
     let bs := s.scanBytes sp (s.scanAddr u) (s.scanLen u)
     0 < w → w ≤ 64 → s.regField (pgCHK u + 0x40) 10 2 < 3 →
     ∃ t, exec (.scanComplete u) s = .next t ∧ t.chkSt u = ⟨false, false, w⟩ ∧
       ((s.chkSt u).finish = true → s.finished t u w (crcFeed (s.crcWith u w) (s.reg64 (pgCHK u + 0x60)) bs)) ∧
       ((s.chkSt u).finish = false → t.reg64 (pgCHK u + 0x60) = crcFeed (s.crcWith u w) (s.reg64 (pgCHK u + 0x60)) bs ∧
         t.reg64 (pgCHK u + 0x68) = s.reg64 (pgCHK u + 0x68)) ∧
       bitAt (t.reg (pgCHK u + 0x48)) 1 = true ∧
       bitAt (t.reg (pgCHK u + 0x48)) 2 = (bitAt (s.reg (pgCHK u + 0x48)) 2 || s.scanPoison sp (s.scanAddr u) (s.scanLen u)) ∧
       (sp ≠ 2 → t.rsv = s.rsv ∧ ∀ a, chkResult u a = false → t.reg a = s.reg a) ∧ (∀ x, x ≠ u → t.chkSt x = s.chkSt x) ∧
       ({ s with regs := t.regs, chk := t.chk, rsv.cache := t.rsv.cache, rsv.tree := t.rsv.tree } : State).reports t .train) ∧
   (∀ (s : State) (u : Nat), (s.chkSt u).scan = false → exec (.scanComplete u) s = .next s) ∧
   (∀ (s : State) (u : Nat) (v : W32), s.busUp = true → 0 < u → u < 16 → (u = 15 → s.fab.coel = none) → (s.chkSt u).scan = false →
     let feed (n : Nat) : Nat := crcFeed (s.crcWith u (s.chkSt u).width) (s.reg64 (pgCHK u + 0x60)) (bytesLE n v.toNat)
     exec (.chkData32 u v) s = .next (s.wake.setReg64 (pgCHK u + 0x60) (feed 4)) ∧
     exec (.chkData8 u v) s = .next (s.wake.setReg64 (pgCHK u + 0x60) (feed 1))) ∧
   (∀ u, u < 16 → let k := State.reset.crcWith u (State.reset.chkSt u).width
     crcOut k (crcFeed k k.init [0x31#8, 0x32#8, 0x33#8, 0x34#8, 0x35#8, 0x36#8, 0x37#8, 0x38#8, 0x39#8]) =
       if u < 8 then 0xE3069283 else 0x6C40DF5F0B497347)) ∧
  ((∀ (s : State) (u : Nat) (v : W32) (i : Instr), s.busUp = true → u < 16 →
     i = .chkData32 u v ∨ i = .chkData8 u v ∨ (i = .init u v ∧ bitAt v.toNat 0 = true) ∨ (i = .scan u v ∧ bitAt v.toNat 1 = true) ∨
       (i = .finish u v ∧ bitAt v.toNat 2 = true) ∨ i = .regWrite (pgCHK u + 0x40) v ∨ i = .regWrite (pgCHK u + 0x4C) v →
     (u = 0 ∨ (u = 15 ∧ s.fab.coel ≠ none) → ∃ t, exec i s = .next t ∧ s.wake.reports t .train ∧ bitAt (t.reg (pgCHK u + 0x10)) 4 = true) ∧
     (u ≠ 0 → (u = 15 → s.fab.coel = none) → (s.chkSt u).scan = true →
       exec i s = .next (s.wake.setReg (pgCHK u + 0x1C) ((s.reg (pgCHK u + 0x1C) + 1) % 2 ^ 32)))) ∧
   (∀ (s : State) (u : Nat) (v : W32), s.busUp = true → 0 < u → u < 16 → (u = 15 → s.fab.coel = none) → (s.chkSt u).scan = false →
     let w := v.toNat % 128
     (w < 8 ∨ 64 < w ∨ v.toNat / 1024 % 4 = 3 → exec (.regWrite (pgCHK u + 0x40) v) s = .next s.wake) ∧
     (8 ≤ w → w ≤ 64 → v.toNat / 1024 % 4 ≠ 3 → ∃ t, exec (.regWrite (pgCHK u + 0x40) v) s = .next t ∧ t.reg (pgCHK u + 0x40) = v.toNat % 2 ^ 15 ∧
       t.reg64 (pgCHK u + 0x60) = s.reg64 (pgCHK u + 0x60) % 2 ^ w ∧
       (∀ a, a ≠ pgCHK u + 0x40 → a ≠ pgCHK u + 0x60 → a ≠ pgCHK u + 0x64 → t.reg a = s.reg a) ∧ t = { s.wake with regs := t.regs }) ∧
     (∀ lo, lo = 0x50 ∨ lo = 0x58 ∨ lo = 0x60 → s.chkWidth u ≤ 64 →
       ∃ t, exec (.pairLowWrite (pgCHK u + lo) v) s = .next t ∧ t = { s.wake with shadow := t.shadow } ∧
         ∀ x : W32, ∃ r, exec (.pairHighWrite (pgCHK u + lo + 4) x) t = .next r ∧
           r.reg64 (pgCHK u + lo) = (v.toNat + 2 ^ 32 * x.toNat) % 2 ^ s.chkWidth u ∧
           (∀ a, a ≠ pgCHK u + lo → a ≠ pgCHK u + lo + 4 → reportReg a = false → r.reg a = s.reg a))))

/-! The Reserve and the Logbook. -/

/-- RSV_GRANULE_CFG stores SCRATCH and takes effect after the cache's write-back (R297, R300): then a granule that changes role reads 0 without poison, every other
byte stays, and the cache of the die is empty. While any context is armed the write shows LOCK_VIOL. -/
def Obligations.Granules : Prop :=
  (∀ (s : State) (m : Nat) (v : W32), m < 4 → s.busUp = true →
    (s.anyArmed = true → ∃ t, exec (.rsvGranuleCfg m v) s = .next t ∧ s.wake.reports t .train ∧ bitAt (t.reg (pgRSV m + 0x10)) 1 = true) ∧
    (s.anyArmed = false → ∃ t, exec (.rsvGranuleCfg m v) s = .next t ∧ t.reg (pgRSV m + 0x40) = v.toNat % 256 ∧
      (∀ a, a ≠ pgRSV m + 0x40 → t.reg a = s.reg a) ∧ ((t.rsv.flush.any (·.1 = m)) = decide (v.toNat % 256 ≠ s.rsv.acting.get 0 m)) ∧
      t = { s.wake with regs := t.regs, rsv.flush := t.rsv.flush })) ∧
  (∀ (s : State) (m : Nat), m < 4 → s.safe →
    ((s.rsv.flush.any (·.1 = m)) = false → exec (.granuleCfgApply m) s = .next s) ∧
    ((s.rsv.flush.any (·.1 = m)) = true →
      let old := s.rsv.acting.get 0 m
      let new := s.reg (pgRSV m + 0x40) % 256
      ∃ t, exec (.granuleCfgApply m) s = .next t ∧ t.rsv.acting.get 0 m = new ∧ (∀ n, n ≠ m → t.rsv.acting.get 0 n = s.rsv.acting.get 0 n) ∧
        (t.rsv.flush.any (·.1 = m)) = false ∧
        (∀ j a, j < 8 → (8 * m + j) * 0x2000000 ≤ a → a < (8 * m + j + 1) * 0x2000000 →
          (bitAt old j ≠ bitAt new j → t.rsv.mem.read a = 0#8 ∧ ¬ a / 64 ∈ t.rsv.poison) ∧
          (bitAt old j = bitAt new j → t.rsv.mem.read a = s.rsv.mem.read a ∧ (a / 64 ∈ t.rsv.poison ↔ a / 64 ∈ s.rsv.poison))) ∧
        (∀ a, a < m * 0x10000000 ∨ (m + 1) * 0x10000000 ≤ a → t.rsv.mem.read a = s.rsv.mem.read a) ∧
        (∀ k, k / 8192 = m → t.rsv.cache.get [] k = []) ∧ (∀ k, k / 8192 ≠ m → t.rsv.cache.get [] k = s.rsv.cache.get [] k) ∧
        t.rsv.excluded = s.rsv.excluded ∧ t = { s with rsv := t.rsv }))

/-- A record waits for its turn (R496); a write that reads back well is the record in force, with SEQ one above the winner's, and no byte outside its slot
changes; a bad read-back is written again up to twice, then reported (R495). The slot of a pair that wins is never written. -/
def Obligations.LogbookWrites : Prop :=
  (∀ (s : State) (type : Nat) (p : List Byte), (logSlots type).isSome = true → s.sys.pstate < 3 → s.sys.mrstLow = false →
    exec (.logbookWrite type p) s = .next { s with log.queue := s.log.queue ++ [(type, p)] }) ∧
  (∀ (s : State) (type : Nat) (p : List Byte), (logSlots type).isSome = false ∨ 3 ≤ s.sys.pstate ∨ s.sys.mrstLow = true →
    exec (.logbookWrite type p) s = .next s) ∧
  (∀ (s : State) (ok : Bool), s.log.queue = [] → exec (.logbookWriteComplete ok) s = .next s) ∧
  (∀ (s : State) (type base size n slot tb : Nat) (p : List Byte) (rest : List (Nat × List Byte)), s.safe → s.log.queue = (type, p) :: rest →
    logSlots type = some (base, size, n) → s.logTarget type = (slot, tb, size) →
    (n = 2 → ∀ q b, s.logWin type = some (q, b) → tb ≠ b) ∧
    (p.length + 0x14 ≤ size → (∀ q b, s.logWin type = some (q, b) → q + 1 < 2 ^ 64) →
      (∃ t, exec (.logbookWriteComplete true) s = .next t ∧ t.logRecord type = some p ∧
        (∀ q b, s.logWin type = some (q, b) → t.logWin type = some (q + 1, tb)) ∧ (s.logWin type = none → t.logWin type = some (1, tb)) ∧
        (∀ a, a < tb ∨ tb + size ≤ a → t.log.flash.read a = s.log.flash.read a) ∧ t.log.queue = rest ∧ t.log.tries = 0 ∧
        t = { s with log := t.log }) ∧
      (s.log.tries < 2 → ∃ t, exec (.logbookWriteComplete false) s = .next t ∧ t.log.queue = s.log.queue ∧ t.log.tries = s.log.tries + 1 ∧
        (∀ a, a < tb ∨ tb + size ≤ a → t.log.flash.read a = s.log.flash.read a) ∧ t = { s with log := t.log }) ∧
      (2 ≤ s.log.tries → ∃ t, exec (.logbookWriteComplete false) s = .next t ∧ t.log.queue = rest ∧ t.log.tries = 0 ∧
        (∀ a, a < tb ∨ tb + size ≤ a → t.log.flash.read a = s.log.flash.read a) ∧ ({ s with log := t.log } : State).reports t .train)) ∧
    (size < p.length + 0x14 → ∀ ok, ∃ t, exec (.logbookWriteComplete ok) s = .next t ∧
      ({ s with log.queue := rest, log.tries := 0 } : State).reports t .train))

/-! The PCI Express endpoint (16). -/

/-- No error injection is armed (R404). -/
abbrev Sys2Proof.Machine.State.noInjection (s : State) : Prop := ∀ p, p % 0x1000 = 0 → bitAt (s.reg (p + 0x18)) 8 = false

/-- A failed read of host memory is repeated up to three times, the fourth marks the unit poisoned; a good one delivers clean data (R438). A vector
held back by its hold-off sends at its end, and waits in the pending array while masked; unmasking sends it (R450). Link loss, and configuration
requests before READY (R435, R493). BAR2 (R437): a read returns the stack's bytes, ones beyond the map, with the poisoned bit of the units it reads; a
write stores its bytes, those in the Catalogue's master copy as descriptors (R219, R302), but while any context is armed it is discarded and counted. -/
def Obligations.HostEndpoint : Prop :=
  ((∀ (s : State) (a : Nat),
     let u := a / 64
     exec (.hostReadCompletion a true) s = .next { s with host.fails := s.host.fails.drop (· = u), host.poison := eraseNat u s.host.poison } ∧
     (s.host.fails.get 0 u < 3 → exec (.hostReadCompletion a false) s = .next { s with host.fails := s.host.fails.set u (s.host.fails.get 0 u + 1) }) ∧
     (3 ≤ s.host.fails.get 0 u → ∃ t, exec (.hostReadCompletion a false) s = .next t ∧ (∀ x, x ∈ t.host.poison ↔ x = u ∨ x ∈ s.host.poison) ∧
       t = { s with host.poison := t.host.poison, host.fails := s.host.fails.drop (· = u) })) ∧
   (∀ (s : State) (v : Nat),
     (s.host.msixHold.contains v = false → exec (.msixHoldoffEnd v) s = .next s) ∧
     (s.host.msixHold.contains v = true → s.host.msixDue.contains v = false →
       exec (.msixHoldoffEnd v) s = .next { s with host.msixHold := eraseNat v s.host.msixHold }) ∧
     (s.host.msixHold.contains v = true → s.host.msixDue.contains v = true →
       let masked := bitAt (s.reg (msixTable + 16 * v + 12)) 0
       exec (.msixHoldoffEnd v) s = .next { s with
         host.msixDue := eraseNat v s.host.msixDue,
         host.msixPend := if masked then insertNat v s.host.msixPend else s.host.msixPend,
         out := if masked then s.out else s.out ++ [.msix v] })) ∧
   (∀ (s : State) (v : Nat) (x : W32), v < 512 → s.busUp = true →
     let u := s.wake.setReg (msixTable + 16 * v + 12) (if bitAt x.toNat 0 then s.reg (msixTable + 16 * v + 12) ||| 1 else s.reg (msixTable + 16 * v + 12) / 2 * 2)
     exec (.regWrite (msixTable + 16 * v + 12) x) s = .next (if s.host.msixPend.contains v && !bitAt x.toNat 0 then
       ({ u with host.msixPend := eraseNat v s.host.msixPend } : State).emit (.msix v) else u)) ∧
   (∀ s : State, exec .pcieLinkDown s = .next { s with host.linkUp := false }) ∧
   (∀ s : State, (s.host.linkUp = true → s.ready = true → exec .configurationRequest s = .next (s.emit .configDone)) ∧
     (s.host.linkUp = true → s.ready = false → exec .configurationRequest s = .next (s.emit .retryStatus)) ∧
     (s.host.linkUp = false → exec .configurationRequest s = .next s))) ∧
  ((∀ (s : State) (off len : Nat), s.busUp = true → s.noInjection →
     let a := s.reg64 (pgHST + 0x44) + off
     ∃ (t : State) (bs : List Byte) (p : Bool), exec (.bar2Read off len) s = .next t ∧ t.out = s.out ++ [.readData bs p] ∧ bs.length = len ∧
       (∀ i, i < len → nth 0#8 i bs = if s.stkHas (a + i) then s.stkByte (a + i) else 0xFF#8) ∧
       (p = true ↔ ∃ u ∈ unitsOf a len, s.stkHas (u * 64) = true ∧ s.stkPoisoned (u * 64) = true) ∧
       (∀ b, (∀ m, b < pgRSV m + 0x48 ∨ pgRSV m + 0x58 ≤ b) → t.reg b = s.reg b) ∧
       t = { s.wake with out := t.out, regs := t.regs, rsv.cache := t.rsv.cache, rsv.tree := t.rsv.tree, free := t.free }) ∧
   (∀ (s : State) (off : Nat) (data : List Byte), s.busUp = true → s.safe →
     let a := s.reg64 (pgHST + 0x44) + off
     (s.anyArmed = true → exec (.bar2Write off data) s = .next (s.wake.setReg (pgHST + 0x1C) ((s.reg (pgHST + 0x1C) + 1) % 2 ^ 32))) ∧
     (s.anyArmed = false → a + data.length ≤ s.mapTop → s.stk.remap = [] →
       (∀ i, i < data.length → s.stkFenced (a + i) = false ∧ s.catHas (a + i) = true) →
       ∃ t, exec (.bar2Write off data) s = .next t ∧ ∀ i, i < data.length → t.stkByte (a + i) = nth 0#8 i data) ∧
     (s.anyArmed = false → a + data.length ≤ s.privBase → s.stk.remap = [] → (∀ i, i < data.length → s.stkFenced (a + i) = false) →
       ∃ t, exec (.bar2Write off data) s = .next t ∧ (∀ i, i < data.length → t.stk.mem.read (a + i) = nth 0#8 i data) ∧
         (∀ b, b < a ∨ a + data.length ≤ b → t.stk.mem.read b = s.stk.mem.read b) ∧
         (∀ u, u ∈ t.stk.poison ↔ u ∈ s.stk.poison ∧ (u ∈ wholeUnits a data.length → u ∈ s.stk.dead)) ∧
         t = { s.wake with stk.mem := t.stk.mem, stk.poison := t.stk.poison, regs := t.regs, rsv.cache := t.rsv.cache, rsv.tree := t.rsv.tree,
                           free := t.free })))


/-! Ephemeris lines (8.1, 8.5, R245 to R258). -/

/-- The commands that issue a head line: logical tile, context, opcode (R244). -/
def Sys2Proof.Machine.issueOf : Instr → Option (TileId × Ctx × Nat)
  | .nop t c => some (t, c, 0x00)
  | .loop t c => some (t, c, 0x01)
  | .qwin t c => some (t, c, 0x02)
  | .stepend t c => some (t, c, 0x03)
  | .pmov t c _ => some (t, c, 0x10)
  | .ald t c _ => some (t, c, 0x20)
  | .aosp t c _ => some (t, c, 0x21)
  | .amm t c _ _ => some (t, c, 0x22)
  | .aout t c _ _ => some (t, c, 0x23)
  | .vch t c _ _ => some (t, c, 0x30)
  | .vld t c _ => some (t, c, 0x31)
  | .vst t c => some (t, c, 0x32)
  | .vsmx t c _ _ => some (t, c, 0x33)
  | .vgth t c _ => some (t, c, 0x34)
  | .vsct t c _ => some (t, c, 0x35)
  | .csend t c _ => some (t, c, 0x40)
  | .crecv t c => some (t, c, 0x41)
  | .cupd t c _ => some (t, c, 0x42)
  | .psend t c _ => some (t, c, 0x43)
  | .precv t c => some (t, c, 0x44)
  | _ => none

/-- A unit line that meets no upset. -/
def Sys2Proof.Machine.cleanLine : Instr → Bool
  | .pmov _ _ [] | .ald _ _ [] | .aosp _ _ [] | .amm _ _ [] _ | .aout _ _ [] _ | .vch _ _ [] _ | .vld _ _ [] | .vst _ _ | .vsmx _ _ [] _
  | .vgth _ _ [] | .vsct _ _ [] | .csend _ _ [] | .crecv _ _ | .cupd _ _ [] | .psend _ _ [] | .precv _ _ => true
  | _ => false

/-- The head line of context c on logical tile t, which is physical tile k, has opcode op and meets the six conditions of R245. -/
abbrev Sys2Proof.Machine.State.issues (s : State) (t : TileId) (c : Ctx) (k op : Nat) : Prop :=
  s.physOf t = some k ∧ s.seqActive k c = true ∧ (s.lctx k c).l.op = op ∧
    s.stallOf (s.lctx k c) (s.fxOf (s.lctx k c)) = none ∧ s.granted (s.lctx k c) = true

/-- Times that a reference stands in a list. -/
def Sys2Proof.Machine.timesIn (r : Nat) (l : List Nat) : Nat := (l.filter (· = r)).length

/-- A fault of a context that runs a step (R39, R208, R345): the marker is kept and sent with the attempt's mark, recoveries end, no later line issues, ABORTING; the first fault's
code and record number are those of the completion. -/
def Sys2Proof.Machine.State.killed (s : State) (c : Ctx) (code n : Nat) : State :=
  let rank := (s.cxt c).rank
  let m := match (s.cxt c).run with
    | none => []
    | some r => if s.isRoot then (if s.kids = [] then [] else [Out.faultDown c 0 rank r.mark.1 r.mark.2])
      else [Out.faultUp c 0 rank r.mark.1 r.mark.2]
  ({ s.dropArb c with out := s.out ++ m } : State).modCx c fun (x : CtxSt) =>
    { x with state := .aborting,
             run := x.run.map fun (r : StepRun) => { r with marker := true, faultCode := if r.faultCode = 0 then code else r.faultCode,
                                                            faultSeq := if r.faultCode = 0 then n else r.faultSeq, outcome := some (none, true), replaying := false } }

/-- NOP, LOOP, QWIN and STEPEND issue and complete at once (R245, R246): each wait takes one count of its token or barrier; the head moves to the
line after or through the loops (R255), LOOP opens its body, STEPEND ends the table; each post counts one up unless a line issued earlier has yet to
post the same token, behind which it is held (R248); barrier posts count, STEPEND posts STEP (R250); QWIN counts a declaration that its stacks' windows open or
close (R256). Nothing else changes but that the tile's power request leaves the queue. -/
def Obligations.InstantLines : Prop :=
  ∀ (s : State) (t : TileId) (c : Ctx) (k op : Nat) (i : Instr), s.safe → issueOf i = some (t, c, op) → op < 4 → s.issues t c k op →
    let l := s.headLine k c
    let x := s.tctx k c
    (∀ e ∈ x.openPosts, e.1 ≤ x.issued) → (∀ e ∈ x.heldPosts, ∃ o ∈ x.openPosts, o.2 = e.2 ∧ o.1 ≤ e.1) →
    ∃ u, exec i s = .next u ∧
      (let y := u.tctx k c
       let early (n : Nat) : Bool := x.openPosts.any fun o => o.2 = n
       y = { x with issued := x.issued + 1, executed := x.executed + 1, line := y.line, loops := y.loops, ended := x.ended || decide (op = 3),
                    tokens := y.tokens, barriers := y.barriers, posted := y.posted,
                    heldPosts := x.heldPosts ++ (l.posts.filter fun r => decide (refKind r = 1) && early (refNum r)).map fun r => (x.issued + 1, refNum r) } ∧
       (op = 0 ∨ op = 2 → (y.line, y.loops) = loopNext x.line x.loops) ∧
       (op = 1 → y.line = x.line + 1 ∧ y.loops = ⟨x.line + 1, x.line + l.f 0 14, 0, l.f 14 16, l.f 30 16⟩ :: x.loops) ∧
       (op = 3 → y.line = x.line ∧ y.loops = x.loops) ∧
       ∀ n, n < 256 →
         (x.tokens.get 0 n ≤ 0xFFFF → y.tokens.get 0 n =
           min 0xFFFF (x.tokens.get 0 n - timesIn (256 + n) l.waits + if early n then 0 else timesIn (256 + n) l.posts)) ∧
         y.barriers.get 0 n = x.barriers.get 0 n - timesIn (512 + n) l.waits ∧
         y.posted.get 0 n = x.posted.get 0 n + timesIn (512 + n) l.posts + if op = 3 ∧ n = 241 then 1 else 0) ∧
      u.tile k = { (s.tile k) with cx := (u.tile k).cx, last := some c } ∧ (∀ d, d ≠ c → u.tctx k d = s.tctx k d) ∧
      (∀ j, j ≠ k → u.tile j = s.tile j) ∧
      (∀ st, u.stackSt st = if op = 2 ∧ st < 8 ∧ bitAt (l.f 0 8) st = true then
        { (s.stackSt st) with windows := (s.stackSt st).windows + if l.bit 8 then 1 else -1 } else s.stackSt st) ∧
      u = { s.powerSet (s.lctx k c) false with tiles := u.tiles, stk.st := u.stk.st }

/-- A head line that cannot issue counts one stalled tc under the first reason of R280 that holds: PRIO, TOKEN, INTLK, UNIT, then FENCE where its charge is
granted, else POWER; a line that waits for power alone asks for its charge once (R283), and for any other reason asks for none. It counts while its
context is paused or a stack halt holds it (R313, R453), not while its island's clock stands (R32). A command for another line than the head's changes
nothing. After the limit EPH_STALL kills the context with 0x0806, for whatever slip the line waits (R270, R208, R313). -/
def Obligations.HeadStalls : Prop :=
  (∀ (s : State) (t : TileId) (c : Ctx) (k op : Nat) (i : Instr), issueOf i = some (t, c, op) → s.physOf t = some k →
     let x := s.lctx k c
     let f := s.fxOf x
     let l := s.headLine k c
     let met : Prop := ∀ r ∈ l.waits, refKind r = 1 ∨ refKind r = 2 → timesIn r l.waits ≤ (s.tctx k c).count r
     let free : Prop := s.prioStall k c = false ∧ met ∧ s.interlocked x f = false ∧ s.unitBusy x f = false
     let fenced : Prop := l.fence = true ∧ s.mine k c ≠ []
     let counted (w : State) (r : Stall) : Prop := ∃ u, exec i s = .next u ∧ u = { w with regs := u.regs } ∧
       (let a := tilCtx (k / 48) (k % 48) c r.off
        u.reg64 a = min (s.reg64 a + 1) (2 ^ 48 - 1) ∧ ∀ b, b ≠ a → b ≠ a + 4 → u.reg b = s.reg b)
     (s.seqLine k c = true → s.islandStopped k = false → l.op = op →
       (s.prioStall k c = true → counted (s.powerDrop x) .prio) ∧
       (s.prioStall k c = false → ¬ met → counted (s.powerDrop x) .token) ∧
       (s.prioStall k c = false → met → s.interlocked x f = true → counted (s.powerDrop x) .intlk) ∧
       (s.prioStall k c = false → met → s.interlocked x f = false → s.unitBusy x f = true → counted (s.powerDrop x) .unit) ∧
       (free → fenced → s.granted x = true → counted (s.powerDrop x) .fence) ∧
       (free → fenced → s.granted x = false → counted (s.powerDrop x) .power) ∧
       (free → ¬ fenced → s.granted x = false → counted (s.powerSet x true) .power) ∧
       (free → ¬ fenced → s.granted x = true → s.seqActive k c = false → exec i s = .next s)) ∧
     (s.seqLine k c = false ∨ s.islandStopped k = true ∨ l.op ≠ op → exec i s = .next s) ∧
     (s.powerSet x true).dies = (s.modDie (k / 48) fun d => { d with powerQ :=
       if (x.lt, c) ∈ d.powerQ then d.powerQ else (d.powerQ.filter fun q => q.1 != x.lt) ++ [(x.lt, c)] }).dies) ∧
  (∀ (s : State) (t : TileId) (c : Ctx) (op : Nat) (i : Instr), issueOf i = some (t, c, op) → s.physOf t = none → exec i s = .next s) ∧
  (∀ (s : State) (t : TileId) (c : Ctx) (k : Nat), s.physOf t = some k →
     let x := s.lctx k c
     let f := s.fxOf x
     let waits : Prop := s.tileHalted k = true ∨ s.islandStopped k = true ∨ s.stallOf x f ≠ none ∨ s.granted x = false ∨ s.inputWait x f = true
     (s.seqLine k c = true → (s.cxt c).paused = false → waits →
       ∃ u n, exec (.ephStall t c) s = .next u ∧ (s.killed c 0x0806 n).reports u c) ∧
     (s.seqLine k c = false ∨ (s.cxt c).paused = true ∨ ¬ waits → exec (.ephStall t c) s = .next s))

/-- A unit line that meets the conditions of R245, with no upset, no poison to consume, no fault found at issue and checks that report nothing, runs
(R246): it is in flight on its tile, with the bytes, bits and registers that the interlocks hold, its posts and its charge; its waits are consumed, the
head has moved (R255), its posts are open (R248). No context, Catalogue entry or role changes; no other context's tile state; no line of another tile.
A line whose checks at issue find a fault reads and writes nothing: it leaves the head and kills its context (R290, R208). -/
def Obligations.LinesRun : Prop :=
  (∀ (s : State) (i : Instr) (t : TileId) (c : Ctx) (k op : Nat), s.safe → issueOf i = some (t, c, op) →
    cleanLine i = true → s.issues t c k op → s.noInjection →
    let x := s.lctx k c
    let f := s.fxOf x
    let u := (s.lineReads f.reads []).takeHead x f
    let g := u.fxOf x
    let y := s.tctx k c
    f.fault = none → (s.lineReads f.reads []).hits ((s.lineReads f.reads []).fxOf x) = [] → u.hits g = [] → g.fault = none →
    g.mis [] (u.dropCopies c g.writeKeys) = none →
    ∃ w r, exec i s = .next w ∧ (w.tile k).running = (s.tile k).running ++ [r] ∧
      r.ctx = c ∧ r.line = y.line ∧ r.iter = loopIter y.loops ∧ r.no = y.issued + 1 ∧ r.opcode = op ∧ r.unit = g.unit ∧ r.d = x.l.d ∧
      r.posts = x.l.posts ∧ r.remote = g.remote ∧ r.pcost = x.l.pcost ∧ r.lclass = x.l.lclass ∧ r.reads = g.readKeys ∧ r.writes = g.writeKeys ∧
      r.wbits = g.writeMarks ∧ r.banks = g.banks ∧ r.release = g.release ∧ r.arb = none ∧ r.waitPlan = g.plan ∧ (op ≠ 0x43 → r.sent = []) ∧
      (let z := w.tctx k c
       z.issued = y.issued + 1 ∧ (z.line, z.loops) = loopNext y.line y.loops ∧ z.ended = y.ended ∧ z.posted = y.posted ∧ z.heldPosts = y.heldPosts ∧
       z.openPosts = y.openPosts ++ (postKeys (tileKey ⟨k / 48, x.lt⟩) x.l.posts f.remote).map (fun key => (y.issued + 1, key)) ∧
       ∀ n, n < 256 → z.tokens.get 0 n = y.tokens.get 0 n - timesIn (256 + n) x.l.waits ∧
         z.barriers.get 0 n = y.barriers.get 0 n - timesIn (512 + n) x.l.waits) ∧
      (w.tile k).last = some c ∧ (∀ j, j ≠ k → (w.tile j).running = (s.tile j).running) ∧ (∀ j, (w.tile j).eph = (s.tile j).eph) ∧
      (∀ j d, d ≠ c → w.tctx j d = s.tctx j d) ∧
      w.dies = (s.powerSet x false).dies ∧ w.cx = s.cx ∧ w.catalogue = s.catalogue ∧ w.roles = s.roles ∧ w.plt = s.plt ∧ w.thr = s.thr ∧ w.chk = s.chk ∧ w.sec = s.sec) ∧
  (∀ (s : State) (i : Instr) (t : TileId) (c : Ctx) (k op : Nat) (r : FRec), issueOf i = some (t, c, op) → 3 < op → s.issues t c k op →
    (s.fxOf (s.lctx k c)).fault = some r →
    ∃ w n, exec i s = .next w ∧ ((s.takeHead (s.lctx k c) (s.fxOf (s.lctx k c))).killed c r.code n).reports w c)

/-- The tensors that a storing line writes hold every element that it produces, and whole MX blocks (what the checker asks of shapes: R100, R160, R171). -/
def Sys2Proof.Machine.State.shapesAgree (s : State) (x : LCtx) (g : Fx) : Prop :=
  let d (i : Nat) : Desc := s.desc x.c (x.l.s i)
  (∀ a ∈ g.writes, a.d.isMX = true → ∀ m ∈ a.lins, ∀ n ∈ a.d.mxBlock m, n ∈ a.lins) ∧
  (x.l.op = 0x10 → (s.pmovStash x = none) ∧ (d 0).count = (d 1).count) ∧
  (x.l.op = 0x30 → (s.chain x).outReg = false → ∀ j, j = x.l.s 2 ∨ j = (s.chain x).out2 → j ≠ 0xFFFF →
    (∀ o ∈ s.vchOuts x (s.chain x), o.lin < (s.desc x.c j).count) ∧ ((s.chain x).redDim = none → (s.desc x.c j).count = (d 0).count)) ∧
  (x.l.op = 0x30 → (s.chain x).outReg = false → x.l.s 2 ≠ 0xFFFF) ∧
  (x.l.op = 0x32 → x.l.s 0 ≠ 0xFFFF ∧ (d 0).e 0 = (d 0).count) ∧
  (x.l.op = 0x33 → x.l.s 1 ≠ 0xFFFF ∧ (d 1).count = (d 0).rows * (d 0).e 0 ∧ (x.l.bit 33 = true → x.l.s 3 ≠ 0xFFFF ∧ (d 3).count = (d 0).rows)) ∧
  (x.l.op = 0x34 ∨ x.l.op = 0x35 → x.l.s 2 ≠ 0xFFFF) ∧
  (x.l.op = 0x10 → x.l.s 1 ≠ 0xFFFF)

/-- Flits of a contribution of n bytes, in one message: a header and the data, 15 chunks of 16 bytes to a flit (R330, R331). -/
def Sys2Proof.Machine.flitsOf (n : Nat) : Nat := ceilDiv (1 + ceilDiv n 16) 15

/-- What a clean line that runs leaves in the memories. A line that stores reaches only the bytes that it names as written (R238), in a tile store, the Reserve or a stack whose bytes no remap
moves. ALD, AOSP, VLD and the hand-off lines store no result: ALD fills each named bank with the slab's weights, 0 beyond N, under its tag (R107, R114, R118); AOSP
reads a profile into its slot (R119); VLD brings D0 into the register's lanes, 0 in the others (R148); CSEND, CUPD and PSEND stage this member's
contribution, the staging region's bytes alone becoming unspecified (entry 75), and queue its message for each member that needs it on the port that
the forwarding table names (R331, R340, R341, R351, R352; stated for contributions of at most 1 MiB); CRECV and PRECV wait. -/
def Obligations.LineEffects : Prop :=
  ∀ (s : State) (i : Instr) (t : TileId) (c : Ctx) (k op : Nat), s.safe → issueOf i = some (t, c, op) →
    cleanLine i = true → s.issues t c k op → s.noInjection →
    let x := s.lctx k c
    let f := s.fxOf x
    let u := (s.lineReads f.reads []).takeHead x f
    let g := u.fxOf x
    let d0 := s.desc c (x.l.s 0)
    f.fault = none → (s.lineReads f.reads []).hits ((s.lineReads f.reads []).fxOf x) = [] → u.hits g = [] → g.fault = none →
    g.mis [] (u.dropCopies c g.writeKeys) = none →
    ∃ w, exec i s = .next w ∧
      (op = 0x10 ∨ op = 0x22 ∨ op = 0x23 ∨ op = 0x30 ∨ (0x32 ≤ op ∧ op ≤ 0x35) → s.stk.remap = [] → s.shapesAgree x g →
        (∀ j a, (⟨0, j, c⟩ : Space).byteKey a ∉ g.writeKeys → (w.tile j).mem.read a = (s.tile j).mem.read a) ∧
        (∀ a, (⟨1, k, c⟩ : Space).byteKey a ∉ g.writeKeys → w.rsv.mem.read a = s.rsv.mem.read a) ∧
        (∀ a, (⟨2, k, c⟩ : Space).byteKey a ∉ g.writeKeys → w.stk.mem.read a = s.stk.mem.read a) ∧
        ((∀ a ∈ g.writes, a.d.space ≠ 3) → w.host = s.host)) ∧
      (op = 0x20 ∨ op = 0x21 ∨ op = 0x31 ∨ op = 0x41 ∨ op = 0x44 → (∀ j, (w.tile j).mem = (s.tile j).mem ∧ (w.tile j).poison = (s.tile j).poison) ∧
        w.rsv.mem = s.rsv.mem ∧ w.stk = s.stk ∧ w.host = s.host) ∧
      (op = 0x20 →
        let tag := s.aldTag x
        (∀ a b, a ∈ x.l.arrays → b ∈ x.l.banksOf →
          let z := (w.tile k).bank (bankKey a b)
          z.tag = some tag ∧ z.fmt = d0.fmt ∧ z.cols = (tag.cols a).map (fun n => (tag.ks b).map fun m =>
            if n < d0.weightN (x.l.bit 7) then s.elRaw x.v d0 (d0.weightLin (x.l.bit 7) m n) else 0) ∧
          (w.tctx k c).loaded.find? (·.1 = bankKey a b) = some (bankKey a b, tag) ∧ (bankKey a b, x.l.s 0) ∈ (w.tctx k c).held) ∧
        (∀ key, key ∉ x.l.bankKeys → (w.tile k).bank key = (s.tile k).bank key) ∧ (∀ j, j ≠ k → (w.tile j).banks = (s.tile j).banks)) ∧
      (op ≠ 0x20 → op ≠ 0x22 → ∀ j, (w.tile j).banks = (s.tile j).banks) ∧
      (op = 0x21 → (w.tctx k c).profiles.get 0#256 (x.l.f 0 3) = BitVec.ofNat 256 (ofBytesLE (s.footBytes x.v d0)) ∧
        ∀ n, n ≠ x.l.f 0 3 → (w.tctx k c).profiles.get 0#256 n = (s.tctx k c).profiles.get 0#256 n) ∧
      (op ≠ 0x21 → (w.tctx k c).profiles = (s.tctx k c).profiles) ∧
      (op = 0x31 → let bf := x.l.bit 5
        (∀ n, n < lanesOfMode bf → vregEl bf (w.vreg k c (x.l.f 0 5)) n =
          if n < d0.e 0 then (if bf then toBF16 (s.elF32 x.v d0 n) % 2 ^ 16 * 2 ^ 16 else s.elF32 x.v d0 n % 2 ^ 32) else 0) ∧
        ∀ n, n ≠ x.l.f 0 5 → w.vreg k c n = s.vreg k c n) ∧
      (op ≠ 0x30 → op ≠ 0x31 → ∀ n, w.vreg k c n = s.vreg k c n) ∧
      (op = 0x40 ∨ op = 0x42 ∨ op = 0x43 → ∀ z, (s.cxt c).run = some z →
        let j := x.l.f 0 16
        let p := s.plan c j
        let dest (m : Nat) : Nat := s.memberDevice c p m
        let keys := (List.range p.bytes).map fun n => 2 ^ 48 + p.base + n
        let vc := if p.algo = 7 then 1 else 0
        let own : Part := ⟨p.myidx, z.mark.1, z.mark.2, (s.contribution x.v d0).1, (s.contribution x.v d0).2, if op = 0x42 then some (x.l.s 1) else none⟩
        let hdr : MsgHdr := ⟨s.devId, c.num, z.mark.1, true, if p.algo = 7 then p.tag else j, z.mark.2, 0, own.data.length⟩
        own.data = (List.range d0.count).flatMap (fun n => bytesLE d0.bytes (s.elRaw x.v d0 n)) ∧
        w.planSt c j = { (s.planSt c j) with engine := p.engine, later := (s.planSt c j).later ++ [own] } ∧
        (∀ q, q ≠ planKey c j → w.fab.plans.get PlanSt.reset q = s.fab.plans.get PlanSt.reset q) ∧
        w.fab = { s.fab with plans := w.fab.plans, ports := w.fab.ports } ∧
        s.keepsTiles w keys ∧ s.keepsRsv w keys ∧ s.keepsStk w keys ∧
        ((∀ m ∈ p.targets, s.fwdEntry p.engine (dest m) < 12 ∨ s.fwdEntry p.engine (dest m) = 0xE) → s.keepsHost w keys) ∧ (∀ n, (w.tile n).poison = (s.tile n).poison) ∧ w.rsv.poison = s.rsv.poison ∧ w.stk.poison = s.stk.poison ∧
        (0 < own.data.length → own.data.length ≤ 0x100000 → ∀ e, e < 12 →
          let mine := p.targets.filter fun m => decide (s.fwdEntry p.engine (dest m) = e)
          (w.port e).ownPut = (s.port e).ownPut + mine.length * flitsOf own.data.length ∧
          ((s.port e).state ≠ 2 → (w.port e).txQueue = (s.port e).txQueue ++
            mine.flatMap fun m => (msgFlits vc (dest m) hdr own.data own.poison).map fun b => (12, b)))) ∧
      (op ≠ 0x40 → op ≠ 0x42 → op ≠ 0x43 → w.fab = s.fab ∧ w.out = s.out)

/-- What the completion of line r on physical tile k after tc leaves in a step that is not being replayed: the line is gone, its flags have joined
the context's (R99), its posts, and those that waited for it alone, have taken effect in issue order (R248), its barrier posts count (R250), a RELEASE
pass frees its ALD sources (R118), the completed lines count (R507), a late line is counted and captured (R279). Memory stays. -/
def Sys2Proof.Machine.State.lineDone (s u : State) (k : Nat) (r : Running) (tc : Nat) : Prop :=
  let c := r.ctx
  let x := s.tctx k c
  let y := u.tctx k c
  let til := tilCtx (k / 48) (k % 48) c
  let still := x.openPosts.filter fun e => e.1 ≠ r.no
  let ready := x.heldPosts ++ x.openPosts.filter fun e => e.1 = r.no
  let due (e : Nat × Nat) : Bool := still.all fun o => decide (o.2 = e.2 → e.1 < o.1)
  let late : Bool := decide (2 ^ (r.lclass + 3) < tc)
  (u.tile k).running = (s.tile k).running.filter (fun q => !(q.ctx = c && q.no = r.no)) ∧
  (u.cxt c).nonfinite = r.flags.nonfinite.foldl (fun l e => addFlag e l) (s.cxt c).nonfinite ∧
  (∀ j, j ∈ (u.cxt c).saturated ↔ j ∈ r.flags.saturated ∨ j ∈ (s.cxt c).saturated) ∧
  (∀ j, j ∈ (u.cxt c).empty ↔ j ∈ r.flags.empty ∨ j ∈ (s.cxt c).empty) ∧
  u.cxt c = { (s.cxt c) with nonfinite := (u.cxt c).nonfinite, saturated := (u.cxt c).saturated, empty := (u.cxt c).empty } ∧
  (∀ d, d ≠ c → u.cxt d = s.cxt d) ∧
  y.openPosts = still ∧ y.heldPosts = ready.filter (fun e => !due e) ∧
  (∀ n, n < 256 →
    ((∀ e ∈ ready, e.2 < 256) → x.tokens.get 0 n ≤ 0xFFFF →
      y.tokens.get 0 n = min 0xFFFF (x.tokens.get 0 n + (ready.filter fun e => due e && decide (e.2 = n)).length)) ∧
    y.posted.get 0 n = x.posted.get 0 n + timesIn (512 + n) r.posts) ∧
  (∀ e j, ready = [e] → due e = true → 256 ≤ e.2 → s.physOf ⟨(e.2 / 256 - 1) / 64, (e.2 / 256 - 1) % 64⟩ = some j → j ≠ k →
    (u.tctx j c).tokens.get 0 (e.2 % 256) = min ((s.tctx j c).tokens.get 0 (e.2 % 256) + 1) 0xFFFF) ∧
  ((∀ e ∈ ready, e.2 < 256) → ∀ j, j ≠ k → u.tile j = s.tile j) ∧
  y.held = (if r.release then x.held.filter fun h => !r.banks.contains h.1 else x.held) ∧
  (y.line, y.loops, y.ended, y.issued, y.barriers, y.vregs, y.profiles, y.loaded) =
    (x.line, x.loops, x.ended, x.issued, x.barriers, x.vregs, x.profiles, x.loaded) ∧
  (∀ j, (u.tile j).mem = (s.tile j).mem ∧ ∀ d, d ≠ c → u.tctx j d = s.tctx j d) ∧
  (r.unit = .pass → u.reg (pgARY (k / 48) (k % 48) + 0x44) = (s.reg (pgARY (k / 48) (k % 48) + 0x44) + 1) % 2 ^ 32) ∧
  (r.unit = .vec → u.reg (pgVEC (k / 48) (k % 48) + 0x44) = (s.reg (pgVEC (k / 48) (k % 48) + 0x44) + 1) % 2 ^ 32) ∧
  (r.unit = .porter → let n (i : Nat) : Nat := let e := s.desc c (nth 0xFFFF i r.d); ceilDiv (e.count * e.elBits) 8
    u.reg64 (pgPOR (k / 48) (k % 48) + 0x44) = (s.reg64 (pgPOR (k / 48) (k % 48) + 0x44) + max (n 0) (n 1)) % 2 ^ 64) ∧
  (late = true → u.reg64 (til 0x30) = min (s.reg64 (til 0x30) + 1) (2 ^ 48 - 1)) ∧
  (late = true → bitAt (s.reg (til 0x38)) 31 = false →
    u.reg (til 0x38) = r.line % 2 ^ 14 + 2 ^ 31 ∧ u.reg (til 0x3C) = r.iter ∧ u.reg (til 0x40) = min tc 0xFFFFFFFF) ∧
  (∀ a, ¬ (late = true ∧ til 0x30 ≤ a ∧ a ≤ til 0x40) → ¬ (r.unit = .pass ∧ a = pgARY (k / 48) (k % 48) + 0x44) →
    ¬ (r.unit = .vec ∧ a = pgVEC (k / 48) (k % 48) + 0x44) →
    ¬ (r.unit = .porter ∧ (a = pgPOR (k / 48) (k % 48) + 0x44 ∨ a = pgPOR (k / 48) (k % 48) + 0x48)) → u.reg a = s.reg a) ∧
  (late = true → bitAt (s.reg (til 0x38)) 31 = true → ∀ a, til 0x34 < a → u.reg a = s.reg a ∨ ¬ a ≤ til 0x40)

/-- LINE_COMPLETE ends a line in flight that is no pass. A hand-off line that waits for its plan's result does not end before it has come, and then writes it; a
PSEND does not end before its receiver has acknowledged every flit (R352). PASS_COMMIT ends a row block of a pass on the tile that runs it or on a helper, and
the pass with its last one (R134, R262); a pass under arbitration does not commit (R388). Neither ends anything on a tile whose clock stands (R32). A helper
takes the highest row block not taken and runs it on its own arrays with the donor's charge (R118, R262, R287), not while a stack is halted (R313). -/
def Obligations.LineEnds : Prop :=
  (∀ (s : State) (t : TileId) (c : Ctx) (k : Nat) (r : Running) (tc : Nat), s.safe → s.physOf t = some k →
     (∀ z, (s.cxt c).run = some z → z.replaying = false) → (s.cxt c).state ≠ .attesting →
     ((s.mine k c).filter fun q => decide (q.line = r.line ∧ q.iter = r.iter)) = [r] →
     (s.islandStopped k = true → exec (.lineComplete t c r.line r.iter tc) s = .next s) ∧
     ((∃ e ∈ r.sent, 12 ≤ e.1 ∨ (s.port e.1).ownAck < e.2) → exec (.lineComplete t c r.line r.iter tc) s = .next s) ∧
     (s.islandStopped k = false → r.unit ≠ .pass → r.waitPlan = none → (∀ e ∈ r.sent, e.1 < 12 ∧ e.2 ≤ (s.port e.1).ownAck) →
       ∃ u, exec (.lineComplete t c r.line r.iter tc) s = .next u ∧ s.lineDone u k r tc ∧
         u = { s with cx := u.cx, tiles := u.tiles, regs := u.regs }) ∧
     (∀ j, r.waitPlan = some (planKey c j) → j < 65536 → r.unit ≠ .pass →
       ((s.planSt c j).result = none → exec (.lineComplete t c r.line r.iter tc) s = .next s) ∧
       (∀ res, (s.planSt c j).result = some res → r.sent = [] → s.islandStopped k = false →
         let n := nth 0xFFFF 1 r.d; let d := s.desc c n; let v := (s.cxt c).env c k
         d.planes = 0 → d.space < 2 → (∀ a b, a < d.count → b < d.count → a ≠ b → ∀ p ∈ d.elBytes (v.off d) a, p ∉ d.elBytes (v.off d) b) →
         ∃ u, exec (.lineComplete t c r.line r.iter tc) s = .next u ∧ (u.planSt c j).result = none ∧
           (∀ l, l < d.count → u.elRaw v d l = elOf d.bytes res.1 l) ∧
           (∀ a, (∀ l, l < d.count → a ∉ d.elBytes (v.off d) l) → (d.space = 0 → (u.tile k).mem.read a = (s.tile k).mem.read a) ∧
             (d.space = 1 → u.rsv.mem.read a = s.rsv.mem.read a)) ∧
           (u.tile k).running = (s.tile k).running.filter (fun q => !(q.ctx = c && q.no = r.no)) ∧
           u.stk = s.stk ∧ u.host = s.host ∧ u.roles = s.roles ∧ u.catalogue = s.catalogue ∧ u.plt = s.plt)) ∧
     (r.unit = .pass → exec (.lineComplete t c r.line r.iter tc) s = .next s)) ∧
  (∀ (s : State) (t : TileId) (c : Ctx) (k b : Nat) (r : Running) (tc : Nat), s.safe → s.physOf t = some k →
     (∀ z, (s.cxt c).run = some z → z.replaying = false) → (s.cxt c).state ≠ .attesting →
     ((s.mine k c).filter fun q => decide (q.unit = .pass)) = [r] → (s.tile k).helping = none →
     (r.arb ≠ none ∨ s.islandStopped k = true → exec (.passCommit t c tc) s = .next s) ∧
     (r.arb = none → s.islandStopped k = false → (r.blocks.find? fun b => !r.trim.contains b && !(s.helped k).contains b) = some b →
       (r.blocks.filter (· ≠ b) = [] → r.waitPlan = none → ∃ u, exec (.passCommit t c tc) s = .next u ∧ s.lineDone u k r tc ∧
         u = { s with cx := u.cx, tiles := u.tiles, regs := u.regs }) ∧
       (r.blocks.filter (· ≠ b) ≠ [] → exec (.passCommit t c tc) s =
         .next (s.modPass k c fun q => { q with blocks := q.blocks.filter (· ≠ b), trim := q.trim.drop 1 })))) ∧
  (∀ (s : State) (t : TileId) (c : Ctx) (h k b : Nat) (q r : Running) (tc : Nat), s.safe → s.physOf t = some h → k ≠ h →
     (s.tile h).helping = some (k, b) → ((s.tile h).running.find? fun p => decide (p.ctx = c ∧ p.no = 0)) = some q →
     ((s.mine k c).filter fun p => decide (p.unit = .pass)) = [r] →
     (q.arb ≠ none ∨ s.islandStopped h = true → exec (.passCommit t c tc) s = .next s) ∧
     (s.islandStopped h = false →
      let w := s.modTile h fun z => { z with helping := none, running := z.running.filter fun p => p.no ≠ 0 }
      (q.arb = none → r.blocks.filter (· ≠ b) ≠ [] → exec (.passCommit t c tc) s =
        .next (w.modPass k c fun p => { p with blocks := p.blocks.filter (· ≠ b) })) ∧
      (q.arb = none → r.blocks.filter (· ≠ b) = [] → r.waitPlan = none → (∀ z, (s.cxt c).run = some z → z.replaying = false) →
        (s.cxt c).state ≠ .attesting → ∃ u, exec (.passCommit t c tc) s = .next u ∧ w.lineDone u k r tc ∧
          u = { w with cx := u.cx, tiles := u.tiles, regs := u.regs }))) ∧
  (∀ (s : State) (donor helper : TileId) (c : Ctx) (k h b : Nat) (r : Running) (tc : Nat), s.safe → s.noInjection → s.physOf donor = some k →
     s.physOf helper = some h → s.passOf k c = some r → ((s.mine k c).filter fun p => decide (p.unit = .pass)) = [r] → r.trim.getLast? = some b →
     let x := s.runCtx k h (some b) r
     let v := s.lineReads (s.fxOf x).reads []
     let g := v.fxOf x
     let i : Instr := .trimBlockTake donor helper c [] tc
     (k ≠ h → k / 48 = h / 48 → s.canHelp h = true → s.anyHalt = false →
       (r.pcost = 0 ∨ ((s.die (k / 48)).powerQ = [] ∧ s.ledger (k / 48) + r.pcost ≤ s.tokensOf (k / 48))) →
       x.l.op = 0x22 ∨ x.l.op = 0x23 → v.hits g = [] → g.fault = none → g.mis [] v = none →
       ∃ u, exec i s = .next u ∧ (u.tile h).helping = some (k, b) ∧
         (u.tile h).running = (s.tile h).running ++ [{ r with no := 0, reads := [], writes := [], wbits := [], posts := [], remote := none, release := false,
                                                              flags := Flags.none, arb := none, blocks := [b], trim := [] }] ∧
         (u.tile k).running = ((s.tile k).running.map fun p =>
           if p.ctx = c ∧ p.no ≠ 0 ∧ p.unit = .pass then { p with trim := p.trim.dropLast } else p) ∧
         (∀ j, j ≠ k → j ≠ h → (u.tile j).running = (s.tile j).running) ∧ (∀ j, j ≠ h → (u.tile j).helping = (s.tile j).helping) ∧
         (∀ j, j ≠ h → (u.tile j).banks = (s.tile j).banks) ∧ (∀ j, (u.tile j).cx = (s.tile j).cx) ∧
         (s.stk.remap = [] → s.shapesAgree x g →
           (∀ j a, (⟨0, j, c⟩ : Space).byteKey a ∉ g.writeKeys → (u.tile j).mem.read a = (s.tile j).mem.read a) ∧
           (∀ a, (⟨1, k, c⟩ : Space).byteKey a ∉ g.writeKeys → u.rsv.mem.read a = s.rsv.mem.read a) ∧
           (∀ a, (⟨2, k, c⟩ : Space).byteKey a ∉ g.writeKeys → u.stk.mem.read a = s.stk.mem.read a)) ∧
         u.cx = s.cx ∧ u.roles = s.roles ∧ u.dies = s.dies ∧ u.catalogue = s.catalogue ∧ u.fab = s.fab) ∧
     (k = h ∨ k / 48 ≠ h / 48 ∨ s.canHelp h = false ∨ s.anyHalt = true ∨
       (r.pcost ≠ 0 ∧ ((s.die (k / 48)).powerQ ≠ [] ∨ s.tokensOf (k / 48) < s.ledger (k / 48) + r.pcost)) → exec i s = .next s))

/-- A fault message of an attempt sent on: up the tree, or down at the root (R345). -/
def Sys2Proof.Machine.State.faultSent (s : State) (c : Ctx) (kind : Nat) (m : Nat × Nat) : State :=
  let rank := (s.cxt c).rank
  { s with out := s.out ++ if s.isRoot then (if s.kids = [] then [] else [Out.faultDown c kind rank m.1 m.2]) else [Out.faultUp c kind rank m.1 m.2] }

/-- A step replay asked for (R393 to R395): in the second attempt the step is lost, else a replay marker is sent and acts here; one already under way goes on. -/
def Sys2Proof.Machine.State.replayAsked (s : State) (c : Ctx) (n : Nat) : State :=
  match (s.cxt c).run with
  | none => s
  | some q => if q.attempt = 2 then s.killed c 0x0508 n else if q.replaying then s
    else (s.faultSent c 1 q.mark).actFault c 1 q.mark.1 q.mark.2

/-- An upset of the datapath: of an accumulator, a residue, a checksum cell, a product (R380). -/
def Sys2Proof.Machine.computeUpset : Upset → Bool
  | .acc .. | .residue .. | .cellCol .. | .cellRow .. | .product .. | .out .. | .unitF .. => true
  | _ => false

/-- A pass whose checks report a mismatch under its upsets is in flight and enters the queue of its die's Collimator behind the passes of lower tc, at PEER on a suspect or
quarantined tile (R388, R391, R402), or asks for a step replay where 8 wait. A vector line reruns once: a rerun that passes is accepted, a second mismatch or a
line that R180 declares not replayable asks for a step replay (R392). The Collimator decides on each further run of the first pass in its queue by
the table of R388, its signature and checks computed from that run; a poisoned run, or one whose tile is lost, asks for a step replay (R393). An accepted pass may commit
and leaves the queue. A run waits while its tile is busy, its clock stands, or a stack halt began before it (R32, R389, R401). -/
def Obligations.ChecksAndCollimator : Prop :=
  (∀ (s : State) (t : TileId) (c : Ctx) (k op tc : Nat) (ups : List Upset) (m : Mis) (i : Instr), s.safe →
     (i = .amm t c ups tc ∧ op = 0x22) ∨ (i = .aout t c ups tc ∧ op = 0x23) → s.issues t c k op → s.noInjection → ups.all computeUpset = true →
     let x := s.lctx k c
     let f := s.fxOf x
     let u := (s.lineReads f.reads ups).takeHead x f
     let g := u.fxOf x
     let v := u.dropCopies c g.writeKeys
     let sig := g.sig (g.run ups v).1
     let odd := (s.role k).suspect || (s.role k).quarantine
     f.fault = none → (s.lineReads f.reads ups).hits ((s.lineReads f.reads ups).fxOf x) = [] → u.hits g = [] → g.fault = none → g.mis ups v = some m →
     ((s.die (k / 48)).collQ.length < 8 → ∃ w r, exec i s = .next w ∧ (w.tile k).running = (s.tile k).running ++ [r] ∧ r.no = (s.tctx k c).issued + 1 ∧
       r.unit = .pass ∧ r.arb = some ⟨m.code, if odd then some (s.peerOf k) else none, sig, sig, 1, odd⟩ ∧
       (w.die (k / 48)).collQ = s.collInsert (tc, k, c, r.no) (s.die (k / 48)).collQ) ∧
     (8 ≤ (s.die (k / 48)).collQ.length → ∃ w n, exec i s = .next w ∧ (v.replayAsked c n).reports w c)) ∧
  (∀ (s : State) (t : TileId) (c : Ctx) (k op : Nat) (ups again : List Upset) (m : Mis) (i : Instr), s.safe →
     (i = .vch t c ups again ∧ op = 0x30) ∨ (i = .vsmx t c ups again ∧ op = 0x33) → s.issues t c k op → s.noInjection →
     ups.all computeUpset = true → again.all computeUpset = true →
     let x := s.lctx k c
     let f := s.fxOf x
     let u := (s.lineReads f.reads ups).takeHead x f
     let g := u.fxOf x
     let v := u.dropCopies c g.writeKeys
     f.fault = none → (s.lineReads f.reads ups).hits ((s.lineReads f.reads ups).fxOf x) = [] → u.hits g = [] → g.fault = none → (v.vecMis x ups).2 = some m →
     (g.replayable = true → again = [] → (∀ a ∈ g.reads, a.d.space ≠ 3) → ∃ w r, exec i s = .next w ∧ (w.tile k).running = (s.tile k).running ++ [r] ∧
       r.no = (s.tctx k c).issued + 1 ∧ r.unit = .vec ∧ r.arb = none) ∧
     (g.replayable = true → (v.vecMis x again).2 ≠ none → (∀ a ∈ g.reads, a.d.space ≠ 3) →
       ∃ w n, exec i s = .next w ∧ (({ v with rsv := w.rsv, regs := w.regs } : State).replayAsked c n).reports w c) ∧
     (g.replayable = false → ∃ w n, exec i s = .next w ∧ (v.replayAsked c n).reports w c)) ∧
  (∀ (s : State) (die k : Nat) (r : Running) (a : Arb) (ups : List Upset) (lost : Bool), s.safe → s.noInjection → s.headArb die = some (k, r, a) → k / 48 = die →
     (s.cxt r.ctx).run ≠ none → ups.all computeUpset = true →
     let c := r.ctx
     let on := a.peer.getD k
     let dp : Nat × Option Nat := if r.no = 0 then (match (s.tile k).helping with
       | some (d, b) => (d, some b)
       | none => (k, none)) else (k, none)
     let x := s.runCtx dp.1 on dp.2 r
     let q := s.modDie die fun z => { z with runOn := false }
     let f := q.fxOf x
     let v := q.lineReads f.reads ups
     let t := (f.run ups v).1
     let fl := (f.run ups v).2
     let sig := f.sig t
     let agrees : Prop := sig = a.s1 ∨ sig = a.s2
     let i : Instr := .collimatorDecision die ups lost
     let accepted (u : State) : State := { (t.modArb k c r.no fun p => { p with arb := none, flags := if p.no = 0 then p.flags else fl }).popColl die with
       roles := u.roles, thr.rotWanted := u.thr.rotWanted }
     let waits : Prop := (s.anyHalt = true ∧ (s.die die).runOn = false) ∨ s.islandStopped on = true ∨ s.peerBusy on k = true
     (waits → exec i s = .next s) ∧
     (¬ waits → v.hits f = [] → (s.role on).state ≠ 3 → lost = false →
       (a.peer = none → f.mis ups v = none → ∃ u, exec i s = .next u ∧ (accepted u).reports u c ∧
         (u.role k).suspect = (s.role k).suspect ∧ (u.role k).quarantine = (s.role k).quarantine ∧
         ((s.role k).transients < 3 → (u.role k).due = (s.role k).due ∧
           ((u.role k).transients = 1 ∨ (u.role k).transients = (s.role k).transients + 1)) ∧ (∀ j, j ≠ k → u.role j = s.role j)) ∧
       (a.peer = none → f.mis ups v ≠ none → ∃ u, exec i s = .next u ∧
         (t.modArb k c r.no fun p => { p with arb := some { a with peer := some (s.peerOf k), s2 := sig, runs := a.runs + 1 } }).reports u c) ∧
       (a.peer ≠ none → f.mis ups v = none → agrees → ∃ u, exec i s = .next u ∧ (accepted u).reports u c ∧
         u.role k = { (s.role k) with suspect := true, due := true } ∧ (∀ j, j ≠ k → u.role j = s.role j)) ∧
       (a.peer ≠ none → f.mis ups v ≠ none → agrees → ∃ u n, exec i s = .next u ∧ ((t.popColl die).replayAsked c n).reports u c) ∧
       (a.peer ≠ none → ¬ agrees → ∃ u n, exec i s = .next u ∧ (((t.popColl die).tileQuarantine k).killed c 0x0508 n).reports u c)) ∧
     (¬ waits → v.hits f ≠ [] ∨ (s.role on).state = 3 ∨ lost = true → ∃ u n, exec i s = .next u ∧ ((v.popColl die).replayAsked c n).reports u c)) ∧
  (∀ (s : State) (die : Nat) (ups : List Upset) (lost : Bool),
     ((s.die die).collQ = [] → exec (.collimatorDecision die ups lost) s = .next s) ∧
     (∀ e rest, (s.die die).collQ = e :: rest → s.headArb die = none →
       exec (.collimatorDecision die ups lost) s = .next (s.modDie die fun z => { z with collQ := rest })))

/-! Steps: batch and seal, attestation, commit and abort (R59 to R65, R187, R188, R206 to R212, R250 to R253, R344, R345, R393 to R395). -/

/-- A counter pair n up, and no other register changed. -/
def Sys2Proof.Machine.State.counts64 (s u : State) (a n : Nat) : Prop :=
  u.reg64 a = (s.reg64 a + n) % 2 ^ 64 ∧ ∀ b, b ≠ a → b ≠ a + 4 → u.reg b = s.reg b

/-- A message to the children of the control tree, where there are any (R345). -/
def Sys2Proof.Machine.State.toKids (s : State) (o : Out) : List Out := if s.kids = [] then [] else [o]

/-- seal[n] of a step with batch digest B (R62): SHA3-256 of the previous seal, the program digest, B, the seed and n. -/
def Sys2Proof.Machine.State.sealNext (s : State) (c : Ctx) (r : StepRun) (B : Digest) : Digest :=
  sha3 (takeD 0#8 32 (s.cxt c).sealOf ++ takeD 0#8 32 (s.cxt c).digest ++ takeD 0#8 32 B ++ bytesLE 8 r.seed ++ bytesLE 8 r.n)

/-- The refusal of a step in LOADING (R63, R187): READY again, no run. -/
def Sys2Proof.Machine.State.stepRefused (s : State) (c : Ctx) (o : Out) : State :=
  ({ s with out := s.out ++ s.toKids o } : State).modCx c fun (x : CtxSt) => { x with state := .ready, run := none, kidShards := x.shardsLater }

/-- B[n] reaches a step in LOADING (R62, R63, R345): it goes down; with the expected seal, or none expected, the lines may issue, every sequencer of the context at
local line 0; with another the step is refused. `perms` are the hash permutations spent on B[n] here. -/
def Sys2Proof.Machine.State.batchKnown (s u : State) (c : Ctx) (r : StepRun) (B : Digest) (perms : Nat) : Prop :=
  let sl := s.sealNext c r B
  (r.expect = none ∨ r.expect = some sl →
    u.cxt c = { (s.cxt c) with state := .running, kidShards := (s.cxt c).shardsLater, phases := [], engBars := [],
                               run := some { r with batch := B, sealD := sl, matched := r.expect.isSome } } ∧
    (∀ d, d ≠ c → u.cxt d = s.cxt d) ∧ (∀ k, u.tctx k c = (s.tctx k c).restart) ∧ (∀ k d, d ≠ c → u.tctx k d = s.tctx k d) ∧
    (∀ k, { (u.tile k) with cx := [] } = { (s.tile k) with cx := [] }) ∧ s.counts64 u (pgSHA 3 + 0x44) (perms + 1) ∧
    u = { s with cx := u.cx, tiles := u.tiles, regs := u.regs, out := s.out ++ s.toKids (.batchDown c B none) }) ∧
  (∀ e, r.expect = some e → e ≠ sl →
    ({ s.stepRefused c (.batchDown c B none) with regs := u.regs } : State).reports u c ∧
      u.reg64 (pgSHA 3 + 0x44) = (s.reg64 (pgSHA 3 + 0x44) + perms + 1) % 2 ^ 64 ∧
      ∀ a, reportReg a = false → a ≠ pgSHA 3 + 0x44 → a ≠ pgSHA 3 + 0x48 → u.reg a = s.reg a)

/-- The control tree gathers the shards of a step (R59, R345): the batch load puts every INPUT tensor in place and hashes the bytes of the micro-batches in order into this device's shard digest (R59, R183; entry 8 for
the tensors of a micro-batch); a child's SHARD of this step or a later one is kept, one of a step past is discarded and counted (R331); with its own and every child's the device sends the gather up, and the root forms B[n] from the shards in rank order, or sends a refusal
down. BATCH acts on a device that is not the root. Any of these where it is not awaited changes nothing. -/
def Obligations.BatchAndSeal : Prop :=
  (∀ (s : State) (c : Ctx) (r : StepRun), (s.cxt c).run = some r →
     let bs := s.shardBytes c r.micro
     let w := (r.micro.zip (List.range r.micro.length)).foldl (fun s e =>
       (s.microLayout c e.2 e.1).foldl (fun s p => s.loadInput c p.1 (e.1.addr + p.2)) s) s
     let due : Prop := (s.cxt c).state = .loading ∧ r.ownShard = none ∧ r.refusal = none ∧ s.host.linkUp = true
     (due → exec (.batchLoadComplete c) s = .next
       (((w.countPerms 2 (sha3Perms bs.length)).modRun c fun q => { q with ownShard := some (sha3 bs) }).shardCheck c)) ∧
     (¬ due → exec (.batchLoadComplete c) s = .next s)) ∧
  (∀ (s : State) (c : Ctx) (j src : Nat), s.safe →
     let d := s.desc c j
     let a := ((d.base : Nat) + d.footLo).toNat
     let t := s.loadInput c j src
     (d.space = 1 → (∀ i, i < d.footLen → t.rsv.mem.read (a + i) = s.host.mem.read (src + i)) ∧
       (∀ b, b < a ∨ a + d.footLen ≤ b → t.rsv.mem.read b = s.rsv.mem.read b) ∧ t = { s with rsv := t.rsv }) ∧
     (d.space = 0 → (∀ k i, k ∈ s.holders c j → i < d.footLen → (t.tile k).mem.read (a + i) = s.host.mem.read (src + i)) ∧
       (∀ k b, k ∉ s.holders c j ∨ b < a ∨ a + d.footLen ≤ b → (t.tile k).mem.read b = (s.tile k).mem.read b) ∧ t = { s with tiles := t.tiles })) ∧
  (∀ (s : State) (c : Ctx) (child lo : Nat) (ds : List (Nat × Digest)) (rf : Option RefusalMark),
     let ahead := (lo % 65536 + 65536 - (s.cxt c).counter % 65536) % 65536
     let past : Prop := ahead = 0 ∨ 32768 ≤ ahead
     (child ∈ s.kids → ¬ past → exec (.shard c child ds rf lo) s = .next
       ((s.modCx c fun x => { x with kidShards := x.kidShards.set (65536 * child + lo % 65536) (ds, rf) }).shardCheck c)) ∧
     (child ∈ s.kids → past → exec (.shard c child ds rf lo) s = .next (s.countEvent (pgLNK child))) ∧
     (child ∉ s.kids → exec (.shard c child ds rf lo) s = .next s)) ∧
  (∀ (s : State) (c : Ctx) (r : StepRun), s.safe → (s.cxt c).run = some r →
     let all : Prop := (s.cxt c).state = .loading ∧ (r.ownShard.isSome = true ∨ r.refusal.isSome = true) ∧
       ∀ p ∈ s.kids, ∃ e, (65536 * p + r.n % 65536, e) ∈ (s.cxt c).kidShards
     let g := s.gathered c r
     let u := s.shardCheck c
     (¬ all → u = s) ∧ (all → s.isRoot = false → u = { s with out := s.out ++ [.shardUp c (r.n % 65536) g.1 g.2] }) ∧
     (all → s.isRoot = true → g.2 = none → s.batchKnown u c r (sha3 (rankOrder g.1)) (sha3Perms (rankOrder g.1).length)) ∧
     (∀ m, all → s.isRoot = true → g.2 = some m → (s.stepRefused c (.batchDown c [] (some m))).reports u c)) ∧
  (∀ (s : State) (c : Ctx) (r : StepRun) (B : Digest), s.safe → (s.cxt c).run = some r → s.isRoot = false → (s.cxt c).state = .loading →
     (∃ u, exec (.batch c B none) s = .next u ∧ s.batchKnown u c r B 0) ∧
     (∀ m, ∃ u, exec (.batch c B (some m)) s = .next u ∧ (s.stepRefused c (.batchDown c B (some m))).reports u c)) ∧
  (∀ (s : State) (c : Ctx) (B : Digest) (rf : Option RefusalMark), s.isRoot = true ∨ (s.cxt c).run = none ∨ (s.cxt c).state ≠ .loading →
     exec (.batch c B rf) s = .next s)

/-- A phase of barrier num has completed (R250, R252): its count of phases and its counter on every logical tile and for the engines are one up. -/
def Sys2Proof.Machine.State.barrierUp (s u : State) (c : Ctx) (num : Nat) : Prop :=
  (∀ n, (u.cxt c).phases.get 0 n = (s.cxt c).phases.get 0 n + if n = num then 1 else 0) ∧
  (∀ n, (u.cxt c).engBars.get 0 n = if n = num then min ((s.cxt c).engBars.get 0 n + 1) 0xFFFF else (s.cxt c).engBars.get 0 n) ∧
  (∀ t k, t ∈ allTileIds → s.physOf t = some k → u.tctx k c = { (s.tctx k c) with barriers := (u.tctx k c).barriers } ∧
    ∀ n, (u.tctx k c).barriers.get 0 n = if n = num then min ((s.tctx k c).barriers.get 0 n + 1) 0xFFFF else (s.tctx k c).barriers.get 0 n) ∧
  (∀ k, (∀ t ∈ allTileIds, s.physOf t ≠ some k) → u.tile k = s.tile k) ∧ (∀ k d, d ≠ c → u.tctx k d = s.tctx k d) ∧
  (∀ k, { (u.tile k) with cx := [] } = { (s.tile k) with cx := [] }) ∧ (∀ d, d ≠ c → u.cxt d = s.cxt d)

/-- Barriers and attestation (R209, R250, R345). A barrier that every tile and engine of its entry has posted once more completes on every tile; GATE, once a step, sends this device's arrival up first; STEP, and
STEP_BOUNDARY, put a device whose tiles have all ended and whose lines have all completed into ATTESTING. Arrivals of children are kept by their attempt (entry 37). With its own arrival and every child's the
device sends the lowest key (R207) and the OR of the markers up, and the root forms the result. -/
def Obligations.Attestation : Prop :=
  (∀ (s : State) (c : Ctx) (num : Nat) (p : Program), s.safe → (s.cxt c).prog = some p → (s.cxt c).state = .running →
     let x := s.cxt c
     let due : Prop := (∀ e ∈ maskBits 64 (p.enginesOf num), num = 240 ∧ s.engineIdle c e = true) ∧ p.tilesOf num ≠ [] ∧ ∀ t ∈ p.tilesOf num, ∃ k, s.physOf t = some k ∧ x.phases.get 0 num < (s.tctx k c).posted.get 0 num
     let i : Instr := .meridianPhaseComplete c num
     (num < 240 → due → ∃ u, exec i s = .next u ∧ s.barrierUp u c num ∧ u.cxt c = { x with phases := (u.cxt c).phases, engBars := (u.cxt c).engBars } ∧
       u = { s with cx := u.cx, tiles := u.tiles }) ∧
     (num < 240 → ¬ due → exec i s = .next s) ∧
     (num = 240 → due → p.gate = true → x.phases.get 0 240 = 0 → x.gateOwn = false →
       exec i s = .next ((s.modRun c fun r => { r with gateOwn := true }).gateCheck c)) ∧
     (num = 240 → ¬ due ∨ p.gate = false ∨ x.phases.get 0 240 ≠ 0 ∨ x.gateOwn = true → exec i s = .next s) ∧
     (num = 241 → exec i s = exec (.stepBoundary c) s) ∧ (241 < num → exec i s = .next s)) ∧
  (∀ (s : State) (c : Ctx) (num : Nat), (s.cxt c).prog = none ∨ (s.cxt c).state ≠ .running → exec (.meridianPhaseComplete c num) s = .next s) ∧
  (∀ (s : State) (c : Ctx) (r : StepRun), (s.cxt c).run = some r →
     let due : Prop := (s.cxt c).state = .running ∧ r.replaying = false ∧ s.runningOf c = [] ∧ s.enginesDone c = true ∧
       ∀ t ∈ allTileIds, ∃ k, s.physOf t = some k ∧ (s.tctx k c).ended = true
     (due → exec (.stepBoundary c) s = .next ((s.modCx c fun x =>
       { x with state := .attesting, run := some { r with stepOwn := true } }).stepCheck c)) ∧
     (¬ due → exec (.stepBoundary c) s = .next s)) ∧
  (∀ (s : State) (c : Ctx) (r : StepRun) (p a : Nat) (key : Option AttKey) (m : Bool), (s.cxt c).run = some r →
     (p ∉ s.kids → exec (.gateUp c p a key m) s = .next s ∧ exec (.stepUp c p a key m) s = .next s) ∧
     (p ∈ s.kids → r.replaying = false → a = r.attempt - 1 →
       exec (.gateUp c p a key m) s = .next ((s.modRun c fun q => { q with gateKids := q.gateKids.set p (key, m) }).gateCheck c)) ∧
     (p ∈ s.kids → r.replaying = true ∨ a ≠ r.attempt - 1 → ∃ u, exec (.gateUp c p a key m) s = .next u ∧ u = s.gateCheck c) ∧
     (p ∈ s.kids → exec (.stepUp c p a key m) s =
       .next ((s.modRun c fun q => { q with stepKids := q.stepKids.set (2 * p + a % 2) (key, m) }).stepCheck c))) ∧
  (∀ (s : State) (c : Ctx) (r : StepRun), (s.cxt c).run = some r →
     let k := kidsResult r.gateKids
     let key := minKey (s.cxt c).key k.1
     let all : Prop := r.gateOwn = true ∧ r.gateDone = false ∧ r.replaying = false ∧ (s.cxt c).state = .running ∧
       ∀ p ∈ s.kids, r.gateKids.any (fun e => e.1 = p) = true
     (¬ all → s.gateCheck c = s) ∧
     (all → s.isRoot = false → s.gateCheck c = { s with out := s.out ++ [.gateUp c (r.attempt - 1) key (r.marker || k.2)] }) ∧
     (all → s.isRoot = true → s.gateCheck c = s.deliverResult c true key (r.marker || k.2))) ∧
  (∀ (s : State) (c : Ctx) (r : StepRun), (s.cxt c).run = some r →
     let a := if r.replaying then 1 else r.attempt - 1
     let ks := kidsOf a r.stepKids
     let k := kidsResult ks
     let key := if r.replaying then none else minKey (s.cxt c).key k.1
     let all : Prop := r.stepOwn = true ∧ (r.replaying = true ∨ (s.cxt c).state = .attesting) ∧
       ∀ p ∈ s.kids, ∃ e, (2 * p + a, e) ∈ r.stepKids
     (a < 2 → ¬ all → s.stepCheck c = s) ∧
     (a < 2 → all → s.isRoot = false → s.stepCheck c = { s with out := s.out ++ [.stepUp c a key (r.marker || k.2)] }) ∧
     (a < 2 → all → s.isRoot = true → s.stepCheck c = s.deliverResult c false key (r.marker || k.2))) ∧
  (∀ (o : Option AttKey) (t : Tbl (Option AttKey × Bool)),
     let k := minKey o (kidsResult t).1
     (kidsResult t).2 = t.any (fun e => e.2.2) ∧ (k = none ↔ o = none ∧ ∀ e ∈ t, e.2.1 = none) ∧
     (∀ a, k = some a → (o = some a ∨ ∃ e ∈ t, e.2.1 = some a) ∧ ∀ b, (o = some b ∨ ∃ e ∈ t, e.2.1 = some b) → keyLt b a = false)) ∧
  (∀ (x : CtxSt), (x.key = none ↔ x.nonfinite = []) ∧ ∀ a, x.key = some a → (∃ f ∈ x.nonfinite, a = ⟨f.cat, x.rank, f.elem, f.line⟩) ∧
     ∀ f ∈ x.nonfinite, a.cat < f.cat ∨ (a.cat = f.cat ∧ a.elem ≤ f.elem))

/-- MER_PHASE of the context on each C-die: one phase more in the half at bit lo (R508), and no other register changed. -/
def Sys2Proof.Machine.State.phaseCounted (s u : State) (c : Ctx) (lo : Nat) : Prop :=
  (∀ d, d < 4 → u.regField (pgMER d + 0x40 + 4 * c.num) lo 16 = (s.regField (pgMER d + 0x40 + 4 * c.num) lo 16 + 1) % 2 ^ 16) ∧
  (∀ a, (∀ d, d < 4 → a ≠ pgMER d + 0x40 + 4 * c.num) → u.reg a = s.reg a)

/-- The slots of the context's Almanac ring lie apart from its other rings. -/
def Sys2Proof.Machine.State.almApart (s : State) (c : Ctx) : Prop :=
  ∀ a, s.almBase c ≤ a → a < s.almBase c + 128 * s.ringSize c 8 →
    ¬ (s.cplBase c ≤ a ∧ a < s.cplBase c + 0x40 + 32 * s.ringSize c 4) ∧ ¬ (s.fltBase c ≤ a ∧ a < s.fltBase c + 64 * s.ringSize c 12)

/-- The outcome of a step. RESULT (R209, R211, R250, R345): a finite GATE completes its phase; STEP completes its phase, finite it goes to COMMITTING, any other aborts; a device that replays
starts the second attempt. FAULT (R208, R331, R345, R394): it goes up, or down and, at the step that its mark names, acts: KIND 0 abandons the step, KIND 1 the first attempt. ATTEST_TIMEOUT
aborts whatever control message is awaited (R210, R346). STEP_ABORT (R212): READY with the committed state,
every byte kept but those that R208 leaves unspecified (entry 20), the Almanac record with OUTCOME 0x02 and the committed seal after a nonfinite result, else 0x03, the completion. STEP_COMMIT (R211): the counter n, its seal and seed, the bank pointer switched where the program holds
update records (entry 23), the record with OUTCOME 0x01 and seal[n] (R65), the plates of the cadence. Records wait for the PCIe link; a step that faults while it is down ends without one (R67, R435). -/
def Obligations.StepEnds : Prop :=
  (∀ (s : State) (c : Ctx) (r : StepRun) (gate : Bool) (key : Option AttKey) (m : Bool), s.safe → (s.cxt c).run = some r →
     let i : Instr := .result c gate key m
     let out := s.out ++ s.toKids (.resultDown c gate key m)
     let w : State := { s with out := out }
     let awaited : Prop := s.isRoot = false ∧ (gate = true → r.gateOwn = true ∧ (s.cxt c).state = .running) ∧
       (gate = false → r.stepOwn = true ∧ (r.replaying = true ∨ (s.cxt c).state = .attesting))
     (¬ awaited → exec i s = .next s) ∧
     (awaited → exec i s = .next (s.deliverResult c gate key m)) ∧
     (let u := s.deliverResult c gate key m
      (gate = true → key = none → m = false → w.phaseCounted u c 16 ∧ s.barrierUp u c 240 ∧
        u.cxt c = { (s.cxt c) with phases := (u.cxt c).phases, engBars := (u.cxt c).engBars, run := some { r with gateDone := true } } ∧
        u = { w with cx := u.cx, tiles := u.tiles, regs := u.regs }) ∧
      (gate = true → key ≠ none ∨ m = true → u = (w.dropArb c).modCx c fun x => { x with state := .aborting, run := some { r with outcome := some (key, m) } }) ∧
      (gate = false → r.replaying = true → u = w.modCx c fun x =>
        { x with state := .running, run := some { r with replaying := false, attempt := 2, stepOwn := false, stepKids := [] } }) ∧
      (gate = false → r.replaying = false → w.phaseCounted u c 0 ∧ s.barrierUp u c 241 ∧
        u.cxt c = { (s.cxt c) with phases := (u.cxt c).phases, engBars := (u.cxt c).engBars,
                                   state := if key = none ∧ m = false then .committing else .aborting, run := some { r with outcome := some (key, m) } } ∧
        u = { w with cx := u.cx, tiles := u.tiles, regs := u.regs }))) ∧
  (∀ (s : State) (c : Ctx) (kind rank a lo : Nat) (r : StepRun), (s.cxt c).run = some r →
     let w : State := { s with out := s.out ++ s.toKids (.faultDown c kind rank a lo) }
     let acts : State := w.actFault c kind a lo
     let same : Prop := lo % 65536 = r.n % 65536
     let steps : Prop := (s.cxt c).state = .running ∨ (s.cxt c).state = .attesting
     (s.isRoot = false → exec (.fault c kind rank true a lo) s = .next { s with out := s.out ++ [.faultUp c kind rank a lo] }) ∧
     (s.isRoot = true → kind = 1 → (s.cxt c).state = .aborting → exec (.fault c kind rank true a lo) s = .next s) ∧
     (s.isRoot = true → ¬ (kind = 1 ∧ (s.cxt c).state = .aborting) → exec (.fault c kind rank true a lo) s = .next acts) ∧
     exec (.fault c kind rank false a lo) s = .next acts ∧
     (kind = 0 → same → steps ∨ (s.cxt c).state = .loading → acts = (w.dropArb c).modCx c fun x =>
       { x with state := .aborting, run := some { r with outcome := some (none, true), replaying := false } }) ∧
     (let v := ((w.dropArb c).dropTraffic c).modCx c fun x => { x with state := .running, run := some { r with
        replaying := true, gateKids := [], gateOwn := false, gateDone := false, stepKids := r.stepKids.drop (· % 2 = 0), stepOwn := false, outcome := none } }
      kind ≠ 0 → same → steps → a = 0 → r.attempt = 1 → r.replaying = false →
        (v.runningOf c ≠ [] → acts = v) ∧
        (v.runningOf c = [] → acts = (((v.restartTiles c).modCx c fun x => { x with nonfinite := [], saturated := [], empty := [] }).modRun c
          fun q => { q with stepOwn := true }).stepCheck c)) ∧
     (kind ≠ 0 → a ≠ 0 ∨ r.attempt ≠ 1 ∨ r.replaying = true ∨ (s.cxt c).state = .loading → acts = w) ∧ (¬ same → acts = w) ∧
     (¬ steps → (s.cxt c).state ≠ .loading → acts = w)) ∧
  (∀ (s : State) (c : Ctx),
     (∀ r, (s.cxt c).run = some r →
       let waits : Prop := (s.cxt c).state = .attesting ∨
         ((s.cxt c).state = .running ∧ ((r.gateOwn = true ∧ r.gateDone = false) ∨ (r.replaying = true ∧ r.stepOwn = true))) ∨
         ((s.cxt c).state = .loading ∧ (r.ownShard ≠ none ∨ r.refusal ≠ none))
       (waits → ∃ u n, exec (.attestTimeout c) s = .next u ∧
         ((s.dropArb c).modCx c fun x => { x with state := .aborting, run := some { r with
           outcome := some (none, true), timedOut := true, replaying := false, faultCode := 0x0805, faultSeq := n } }).reports u c) ∧
       (¬ waits → exec (.attestTimeout c) s = .next s)) ∧
     ((s.cxt c).run = none → exec (.attestTimeout c) s = .next s)) ∧
  (∀ (s : State) (c : Ctx) (r : StepRun), s.safe → (s.cxt c).run = some r →
     ((s.cxt c).state ≠ .aborting ∨ s.runningOf c ≠ [] → exec (.stepAbort c) s = .next s) ∧
     (let nonfinite : Bool := r.outcome.any fun o => o.1.isSome && !o.2
      (s.cxt c).state = .aborting → s.runningOf c = [] → s.host.linkUp = false →
      (nonfinite = true → exec (.stepAbort c) s = .next s) ∧
      (nonfinite = false → exec (.stepAbort c) s = .next (((s.loseKeys (s.abortKeys c true)).endStep c).modCx c fun x =>
        { x with cplWait := x.cplWait ++ [cplEntry r.tag 0x10 2 r.faultCode x.counter noAlm r.faultSeq] }))) ∧
     ((s.cxt c).state = .aborting → s.runningOf c = [] → s.host.linkUp = true → s.almApart c →
       let x := s.cxt c
       let nonfinite : Bool := r.outcome.any fun o => o.1.isSome && !o.2
       let a := s.almBase c + x.almTail % s.ringSize c 8 * 128
       let e := s.cplBase c + 0x40 + x.cplTail % s.ringSize c 4 * 32
       let ks := s.abortKeys c (!nonfinite)
       ∃ u, exec (.stepAbort c) s = .next u ∧ ((s.loseKeys ks).endStep c).reports u c ∧ s.keepsTiles u ks ∧ s.keepsRsv u ks ∧ s.keepsStk u ks ∧ (u.cxt c).state = .ready ∧ (u.cxt c).run = none ∧
         (u.cxt c).committed = x.committed ∧ (u.cxt c).bankB = x.bankB ∧ (u.cxt c).nonfinite = [] ∧
         u.hostRead a 128 = almBytes r.n r.seed r.batch x.digest x.sealOf (if nonfinite then 2 else 3) (c.num + 4 * b2n r.matched) x.devices ∧
         u.hostRead e 32 = cplEntry r.tag 0x10 2 (if nonfinite then 0x0801 else r.faultCode) x.counter x.almTail
           (if nonfinite then (s.host.seq + 1) % 2 ^ 32 else r.faultSeq))) ∧
  (∀ (s : State) (c : Ctx) (r : StepRun), s.safe → (s.cxt c).run = some r →
     let x := s.cxt c
     let held : Bool := x.hasUpdates && s.bankRead c (!x.bankB)
     ((s.cxt c).state ≠ .committing ∨ held = true ∨ s.host.linkUp = false → exec (.stepCommit c) s = .next s) ∧
     ((s.cxt c).state = .committing → held = false → s.host.linkUp = true →
       let w := (s.modCx c fun y => { y with bankB := if x.hasUpdates then !x.bankB else x.bankB,
                                             prev := x.committed.map fun k => (k, r.batch),
                                             committed := some ⟨r.n, r.sealD, r.seed⟩, almFlags := c.num + 4 * b2n r.matched }).endStep c
       let a := s.almBase c + x.almTail % s.ringSize c 8 * 128
       ∃ u, exec (.stepCommit c) s = .next u ∧ (w.cadencePlates c r.n).reports u c ∧
         (u.cxt c).state = .ready ∧ (u.cxt c).run = none ∧ (u.cxt c).committed = some ⟨r.n, r.sealD, r.seed⟩ ∧
         (u.cxt c).bankB = (if x.hasUpdates then !x.bankB else x.bankB) ∧
         (s.reg (pltCtx c 0) = 0 → s.almApart c → u.hostRead a 128 =
           almBytes r.n r.seed r.batch x.digest r.sealD 1 (c.num + 4 * b2n r.matched) x.devices))) ∧
  (∀ (s : State) (c : Ctx) (gate : Bool) (key : Option AttKey) (m : Bool), (s.cxt c).run = none →
     exec (.result c gate key m) s = .next s ∧ exec (.stepAbort c) s = .next s ∧ exec (.stepCommit c) s = .next s ∧ exec (.stepBoundary c) s = .next s ∧
     exec (.batchLoadComplete c) s = .next s)

/-! Collectives, update engines, the link layer (7.3, 12, R198 to R206, R327 to R352). -/

/-- The pairs that an update record writes hold what it produces: equal element counts, both scalars of SCAL, whole MX blocks (R204). -/
def Sys2Proof.Machine.State.recordFits (s : State) (w : Env) (u : URec) : Prop :=
  let n := (s.desc w.c u.master).count
  (∀ j, j = u.m ∨ (u.opt = 1 ∧ j = u.v) ∨ (u.hasWork = true ∧ j = u.work) → (s.desc w.c j).count = n) ∧ (u.opt = 1 → 2 ≤ (s.desc w.c u.scal).count) ∧
  ∀ j ∈ s.updWrites w u, let d := s.desc w.c j
    d.isMX = true → ∀ l, l < d.count → (∀ m ∈ d.mxBlock l, m < d.count) ∧ d.mxScaleLin (s.mxScaleOf w d) l < (s.mxScaleOf w d).count

/-- PLAN_DATA_ARRIVAL stages a member's data, at an offset behind what came before, or discards and counts that of an attempt or step gone by (R331, R351; entry 39); of the bytes of
memory those of the staging region alone become unspecified (entry 75). COLLECTIVE_REDUCE takes one whole contribution of each member for the
attempt that runs, once the engine has no work for a context of higher priority (R38); when every member that the plan needs has one, the result waits for its line, or goes to its update engine (R198, R349, R352); member order of R349. UPDATE_SHARD applies a record
to its shard (R203): it writes the uncommitted bank alone (R205) and counts the elements; a run whose product check fails is repeated once, a second failure or a poisoned gradient asks for a step replay (R383, R392, R398);
a write that a reader holds back waits (R368). -/
def Obligations.PlansAndUpdates : Prop :=
  (∀ (s : State) (c : Ctx) (n member a lo off j : Nat) (msg : Bool) (data : List Byte) (poison : List Nat) (p : Program), (s.cxt c).prog = some p →
     s.planNamed c p n = some j →
     let q := s.plan c j
     let i : Instr := .planDataArrival c n member msg a lo data poison off
     let mark : Nat × Nat := match msg, (s.cxt c).run with
       | false, some r => r.mark
       | _, _ => (a % 2, lo % 65536)
     let port := s.rankPort p (s.memberRank c q member)
     (q.nmemb ≤ member ∨ member = q.myidx → exec i s = .next s) ∧
     (member < q.nmemb → member ≠ q.myidx → s.staleMark c mark.1 mark.2 = false →
       exec i s = .next (s.stagePart c j off ⟨member, mark.1, mark.2, data, sortNat poison, none⟩)) ∧
     (member < q.nmemb → member ≠ q.myidx → s.staleMark c mark.1 mark.2 = true →
       exec i s = .next (if port < 12 then s.setReg (pgLNK port + 0x1C) ((s.reg (pgLNK port + 0x1C) + 1) % 2 ^ 32) else s))) ∧
  (∀ (s : State) (c : Ctx) (j off : Nat) (q : Part), s.safe →
     let p := s.plan c j
     let keys := (List.range p.bytes).map fun n => 2 ^ 48 + p.base + n
     let was := (s.planSt c j).later
     let u := s.stagePart c j off q
     (off = 0 → (u.planSt c j).later = was ++ [q]) ∧
     (∀ l r rest, off ≠ 0 → was = l ++ r :: rest → (∀ x ∈ l, q.goesOn p.full off x = false) → q.goesOn p.full off r = true →
       (u.planSt c j).later = l ++ { r with data := r.data ++ q.data, poison := sortNat (r.poison ++ q.poison) } :: rest) ∧
     (off ≠ 0 → (∀ x ∈ was, q.goesOn p.full off x = false) → (u.planSt c j).later = was ++ [{ q with data := List.replicate off 0#8 ++ q.data }]) ∧
     (u.planSt c j).parts = (s.planSt c j).parts ∧ (u.planSt c j).result = (s.planSt c j).result ∧
     (∀ x, x ≠ planKey c j → u.fab.plans.get PlanSt.reset x = s.fab.plans.get PlanSt.reset x) ∧
     s.bytesKept u keys ∧ u.cx = s.cx ∧ u.regs = s.regs ∧ u.out = s.out) ∧
  (∀ (s : State) (c : Ctx) (n member a lo off : Nat) (msg : Bool) (data : List Byte) (poison : List Nat),
     (s.cxt c).prog.bind (fun p => s.planNamed c p n) = none → exec (.planDataArrival c n member msg a lo data poison off) s = .next s) ∧
  (∀ (s : State) (c : Ctx) (r : StepRun) (a lo : Nat), (s.cxt c).run = some r →
     (lo = r.n % 65536 → r.attempt ≤ a → s.staleMark c a lo = false) ∧ (lo = r.n % 65536 → a + 1 < r.attempt → s.staleMark c a lo = true) ∧
     (lo = r.n % 65536 → a + 1 = r.attempt → (s.staleMark c a lo = true ↔ r.replaying = true ∨ (s.cxt c).state = .aborting)) ∧
     (∀ d, 0 < d → d < 32768 → lo = (r.n + d) % 65536 → s.staleMark c a lo = false) ∧
     (∀ d, 0 < d → d ≤ 32768 → lo = (r.n + 65536 - d) % 65536 → s.staleMark c a lo = true)) ∧
  (∀ (s : State) (c : Ctx) (j : Nat) (q : Program) (r : StepRun), (s.cxt c).prog = some q → (s.cxt c).run = some r →
     let p := s.plan c j
     let st := (s.planSt c j).fill r.mark p.full (List.range p.nmemb)
     let runs : Prop := j ∈ q.plans ∧ s.engineRuns c = true ∧ s.engineFree c p.engine = true
     let i : Instr := .collectiveReduce c j
     (¬ runs → exec i s = .next s) ∧
     (runs → st.result ≠ none ∨ st.have' p = none → exec i s = .next (s.modPlan c j fun _ => st)) ∧
     (∀ ps, runs → st.result = none → st.have' p = some ps → ∃ u, exec i s = .next u ∧
       (u.planSt c j).parts = [] ∧ (u.planSt c j).later = st.later ∧
       (∀ x, x ≠ planKey c j → u.fab.plans.get PlanSt.reset x = s.fab.plans.get PlanSt.reset x) ∧
       (p.receives = true → st.parts.findSome? (·.record) = none → (u.planSt c j).result = some (planResult p ps) ∧ u.fab.grads = s.fab.grads) ∧
       (∀ x, p.receives = true → st.parts.findSome? (·.record) = some x → (u.planSt c j).result = none ∧ u.fab.grads = s.fab.grads ++
         [⟨c, x, s.engineOf c x, (List.range ((planResult p ps).1.length / 4)).map (elOf 4 (planResult p ps).1), decide ((planResult p ps).2 ≠ [])⟩]) ∧
       (p.receives = false → (u.planSt c j).result = none ∧ u.fab.grads = s.fab.grads) ∧
       u = { s with fab.plans := u.fab.plans, fab.grads := u.fab.grads })) ∧
  (∀ (s : State) (c : Ctx) (j : Nat), (s.cxt c).prog = none ∨ (s.cxt c).run = none → exec (.collectiveReduce c j) s = .next s) ∧
  (∀ (j N : Nat) (xs : List Nat), xs.length = N → j < N → ∀ algo, algo < 3 →
     reduceEl algo j xs = ((List.range (N - 1)).map fun i => nth 0 ((j + 2 + i) % N) xs).foldl fadd (nth 0 ((j + 1) % N) xs)) ∧
  (∀ (s : State) (c : Ctx) (record : Nat) (g : Grad), s.safe →
     (s.fab.grads.find? fun g => decide (g.ctx = c ∧ g.record = record)) = some g → s.engineRuns c = true → s.updFree g = true →
     let v := (s.cxt c).env c 0
     let w : Env := { v with bankB := !v.bankB }
     let u := s.urec c record
     let h := s.holdPairs w (s.updWrites v u)
     let clean := (s.updReads v u v.n).all fun a => s.poisonOf a.v a.d a.lins = []
     let n := min (s.desc c u.master).count g.grad.length
     let fails (ups : List Upset) : Prop := ups.all computeUpset = true ∧ (s.updMis u g ups).2 ≠ none
     (h.2 = true → ∀ ups again, exec (.updateShard c record ups again) s = .next { s with plt.readers := h.1.plt.readers }) ∧
     (h.2 = false → clean = true → g.poisoned = false → s.noInjection →
       (∃ t, exec (.updateShard c record [] []) s = .next t ∧ t.fab.grads = s.fab.grads.erase g ∧
         t.reg64 (pgUPD g.engine + 0x44) = (s.reg64 (pgUPD g.engine + 0x44) + n) % 2 ^ 64 ∧
         (s.stk.remap = [] → s.recordFits w u → let keys := (s.updWrites v u).flatMap fun j => s.keysOf w (s.desc c j)
           (∀ k a, (⟨0, k, c⟩ : Space).byteKey a ∉ keys → (t.tile k).mem.read a = (s.tile k).mem.read a) ∧
           (∀ a, (⟨1, 0, c⟩ : Space).byteKey a ∉ keys → t.rsv.mem.read a = s.rsv.mem.read a) ∧
           (∀ a, (⟨2, 0, c⟩ : Space).byteKey a ∉ keys → t.stk.mem.read a = s.stk.mem.read a)) ∧
         t.cxt c = { (s.cxt c) with nonfinite := (t.cxt c).nonfinite, saturated := (t.cxt c).saturated, empty := (s.cxt c).empty } ∧
         (∀ d, d ≠ c → t.cxt d = s.cxt d) ∧ t.fab = { s.fab with grads := t.fab.grads } ∧ t.catalogue = s.catalogue ∧ t.plt = h.1.plt) ∧
       (∀ ups, fails ups → (∀ a ∈ s.updReads v u v.n, a.d.space ≠ 3) → ∃ t, exec (.updateShard c record ups []) s = .next t ∧ t.fab.grads = s.fab.grads.erase g ∧
         t.reg (pgUPD g.engine + 0x4C) = (s.reg (pgUPD g.engine + 0x4C) + 1) % 2 ^ 32) ∧
       (∀ ups again, fails ups → fails again → (∀ a ∈ s.updReads v u v.n, a.d.space ≠ 3) → ∃ t m, exec (.updateShard c record ups again) s = .next t ∧
         (({ h.1 with regs := t.regs, rsv := t.rsv } : State).replayAsked c m).reports t c)) ∧
     (h.2 = false → clean = true → g.poisoned = true → ∀ ups again, ups.all computeUpset = true → ∃ t m, exec (.updateShard c record ups again) s = .next t ∧
       (({ h.1 with regs := t.regs, rsv := t.rsv } : State).replayAsked c m).reports t c) ∧
     (h.2 = false → clean = false → ∀ ups again, ups.all computeUpset = true → ∃ t m, exec (.updateShard c record ups again) s = .next t ∧
       (({ h.1 with regs := t.regs, rsv := t.rsv } : State).killed c 0x050B m).reports t c)) ∧
  (∀ (s : State) (c : Ctx) (record : Nat) (ups again : List Upset),
     ((s.fab.grads.find? fun g => decide (g.ctx = c ∧ g.record = record)) = none ∨ s.engineRuns c = false → exec (.updateShard c record ups again) s = .next s) ∧
     (∀ g, (s.fab.grads.find? fun g => decide (g.ctx = c ∧ g.record = record)) = some g → s.updFree g = false →
       exec (.updateShard c record ups again) s = .next s)) ∧
  (∀ (u : URec) (z : UScal) (w m v grad : Nat), u.opt = 1 →
     let g := fmul grad u.gscale
     let m1 := ffma u.beta1 m (fmul u.c1 g)
     let v1 := ffma u.beta2 v (fmul u.c2 (fmul g g))
     u.element z w m v grad = (ffma (fneg z.a) (fdiv m1 (fadd (fdiv (fsqrt v1) z.r) u.eps)) (ffma (fneg z.k) w w), m1, v1))

/-- A port's neighbour sent header b: flits up to its ACK leave the replay buffer, those of this device among them count as acknowledged, its credits arrive (R330, R336, R352). -/
def Sys2Proof.Machine.PortSt.heard (q : PortSt) (b : List Byte) : PortSt :=
  let n := match q.replay.findIdx? fun f => flitSeq f.2 = flitAck b with
    | some i => i + 1
    | none => 0
  { q with replay := q.replay.drop n, ownAck := q.ownAck + ((q.replay.take n).filter fun f => f.1 = 12).length,
           credit := modAt (· + field (flitHdr b) 30 10) (field (flitHdr b) 28 2) q.credit, reqCount := if n = 0 then q.reqCount else 0 }

/-- From s to u port p is q, its flits o went out, and else only registers changed. -/
def Sys2Proof.Machine.State.portIs (s u : State) (p : Nat) (q : PortSt) (o : List (List Byte)) : Prop :=
  u.port p = q ∧ (∀ x, x ≠ p → u.port x = s.port x) ∧ u.out = s.out ++ o.map (Out.flit p) ∧
    u = { s with fab.ports := u.fab.ports, out := u.out, regs := u.regs }

/-- No error injection on the port's data flits, and none held back (R356). -/
abbrev Sys2Proof.Machine.State.calm (s : State) (p : Nat) : Prop := bitAt (s.reg (lnkInj p)) 0 = false ∧ (s.port p).heldFlit = none

/-- The port retrains (R338): LINK_RETRAIN is recorded and the retrainings are counted. -/
def Sys2Proof.Machine.State.retrained (s u : State) (p : Nat) (q : PortSt) : Prop :=
  ∃ w, s.portIs w p { q with state := 1, reqCount := 0, fails := 0 } [] ∧ w.reports u .train ∧
    u.regField (pgLNK p + 0x40) 16 16 = (s.regField (pgLNK p + 0x40) 16 16 + 1) % 2 ^ 16

/-- FLIT_RECEIVE (R330, R336, R337, R339 to R342): a flit that fails its FEC or CRC, or is out of sequence, asks once for the expected SEQ; a duplicate is dropped; an idle flit acknowledges and returns credits; a retry
request sends the replay buffer again from its SEQ, and at the 16th for one SEQ retrains the port (R338); a data flit in sequence is accepted and takes a credit of the shared pool while it has one (R334), its payload discarded,
queued for the port of its destination, or taken here, where the flits of a plan's message are gathered up to the last and then give the header, data and poison that their sender put in (R331, R332). A queued flit with a credit goes out with the next SEQ
and stays in the replay buffer, one message at a time on a virtual channel (R331, R333 to R336). Timers and retraining (R334, R337, R338); a port that is not up takes nothing. -/
def Obligations.Flits : Prop :=
  (∀ (s : State) (p seq : Nat) (b : List Byte) (fec : FecEnd), s.portUp p = false →
     exec (.flitReceive p b fec) s = .next s ∧ exec (.retryRequest p seq) s = .next s ∧ exec (.retryRequestTimer p) s = .next s ∧
     exec (.ackTimer p) s = .next s ∧ exec (.linkRetrain p) s = .next s) ∧
  (∀ (s : State) (p : Nat) (b : List Byte) (fec : FecEnd), s.portUp p = true →
     let q := s.port p
     let i : Instr := .flitReceive p b fec
     let lost : Prop := fec = .uncorrectable ∨ flitOk b = false
     let ask : List Byte := flitForm (q.header 3 2 q.rxSeq 0) []
     let old : Prop := (q.rxSeq + 4095 - flitSeq b) % 4096 < 1152
     let asks : Prop := ∃ u, exec i s = .next u ∧ (q.retryOpen = true → s.portIs u p q []) ∧
       (q.retryOpen = false → s.portIs u p { q.paid with retryOpen := true } [ask] ∧ u.reg (pgLNK p + 0x60) = (s.reg (pgLNK p + 0x60) + 1) % 2 ^ 32)
     (lost → asks) ∧
     (¬ lost → flitKind b = 0 → flitSeq b ≠ q.rxSeq → ¬ old → asks) ∧
     (¬ lost → flitKind b = 3 ∨ (flitKind b = 0 ∧ flitSeq b ≠ q.rxSeq ∧ old) → ∃ u, exec i s = .next u ∧ s.portIs u p q []) ∧
     (¬ lost → flitKind b = 1 → q.txQueue = [] → ∃ u, exec i s = .next u ∧ s.portIs u p (q.heard b) []) ∧
     (¬ lost → flitKind b = 2 → q.txQueue = [] → s.calm p →
       let r := q.heard b
       let n := if r.reqSeq = flitSeq b then r.reqCount + 1 else 1
       let z : PortSt := { r with reqSeq := flitSeq b, reqCount := n }
       (n < 16 → ∀ k, (r.replay.findIdx? fun f => flitSeq f.2 = flitSeq b) = some k → ∃ u, exec i s = .next u ∧ s.portIs u p z ((r.replay.drop k).map (·.2))) ∧
       (n < 16 → (r.replay.findIdx? fun f => flitSeq f.2 = flitSeq b) = none → ∃ u, exec i s = .next u ∧ s.portIs u p z []) ∧
       (16 ≤ n → ∃ u, exec i s = .next u ∧ s.retrained u p z)) ∧
     (¬ lost → flitKind b = 0 → flitSeq b = q.rxSeq → q.txQueue = [] → q.ackedIn < 63 →
       let vc := flitVC b
       let e := s.fwdEntry (p / 6) (flitDest b)
       let l := ({ q with rxSeq := seqNext q.rxSeq, retryOpen := false, ackedIn := q.ackedIn + 1, rxBuf := q.rxBuf ++ [b] } : PortSt).ask vc
       let z := l.heard b
       let freed : PortSt := ({ z with rxBuf := z.rxBuf.erase b } : PortSt).slotFree vc
       let fs := q.parts.get [] vc ++ [b]
       (flitDest b = 0xFFFF ∨ (e = 0xE ∧ 2 ≤ vc) → ∃ u, exec i s = .next u ∧ s.portIs u p freed [] ∧ u.reg64 (pgLNK p + 0x58) = (s.reg64 (pgLNK p + 0x58) + 1) % 2 ^ 64) ∧
       (flitDest b ≠ 0xFFFF → e = 0xE → vc < 2 → flitLast b = false → ∃ u, exec i s = .next u ∧ s.portIs u p { freed with parts := freed.parts.set vc fs } []) ∧
       (flitDest b ≠ 0xFFFF → e = 0xE → vc < 2 → flitLast b = true → ∃ w, s.portIs w p { freed with parts := freed.parts.drop (· == vc) } [] ∧
         exec i s = .next (w.takeMsg p fs)) ∧
       (flitDest b ≠ 0xFFFF → e < 12 → e ≠ p → (s.port e).state ≠ 2 → ∃ u, exec i s = .next u ∧ u.port p = z ∧
         u.port e = { (s.port e) with txQueue := (s.port e).txQueue ++ [(p, b)] } ∧ (∀ x, x ≠ p → x ≠ e → u.port x = s.port x) ∧ u.out = s.out) ∧
       (flitDest b ≠ 0xFFFF → 12 ≤ e → e ≠ 0xE → ∃ u w, exec i s = .next u ∧ s.portIs w p freed [] ∧ w.reports u .train))) ∧
  (∀ (s : State) (p vc dest : Nat) (h : MsgHdr) (data : List Byte) (poison : List Nat), vc < 4 → h.src < 2 ^ 16 → h.ctx < 4 → h.attempt < 2 →
     h.plan < 2 ^ 16 → h.stepLo < 2 ^ 16 → h.offset < 2 ^ 40 → h.offset % 16 = 0 → h.length = data.length → data.length ≤ 2 ^ 20 →
     ∃ bad, s.takeMsg p (msgFlits vc dest h data poison) = s.planFrom p (ctxOfNat h.ctx) h data bad ∧
       ∀ u, u ∈ bad ↔ u ∈ poison ∧ u ∈ unitsOf h.offset data.length) ∧
  (∀ (s : State) (p v src : Nat) (b : List Byte), s.calm p → (s.port p).nextFlit = some (v, src, b) → (s.port p).txQueue = [(src, b)] → src ≠ p →
     let q := s.port p
     let f := flitForm (q.header v 0 q.txSeq (flitDest b)) b
     let z : PortSt := { q.paid with txQueue := [], replay := q.replay ++ [(src, f)], txSeq := seqNext q.txSeq, credit := modAt (· - 1) v q.credit,
                                     rot := if v = 3 then q.rot else (v + 1) % 3,
                                     lock := if flitLast b then q.lock.drop (· == v) else q.lock.set v src }
     let o := s.port src
     (12 ≤ src → s.portIs (s.pumpAll p) p z [f]) ∧
     (src < 12 → let w := (s.modPort src fun _ => ({ o with rxBuf := o.rxBuf.erase b } : PortSt).slotFree v); w.portIs (s.pumpAll p) p z [f])) ∧
  (∀ (q : PortSt) (v src : Nat) (b : List Byte), q.nextFlit = some (v, src, b) →
     (src, b) ∈ q.txQueue ∧ flitVC b = v ∧ nth 0 v q.credit ≠ 0 ∧ q.state = 2 ∧ q.replay.length < 1152 ∧ q.lock.get src v = src) ∧
  (∀ (q : PortSt) (vc : Nat), q.used.sum ≤ 1028 → (q.ask vc).used.sum ≤ 1028 ∧ (q.slotFree vc).used.sum ≤ 1028) ∧
  (∀ (s : State) (p seq : Nat), s.portUp p = true → s.calm p →
     let q := s.port p
     let n := if q.reqSeq = seq % 4096 then q.reqCount + 1 else 1
     let z : PortSt := { q with reqSeq := seq % 4096, reqCount := n }
     (n < 16 → ∀ k, (q.replay.findIdx? fun f => flitSeq f.2 = seq % 4096) = some k → ∃ u, exec (.retryRequest p seq) s = .next u ∧ s.portIs u p z ((q.replay.drop k).map (·.2))) ∧
     (n < 16 → (q.replay.findIdx? fun f => flitSeq f.2 = seq % 4096) = none → ∃ u, exec (.retryRequest p seq) s = .next u ∧ s.portIs u p z []) ∧
     (16 ≤ n → ∃ u, exec (.retryRequest p seq) s = .next u ∧ s.retrained u p z)) ∧
  (∀ (s : State) (p : Nat), s.portUp p = true →
     let q := s.port p
     (q.retryOpen = true → ∃ u, exec (.retryRequestTimer p) s = .next u ∧ s.portIs u p q.paid [flitForm (q.header 3 2 q.rxSeq 0) []] ∧
       u.reg (pgLNK p + 0x60) = (s.reg (pgLNK p + 0x60) + 1) % 2 ^ 32 ∧ ∀ a, a ≠ pgLNK p + 0x60 → u.reg a = s.reg a) ∧
     (q.retryOpen = false → exec (.retryRequestTimer p) s = .next s) ∧
     (q.ackedIn ≠ 0 ∨ q.owed.any (· ≠ 0) = true → ∃ u, exec (.ackTimer p) s = .next u ∧ s.portIs u p q.paid [flitForm (q.header 3 1 0 0) []] ∧ u.regs = s.regs) ∧
     (q.ackedIn = 0 → q.owed.any (· ≠ 0) = false → exec (.ackTimer p) s = .next s) ∧
     (q.replay ≠ [] → ∃ u, exec (.linkRetrain p) s = .next u ∧ s.retrained u p q) ∧
     (q.replay = [] → exec (.linkRetrain p) s = .next s)) ∧
  (∀ (s : State) (p : Nat), let q := s.port p
     (q.state ≠ 1 → ∀ ok, exec (.linkRetrainComplete p ok) s = .next s) ∧
     (q.state = 1 → s.calm p → q.txQueue = [] → ∃ u, exec (.linkRetrainComplete p true) s = .next u ∧
       s.portIs u p { q with state := 2, fails := 0 } (q.replay.map (·.2))) ∧
     (q.state = 1 → q.fails < 2 → exec (.linkRetrainComplete p false) s = .next (s.modPort p fun z => { z with fails := q.fails + 1 })) ∧
     (q.state = 1 → 2 ≤ q.fails → ∃ u, exec (.linkRetrainComplete p false) s = .next u ∧ (u.port p).state = 3 ∧
       u = (s.modPort p fun z => { z with fails := q.fails + 1 }).portDown p)) ∧
  (∀ (q : PortSt) (kind seq : Nat), kind < 4 → seq < 4096 → let f := flitForm (q.header 3 kind seq 0) []
     f.length = 256 ∧ flitVC f = 3 ∧ flitKind f = kind ∧ flitSeq f = seq ∧ flitAck f = q.ack ∧ field (flitHdr f) 28 12 = q.credits.1 + 4 * q.credits.2)

/-! Plates: drains, buddies, restores, copies (13). -/

/-- A range of bytes can be written as it stands: a tile store, the Reserve, or stacks without remap or lost channels. -/
def Sys2Proof.Machine.State.plainRange (s : State) (p : Space) (a n : Nat) : Prop :=
  p.sp < 2 ∨ (p.sp = 2 ∧ s.stk.remap = [] ∧ ∀ i, i < n → s.stkFenced (a + i) = false)

/-- From s to u the bytes of a range are bs, and every other byte of every store, Reserve and stack is as before. -/
def Sys2Proof.Machine.State.rangeIs (s u : State) (p : Space) (a : Nat) (bs : List Byte) : Prop :=
  u.spRead p a bs.length = bs ∧
  (∀ k b, ¬ (p.sp = 0 ∧ k = p.tile ∧ a ≤ b ∧ b < a + bs.length) → (u.tile k).mem.read b = (s.tile k).mem.read b) ∧
  (∀ b, ¬ (p.sp = 1 ∧ a ≤ b ∧ b < a + bs.length) → u.rsv.mem.read b = s.rsv.mem.read b) ∧
  (∀ b, ¬ (p.sp = 2 ∧ a ≤ b ∧ b < a + bs.length) → u.stk.mem.read b = s.stk.mem.read b)

/-- PLATE_CHUNK_READ sends what the targets can take now, then reads the chunk on which a write waits, else the lowest unread one, while the 16 MiB buffer has room (R368): a drain keeps its bytes, writes them to its host slot while
the link is up, and sends them to the buddy, behind the header and tables, over the port of their number (R366, R367); after the last chunk its rank digest goes up the control tree where the weight digest is wanted (R363); a copy
writes them into the destination's uncommitted bank (R377); a halted stack pauses it (R370). PLATE_DRAIN_COMPLETE writes
the header with COMPLETE last and counts the plate (R365). PLT_WAIT_LIMIT abandons the readers on which a write waits (R370). The receiver of a buddy
plate refuses a foreign sender and a plate too large without harm to the plate that it receives, checks each chunk, asks again up to three times, acknowledges the whole, and takes the final header (R361, R367); a sender or holder answers chunk requests (R367, R373; entry 25). -/
def Obligations.Drains : Prop :=
  (∀ (s : State) (id : Nat) (r : Reader), s.safe → s.noInjection → s.reader id = some r → (∀ z ∈ s.plt.readers, z.id = id → z = r) →
     let i : Instr := .plateChunkRead id
     let next : Option Nat := if r.waiting.isSome then r.waiting else r.unread.head?
     let bytes (m : Nat) : Nat := (nth (0, 0, 0) m r.chunks).2.2
     let room (m : Nat) : Prop := r.copyTo.isSome = true ∨ s.plateHeld + bytes m ≤ 2 ^ 24
     let dst (slot m : Nat) : Nat := s.slotAddr r.ctx slot + plateOff (s.pairs r.ctx).length r.chunks.length + chunkStart r.chunks m
     (s.anyHalt = true → exec i s = .next s) ∧
     (∀ m slot bs, s.anyHalt = false → next = none → r.late = [m] → r.lateB = [] → s.host.linkUp = true → r.host = some slot →
       (r.got.find? fun e => decide (e.1 = m)) = some (m, bs) → ∃ u, exec i s = .next u ∧ u.hostRead (dst slot m) bs.length = bs ∧
         u.plt.readers = s.plt.readers.map fun z => if z.id = id then { r with late := [] } else z) ∧
     (∀ m p, s.anyHalt = false → next = none → r.late = [] → r.lateB = [m] → r.buddy = true → s.buddyPort m = some p →
       exec i s = .next { s with out := s.out ++ [.buddyHeader s.buddyTo (s.buddyLead r), .buddyChunk p m (r.got.get [] m)],
                                 plt.readers := s.plt.readers.map fun z => if z.id = id then { r with lateB := [] } else z }) ∧
     (s.anyHalt = false → r.late = [] → r.lateB = [] → (next = none ∨ ∃ m, next = some m ∧ (m ∉ r.unread ∨ ¬ room m)) → exec i s = .next s) ∧
     (∀ m, s.anyHalt = false → r.late = [] → r.lateB = [] → next = some m → m ∈ r.unread → room m →
       (r.copyTo = none →
         let ch := nth (0, 0, 0) m r.chunks
         let bs := s.plateBytes r.ctx ch.1 r.bank ch.2.1 ch.2.2
         let port := s.buddyPort m
         let q : Reader := { r with unread := eraseNat m r.unread, got := r.got.set m bs, poisoned := r.poisoned || s.piecePoison r.ctx ch.1 r.bank ch.2.1 ch.2.2,
                                    waiting := if r.waiting = some m then none else r.waiting,
                                    late := if r.host.isSome && !s.host.linkUp then [m] else [],
                                    lateB := if r.buddy && port.isNone then [m] else [] }
         ∃ u, exec i s = .next u ∧ u.plt = { s.plt with readers := s.plt.readers.map fun z => if z.id = id then q else z } ∧
           u.out = s.out ++ (match r.buddy, port with
             | true, some p => [.buddyHeader s.buddyTo (s.buddyLead q), .buddyChunk p m bs]
             | _, _ => []) ++ (if r.digest = true ∧ q.unread = [] then [.digestUp r.ctx r.snap.counter [((s.cxt r.ctx).rank, sha3 (q.got.flatMap (·.2)))]] else []) ∧
           (s.host.linkUp = false ∨ r.host = none → u.host = s.host) ∧
           (∀ slot, s.host.linkUp = true → r.host = some slot →
             u.hostRead (dst slot m) bs.length = bs ∧ (∀ b, b < dst slot m ∨ dst slot m + bs.length ≤ b → u.host.mem.read b = s.host.mem.read b)) ∧
           (∀ k, u.tile k = s.tile k) ∧
           u = { s with plt := u.plt, out := u.out, tiles := u.tiles, host.mem := u.host.mem, host.poison := u.host.poison, rsv.cache := u.rsv.cache, rsv.tree := u.rsv.tree,
                        regs := u.regs, free := u.free }) ∧
       (∀ d, r.copyTo = some d →
         let ch := nth (0, 0, 0) m r.chunks
         let js := nth (0, 0) ch.1 r.list
         let ds := s.desc r.ctx js.1
         let dd := s.desc d js.2
         let vs := s.pairEnv r.ctx js.1 r.bank
         let vd := s.pairEnv d js.2 (!(s.cxt d).bankB)
         let lo := ds.base + vs.off ds + ch.2.1
         let dest := dd.base + vd.off dd + ch.2.1
         let h := s.holdWrite (vd.space dd) dest ch.2.2
         (h.2 = true → exec i s = .next { s with plt.readers := h.1.plt.readers }) ∧
         (h.2 = false → s.plainRange (vd.space dd) dest ch.2.2 → ∃ u, exec i s = .next u ∧
           s.rangeIs u (vd.space dd) dest (s.spRead (vs.space ds) lo ch.2.2) ∧ u.cx = s.cx ∧ u.host = s.host ∧ u.fab = s.fab ∧ u.out = s.out ∧
           u.plt = { s.plt with readers := s.plt.readers.map fun z => if z.id = r.id then
             { z with unread := eraseNat m z.unread, waiting := if z.waiting = some m then none else z.waiting } else z })))) ∧
  (∀ (s : State) (id : Nat), s.reader id = none → exec (.plateChunkRead id) s = .next s ∧ exec (.plateDrainComplete id) s = .next s) ∧
  (∀ (s : State) (id : Nat) (r : Reader), s.safe → s.reader id = some r →
     let ends : Prop := r.copyTo = none ∧ r.unread = [] ∧ r.buddy = false ∧ (r.digest = true → r.weight ≠ none) ∧ (r.host ≠ none → s.host.linkUp = true)
     (¬ ends → exec (.plateDrainComplete id) s = .next s) ∧
     (ends → (∀ slot, r.host = some slot → ∀ a, s.slotAddr r.ctx slot ≤ a → a < s.slotAddr r.ctx slot + s.plateTotal r.ctx → s.offRings r.ctx a) →
       ∃ u, exec (.plateDrainComplete id) s = .next u ∧ u.plt = { s.plt with readers := s.plt.readers.filter fun z => z.id != id } ∧
         (∀ slot, r.host = some slot → 0x100 ≤ s.plateTotal r.ctx → u.hostRead (s.slotAddr r.ctx slot) 0x100 = s.drainHeader r true ∧ (u.cxt r.ctx).newest = some slot) ∧
         (r.host = none → (u.cxt r.ctx).newest = (s.cxt r.ctx).newest) ∧
         (u.cxt r.ctx).completed = (if r.short then (s.cxt r.ctx).completed else ((s.cxt r.ctx).completed + 1) % 65536) ∧
         (u.cxt r.ctx).committed = (s.cxt r.ctx).committed ∧ (∀ d, d ≠ r.ctx → u.cxt d = s.cxt d) ∧
         u.stk = s.stk ∧ u.rsv = s.rsv ∧ u.tiles = s.tiles ∧ u.fab = s.fab)) ∧
  (∀ (s : State) (c : Ctx), let rs := s.plt.readers.filter fun r => decide (r.ctx = c ∧ r.waiting.isSome = true)
     (∀ r ∈ rs, r.copyTo = none) → ∃ u, exec (.pltWaitLimit c) s = .next u ∧
       ({ s with plt.readers := s.plt.readers.filter fun z => !(rs.map (·.id)).contains z.id } : State).reports u c) ∧
  (∀ (s : State) (c d : Ctx) (r : Reader), (s.plt.readers.filter fun r => decide (r.ctx = c ∧ r.waiting.isSome = true)) = [r] → r.copyTo = some d →
     ∃ u, exec (.pltWaitLimit c) s = .next u ∧
       (({ s with plt.readers := s.plt.readers.filter fun z => z.id != r.id } : State).modCx d fun x => { x with fg := none }).reports u d) ∧
  (∀ (s : State) (sender m : Nat) (h : List Byte) (data : List Byte), s.safe → s.noInjection → s.stk.remap = [] → (∀ a, s.stkFenced a = false) →
     let i : Instr := .buddyChunkReceive sender h m data
     let bad : Prop := s.sys.pstate = 2 ∨ sender ≠ s.regField (pgPLT + 0xC4) 0 16 ∨ s.reg64 (pgPLT + 0xD0) < phTotal h
     let same : Prop := ∃ rx, s.plt.rx = some rx ∧ rx.sender = sender ∧ phId rx.header = phId h
     let ended : Prop := s.plt.rxEnded = some (sender, phId h)
     let n := (phTable h).length
     (bad → ¬ same → exec i s = .next { s with out := s.out ++ [.buddyAck false] }) ∧
     (bad → same → exec i s = .next { s with plt.rx := none, plt.rxEnded := some (sender, phId h), out := s.out ++ [.buddyAck false] }) ∧
     (¬ bad → ended → exec i s = .next s) ∧
     (¬ bad → ¬ ended → n ≤ m → same ∨ s.rxHolds h = false → exec i s = .next s) ∧
     (¬ bad → ¬ ended → n ≤ m → ¬ same → s.rxHolds h = true → ∃ u, exec i s = .next u ∧
       (6 ≤ h.length → u.stk.mem.read (s.rxBase s.plt.rxNewest + 5) = BitVec.ofNat 8 (bField h 5 1 ||| 0x09)) ∧
       u = { s with stk.mem := u.stk.mem, stk.poison := u.stk.poison, catalogue := u.catalogue }) ∧
     (¬ bad → ¬ ended → m < n → ¬ same → exec i s = exec i { s.rxStart sender h with plt.rxEnded := none }) ∧
     (∀ rx, ¬ bad → ¬ ended → m < n → s.plt.rx = some rx → rx.sender = sender → phId rx.header = phId h →
       let good : Prop := data.length = (nth (0, 0, 0) m (phTable h)).2.2 ∧ crc64 data = phCrc h m
       let a := s.rxBase rx.slot + phOff h + chunkStart (phTable h) m
       let t := rx.tries.get 0 m + 1
       (m ∉ rx.missing → exec i s = .next s) ∧
       (m ∈ rx.missing → good → eraseNat m rx.missing ≠ [] → ∃ u, exec i s = .next u ∧ (∀ n, n < data.length → u.stk.mem.read (a + n) = nth 0#8 n data) ∧
         (∀ b, b < a ∨ a + data.length ≤ b → u.stk.mem.read b = s.stk.mem.read b) ∧ (a + data.length ≤ s.privBase → u.catalogue = s.catalogue) ∧
         u = { s with plt.rx := some { rx with header := h, missing := eraseNat m rx.missing }, stk.mem := u.stk.mem, stk.poison := u.stk.poison, catalogue := u.catalogue }) ∧
       (m ∈ rx.missing → good → eraseNat m rx.missing = [] → ∃ u, exec i s = .next u ∧ u.plt.rx = none ∧ rx.slot ∈ u.plt.rxComplete ∧ u.plt.rxNewest = rx.slot ∧
         (6 ≤ h.length → let base := s.rxBase rx.slot
           u.stk.mem.read (base + 5) = BitVec.ofNat 8 (bField h 5 1 ||| 0x09)) ∧
         u = { s with plt := u.plt, stk.mem := u.stk.mem, stk.poison := u.stk.poison, catalogue := u.catalogue, out := s.out ++ [.buddyAck true] }) ∧
       (m ∈ rx.missing → ¬ good → t < 4 → exec i s = .next { s with plt.rx := some { rx with header := h, tries := rx.tries.set m t }, out := s.out ++ [.buddyAsk m] }) ∧
       (m ∈ rx.missing → ¬ good → 4 ≤ t → exec i s = .next { s with plt.rx := none, plt.rxEnded := some (sender, phId h), out := s.out ++ [.buddyAck false] }))) ∧
  (∀ (s : State) (sender : Nat) (h : List Byte), let u := s.rxStart sender h
     let slot := if s.plt.rxComplete = [] then 0 else 1 - s.plt.rxNewest
     u.plt = { s.plt with rx := some ⟨sender, slot, h, List.range (phTable h).length, []⟩, rxComplete := eraseNat slot s.plt.rxComplete } ∧
     u = { s with plt := u.plt, stk.mem := u.stk.mem, stk.poison := u.stk.poison, catalogue := u.catalogue }) ∧
  (∀ (s : State) (c : Ctx) (r : Reader), (s.plt.readers.find? fun r => decide (r.ctx = c ∧ r.buddy = true)) = some r →
     (r.unread = [] → exec (.buddyAck c true) s = .next (s.modReader r.id fun z => { z with buddy := false })) ∧
     (r.unread ≠ [] → exec (.buddyAck c true) s = .next s) ∧
     (∃ u, exec (.buddyAck c false) s = .next u ∧ (s.modReader r.id fun z => { z with buddy := false, lateB := [], short := true }).reports u c)) ∧
  (∀ (s : State) (c : Ctx) (ok : Bool), (s.plt.readers.find? fun r => decide (r.ctx = c ∧ r.buddy = true)) = none → exec (.buddyAck c ok) s = .next s) ∧
  (∀ (s : State) (port rank : Nat) (c : Ctx) (n m : Nat), s.noInjection →
     let i : Instr := .restoreChunkRequest port rank c n m
     let sends (bs : List Byte) : Prop := ∃ u, exec i s = .next u ∧ u.out = s.out ++ [.chunkSend port m bs] ∧
       u = { s with out := u.out, rsv.cache := u.rsv.cache, rsv.tree := u.rsv.tree, regs := u.regs, free := u.free }
     (s.sending rank c n = none → s.heldPlate rank c n = none → sends []) ∧
     (∀ k, s.sending rank c n = none → s.heldPlate rank c n = some k → let base := s.rxBase k
       let h0 := s.stkRead base 0x100
       let h := s.stkRead base (plateTables (phPairs h0) (phChunks h0))
       (m < phChunks h0 → sends (s.stkRead (base + phOff h0 + chunkStart (phTable h) m) (nth (0, 0, 0) m (phTable h)).2.2)) ∧
       (phChunks h0 ≤ m → sends h)) ∧
     (∀ r, s.sending rank c n = some r →
       (m < r.chunks.length → m ∈ r.unread → exec i s = .next s) ∧
       (∀ p, m < r.chunks.length → m ∉ r.unread → s.buddyPort m = some p → exec i s =
         .next { s with out := s.out ++ [.buddyHeader s.buddyTo (s.buddyLead r), .buddyChunk p m (r.got.get [] m)] }) ∧
       (m < r.chunks.length → m ∉ r.unread → s.buddyPort m = none →
         exec i s = .next (s.modReader r.id fun z => { z with lateB := insertNat m z.lateB })) ∧
       (r.chunks.length ≤ m → exec i s = .next { s with out := s.out ++ [.buddyHeader s.buddyTo (s.buddyLead r)] })))

/-- A restore that ends without success (R373): gone, its command free; the committed state as before. -/
def Sys2Proof.Machine.State.restoreGone (s : State) (c : Ctx) (r : Restoring) : State :=
  let w : State := { s with plt.restoring := s.plt.restoring.drop (· = c.num) }
  if r.stage then w else w.modCx c fun (x : CtxSt) => { x with fg := none }

/-- A good chunk of a restore goes into the uncommitted bank, waits where a reader holds that write back, or is fetched again, from a buddy by a request to the holder over the next port, and its fourth failure ends the restore; a
poisoned unit of the plate ends it at once (R373, R398). After the last chunk of a CHECK_DIGEST the rank digest goes up the control tree; the digests of all ranks at its step
decide it and give a drain its weight digest (R363). RESTORE_COMPLETE with matching digests switches the bank pointer and takes counter, seed and seal
from the plate; STAGE_COMPLETE leaves that to SWITCH (R376); a mismatch ends the restore without success. PAIRCOPY_COMPLETE takes the source's state (R377). -/
def Obligations.RestoreEnds : Prop :=
  (∀ (s : State) (c : Ctx) (r : Restoring) (m : Nat) (data : List Byte), s.safe → s.restoringOf c = some r →
     let i : Instr := .restoreChunkArrival c m data
     let ch := nth (0, 0, 0) m r.chunks
     let src := r.addr + phOff r.header + chunkStart r.chunks m
     let bs := if r.buddy then data else s.hostRead src ch.2.2
     let clean : Prop := r.buddy = true ∨ ∀ x ∈ unitsOf src ch.2.2, x ∉ s.host.poison
     let good : Prop := bs.length = ch.2.2 ∧ crc64 bs = phCrc r.header m
     let awaited : Prop := m ∈ r.missing ∧ (r.buddy = true ∨ s.host.linkUp = true)
     let d := s.desc c ch.1
     let v := s.pairEnv c ch.1 (!(s.cxt c).bankB)
     let a := d.base + v.off d + ch.2.1
     let h := s.holdWrite (v.space d) a ch.2.2
     let t := r.tries.get 0 m + 1
     let got : Restoring := { r with missing := eraseNat m r.missing, data := r.data.set m bs }
     let again : Restoring := { r with tries := r.tries.set m t }
     (¬ awaited → exec i s = .next s) ∧
     (awaited → ¬ clean → (s.cxt c).run = none → ∃ u, exec i s = .next u ∧ (s.restoreGone c r).reports u c) ∧
     (awaited → clean → good → h.2 = true → exec i s = .next { s with plt.readers := h.1.plt.readers }) ∧
     (awaited → clean → good → h.2 = false → s.plainRange (v.space d) a ch.2.2 → ∃ u, exec i s = .next u ∧ s.rangeIs u (v.space d) a bs ∧
       u.plt = { s.plt with restoring := s.plt.restoring.set c.num got } ∧
       u.out = s.out ++ (if r.check = true ∧ got.missing = [] then [.digestUp c (phStep r.header) [((s.cxt c).rank, sha3 (got.data.flatMap (·.2)))]] else []) ∧
       u.cx = s.cx ∧ u.host = s.host ∧ u.fab = s.fab ∧ u.log = s.log) ∧
     (awaited → clean → ¬ good → t < 4 → exec i s = .next { s with
       plt.restoring := s.plt.restoring.set c.num again,
       out := s.out ++ if r.buddy = true ∧ r.ports ≠ [] then
         [.chunkAsk (nth 0 ((m + t) % r.ports.length) r.ports) r.holder (s.cxt c).rank c (phStep r.header) m] else [] }) ∧
     (awaited → clean → ¬ good → 4 ≤ t → ∃ u, exec i s = .next u ∧ (s.restoreGone c r).reports u c)) ∧
  (∀ (s : State) (c : Ctx) (n : Nat) (ds : List (Nat × Digest)), (s.plt.readers.map (·.id)).Nodup →
     let rank := (s.cxt c).rank
     let N := (s.cxt c).devices
     let all (own : Digest) := (rank, own) :: ds.filter fun e => e.1 != rank
     let full (own : Digest) : Option Digest :=
       if (List.range N).all fun k => (all own).any fun e => e.1 = k then some (sha3 (rankOrder ((all own).filter fun e => decide (e.1 < N)))) else none
     let waits (r : Reader) : Bool := decide (r.ctx = c ∧ r.copyTo = none ∧ r.digest = true ∧ r.unread = [] ∧ r.weight = none ∧ r.snap.counter = n)
     let set (r : Reader) : Reader := if waits r then { r with weight := full (sha3 (r.got.flatMap (·.2))) } else r
     ∃ u, exec (.rankDigestGather c ds n) s = .next u ∧ u = { s with plt.readers := u.plt.readers, plt.restoring := u.plt.restoring, out := u.out } ∧
       u.plt.readers = s.plt.readers.map set ∧
       u.out = s.out ++ ((s.plt.readers.filter fun r => waits r && r.buddy && (set r).weight.isSome).map fun r => .buddyHeader s.buddyTo (s.buddyLead (set r))) ∧
       (∀ r w, s.restoringOf c = some r → r.check = true → r.missing = [] → phStep r.header = n → full (sha3 (r.data.flatMap (·.2))) = some w →
         u.restoringOf c = some { r with weightOk := some (decide (w = (r.header.drop 0x60).take 32)) }) ∧
       (∀ r, s.restoringOf c = some r → r.check = false ∨ r.missing ≠ [] ∨ phStep r.header ≠ n ∨ full (sha3 (r.data.flatMap (·.2))) = none →
         u.plt.restoring = s.plt.restoring) ∧
       (s.restoringOf c = none → u.plt.restoring = s.plt.restoring)) ∧
  (∀ (s : State) (c : Ctx) (m : Nat) (data : List Byte), s.restoringOf c = none →
     exec (.restoreChunkArrival c m data) s = .next s ∧ exec (.restoreComplete c) s = .next s ∧ exec (.stageComplete c) s = .next s) ∧
  (∀ (s : State) (c : Ctx) (r : Restoring), s.safe → s.restoringOf c = some r →
     let rank := sha3 (r.data.flatMap (·.2)) = (r.header.drop 0x80).take 32
     let open' : Prop := r.missing ≠ [] ∨ (rank ∧ r.check = true ∧ r.weightOk = none)
     let fails : Prop := r.missing = [] ∧ (¬ rank ∨ (r.check = true ∧ r.weightOk = some false))
     let fits : Prop := r.missing = [] ∧ rank ∧ (r.check = true → r.weightOk = some true)
     let k : Committed := ⟨bField r.header 0x10 8, (r.header.drop 0x20).take 32, bField r.header 0x18 8⟩
     let w : State := { s with plt.restoring := s.plt.restoring.drop (· = c.num) }
     (open' → exec (.restoreComplete c) s = .next s ∧ exec (.stageComplete c) s = .next s) ∧
     (r.stage = true → exec (.restoreComplete c) s = .next s) ∧ (r.stage = false → exec (.stageComplete c) s = .next s) ∧
     (r.stage = false → fails → ∃ u, exec (.restoreComplete c) s = .next u ∧ (s.restoreGone c r).reports u c) ∧
     (r.stage = true → fails → ∃ u, exec (.stageComplete c) s = .next u ∧ (s.restoreGone c r).reports u c) ∧
     (r.stage = false → fits → ∃ u, exec (.restoreComplete c) s = .next u ∧ (u.cxt c).committed = some k ∧ (w.modCx c fun x =>
       { x with bankB := !x.bankB, committed := some k, prev := none, nonfinite := [], saturated := [], empty := [], fg := none }).reports u c) ∧
     (r.stage = true → fits → ∃ u, exec (.stageComplete c) s = .next u ∧ (u.cxt c).staged = some k ∧
       (w.modCx c fun x => { x with staged := some k }).reports u c)) ∧
  (∀ (s : State) (c : Ctx) (r : Reader), s.safe → (s.plt.readers.find? (·.copyTo = some c)) = some r →
     let w : State := { s with plt.readers := s.plt.readers.filter fun z => z.id != r.id }
     (r.unread ≠ [] → exec (.pairCopyComplete c) s = .next s) ∧
     (r.unread = [] → (s.cxt c).fg = none → exec (.pairCopyComplete c) s = .next w) ∧
     (r.unread = [] → (s.cxt c).fg ≠ none → ∃ u, exec (.pairCopyComplete c) s = .next u ∧ (u.cxt c).committed = some r.snap ∧
       (w.modCx c fun x => { x with bankB := !x.bankB, committed := some r.snap, prev := none, fg := none }).reports u c)) ∧
  (∀ (s : State) (c : Ctx), (s.plt.readers.find? (·.copyTo = some c)) = none → exec (.pairCopyComplete c) s = .next s)
end

