-- ==== Sys2Proof/Laws/Tables.lean ====
section
/-! SUPPORT. The laws of sparse tables and list updates. -/

namespace Sys2Proof.Machine

theorem Tbl.get_set {α : Type} (d : α) (k j : Nat) (v : α) (t : Tbl α) :
    Tbl.get d j (Tbl.set k v t) = if j = k then v else Tbl.get d j t := by
  induction t with
  | nil => rfl
  | cons e t ih =>
    obtain ⟨k', v'⟩ := e
    simp only [Tbl.set]
    split
    · rename_i e; subst e
      by_cases hj : j = k <;> simp [Tbl.get, hj]
    · split
      · rfl
      · simp only [Tbl.get, ih]
        rename_i hne _
        by_cases hj : j = k
        · subst hj; simp [hne]
        · simp [hj]

@[simp] theorem Tbl.get_set_self {α : Type} (d : α) (k : Nat) (v : α) (t : Tbl α) : Tbl.get d k (Tbl.set k v t) = v := by
  simp [Tbl.get_set]

theorem Tbl.get_set_ne {α : Type} (d : α) {k j : Nat} (h : j ≠ k) (v : α) (t : Tbl α) :
    Tbl.get d j (Tbl.set k v t) = Tbl.get d j t := by simp [Tbl.get_set, h]

/-- A key that `p` drops may have been set. -/
theorem Tbl.drop_set {α : Type} (p : Nat → Bool) {k : Nat} (h : p k = true) (v : α) (t : Tbl α) :
    Tbl.drop p (Tbl.set k v t) = Tbl.drop p t := by
  induction t with
  | nil => simp [Tbl.set, Tbl.drop, h]
  | cons e t ih =>
    obtain ⟨k', v'⟩ := e
    simp only [Tbl.set]
    split
    · rename_i e; subst e; simp [Tbl.drop, h]
    · split
      · simp [Tbl.drop, h]
      · simp only [Tbl.drop, List.filter_cons] at ih ⊢
        simp [ih]

/-- A dropped key reads as the default. -/
theorem Tbl.get_drop {α : Type} (d : α) (p : Nat → Bool) (k : Nat) (t : Tbl α) :
    Tbl.get d k (Tbl.drop p t) = if p k then d else Tbl.get d k t := by
  induction t with
  | nil => simp [Tbl.drop, Tbl.get]
  | cons e t ih =>
    obtain ⟨k', v'⟩ := e
    by_cases hp : p k' = true
    · have : Tbl.drop p ((k', v') :: t) = Tbl.drop p t := by simp [Tbl.drop, hp]
      rw [this, ih]
      by_cases hk : k = k'
      · subst hk; simp [hp]
      · simp [Tbl.get, hk]
    · have : Tbl.drop p ((k', v') :: t) = (k', v') :: Tbl.drop p t := by simp [Tbl.drop, hp]
      rw [this]
      by_cases hk : k = k'
      · subst hk; simp [Tbl.get, hp]
      · simp [Tbl.get, hk, ih]

theorem nth_modAt_self {α : Type} (d : α) (f : α → α) (i : Nat) (l : List α) (h : i < l.length) :
    nth d i (modAt f i l) = f (nth d i l) := by
  induction l generalizing i with
  | nil => simp at h
  | cons a t ih =>
    cases i with
    | zero => rfl
    | succ i => simp only [modAt, nth]; exact ih i (by simpa using h)

theorem nth_modAt_ne {α : Type} (d : α) (f : α → α) (i j : Nat) (l : List α) (h : i ≠ j) :
    nth d j (modAt f i l) = nth d j l := by
  induction l generalizing i j with
  | nil => cases i <;> rfl
  | cons a t ih =>
    cases i with
    | zero => cases j with
      | zero => exact absurd rfl h
      | succ j => rfl
    | succ i => cases j with
      | zero => rfl
      | succ j => simp only [modAt, nth]; exact ih i j (by omega)

theorem map_modAt {α β : Type} (g : α → β) (f : α → α) (f' : β → β) (h : ∀ a, g (f a) = f' (g a)) (i : Nat) (l : List α) :
    (modAt f i l).map g = modAt f' i (l.map g) := by
  induction l generalizing i with
  | nil => cases i <;> rfl
  | cons a t ih => cases i <;> simp [modAt, h, ih]

theorem modAt_id {α : Type} (f : α → α) (h : ∀ a, f a = a) (i : Nat) (l : List α) : modAt f i l = l := by
  induction l generalizing i with
  | nil => cases i <;> rfl
  | cons a t ih => cases i <;> simp [modAt, h, ih]

theorem modAt_modAt {α : Type} (f g : α → α) (i : Nat) (l : List α) : modAt g i (modAt f i l) = modAt (fun a => g (f a)) i l := by
  induction l generalizing i with
  | nil => cases i <;> rfl
  | cons a t ih => cases i <;> simp [modAt, ih]

theorem length_modAt {α : Type} (f : α → α) (i : Nat) (l : List α) : (modAt f i l).length = l.length := by
  induction l generalizing i with
  | nil => cases i <;> rfl
  | cons x t ih => cases i <;> simp [modAt, ih]

theorem insertNat_mem (k x : Nat) (l : List Nat) : x ∈ insertNat k l ↔ x = k ∨ x ∈ l := by
  induction l with
  | nil => simp [insertNat]
  | cons a t ih =>
    simp only [insertNat]
    split
    · rename_i e; subst e; simp
    · split
      · simp
      · simp only [List.mem_cons, ih]; tauto

end Sys2Proof.Machine
end

