-- ==== Sys2Proof/Laws/State.lean ====
section
/-! SUPPORT. What each named update of the state leaves unchanged, one lemma for each other field, and what it does to the entry
that it updates. -/

namespace Sys2Proof.Machine

/-! modCx. -/

@[simp] theorem State.modCx_pending (s : State) (c : Ctx) (f : CtxSt → CtxSt) : (s.modCx c f).pending = s.pending := rfl
@[simp] theorem State.modCx_free (s : State) (c : Ctx) (f : CtxSt → CtxSt) : (s.modCx c f).free = s.free := rfl
@[simp] theorem State.modCx_out (s : State) (c : Ctx) (f : CtxSt → CtxSt) : (s.modCx c f).out = s.out := rfl
@[simp] theorem State.modCx_regs (s : State) (c : Ctx) (f : CtxSt → CtxSt) : (s.modCx c f).regs = s.regs := rfl
@[simp] theorem State.modCx_latch (s : State) (c : Ctx) (f : CtxSt → CtxSt) : (s.modCx c f).latch = s.latch := rfl
@[simp] theorem State.modCx_shadow (s : State) (c : Ctx) (f : CtxSt → CtxSt) : (s.modCx c f).shadow = s.shadow := rfl
@[simp] theorem State.modCx_catalogue (s : State) (c : Ctx) (f : CtxSt → CtxSt) : (s.modCx c f).catalogue = s.catalogue := rfl
@[simp] theorem State.modCx_tiles (s : State) (c : Ctx) (f : CtxSt → CtxSt) : (s.modCx c f).tiles = s.tiles := rfl
@[simp] theorem State.modCx_roles (s : State) (c : Ctx) (f : CtxSt → CtxSt) : (s.modCx c f).roles = s.roles := rfl
@[simp] theorem State.modCx_dies (s : State) (c : Ctx) (f : CtxSt → CtxSt) : (s.modCx c f).dies = s.dies := rfl
@[simp] theorem State.modCx_host (s : State) (c : Ctx) (f : CtxSt → CtxSt) : (s.modCx c f).host = s.host := rfl
@[simp] theorem State.modCx_stk (s : State) (c : Ctx) (f : CtxSt → CtxSt) : (s.modCx c f).stk = s.stk := rfl
@[simp] theorem State.modCx_rsv (s : State) (c : Ctx) (f : CtxSt → CtxSt) : (s.modCx c f).rsv = s.rsv := rfl
@[simp] theorem State.modCx_fab (s : State) (c : Ctx) (f : CtxSt → CtxSt) : (s.modCx c f).fab = s.fab := rfl
@[simp] theorem State.modCx_plt (s : State) (c : Ctx) (f : CtxSt → CtxSt) : (s.modCx c f).plt = s.plt := rfl
@[simp] theorem State.modCx_thr (s : State) (c : Ctx) (f : CtxSt → CtxSt) : (s.modCx c f).thr = s.thr := rfl
@[simp] theorem State.modCx_chk (s : State) (c : Ctx) (f : CtxSt → CtxSt) : (s.modCx c f).chk = s.chk := rfl
@[simp] theorem State.modCx_sys (s : State) (c : Ctx) (f : CtxSt → CtxSt) : (s.modCx c f).sys = s.sys := rfl
@[simp] theorem State.modCx_sec (s : State) (c : Ctx) (f : CtxSt → CtxSt) : (s.modCx c f).sec = s.sec := rfl
@[simp] theorem State.modCx_log (s : State) (c : Ctx) (f : CtxSt → CtxSt) : (s.modCx c f).log = s.log := rfl

/-! modTile. -/

@[simp] theorem State.modTile_pending (s : State) (k : Nat) (f : TileSt → TileSt) : (s.modTile k f).pending = s.pending := rfl
@[simp] theorem State.modTile_free (s : State) (k : Nat) (f : TileSt → TileSt) : (s.modTile k f).free = s.free := rfl
@[simp] theorem State.modTile_out (s : State) (k : Nat) (f : TileSt → TileSt) : (s.modTile k f).out = s.out := rfl
@[simp] theorem State.modTile_regs (s : State) (k : Nat) (f : TileSt → TileSt) : (s.modTile k f).regs = s.regs := rfl
@[simp] theorem State.modTile_latch (s : State) (k : Nat) (f : TileSt → TileSt) : (s.modTile k f).latch = s.latch := rfl
@[simp] theorem State.modTile_shadow (s : State) (k : Nat) (f : TileSt → TileSt) : (s.modTile k f).shadow = s.shadow := rfl
@[simp] theorem State.modTile_cx (s : State) (k : Nat) (f : TileSt → TileSt) : (s.modTile k f).cx = s.cx := rfl
@[simp] theorem State.modTile_catalogue (s : State) (k : Nat) (f : TileSt → TileSt) : (s.modTile k f).catalogue = s.catalogue := rfl
@[simp] theorem State.modTile_roles (s : State) (k : Nat) (f : TileSt → TileSt) : (s.modTile k f).roles = s.roles := rfl
@[simp] theorem State.modTile_dies (s : State) (k : Nat) (f : TileSt → TileSt) : (s.modTile k f).dies = s.dies := rfl
@[simp] theorem State.modTile_host (s : State) (k : Nat) (f : TileSt → TileSt) : (s.modTile k f).host = s.host := rfl
@[simp] theorem State.modTile_stk (s : State) (k : Nat) (f : TileSt → TileSt) : (s.modTile k f).stk = s.stk := rfl
@[simp] theorem State.modTile_rsv (s : State) (k : Nat) (f : TileSt → TileSt) : (s.modTile k f).rsv = s.rsv := rfl
@[simp] theorem State.modTile_fab (s : State) (k : Nat) (f : TileSt → TileSt) : (s.modTile k f).fab = s.fab := rfl
@[simp] theorem State.modTile_plt (s : State) (k : Nat) (f : TileSt → TileSt) : (s.modTile k f).plt = s.plt := rfl
@[simp] theorem State.modTile_thr (s : State) (k : Nat) (f : TileSt → TileSt) : (s.modTile k f).thr = s.thr := rfl
@[simp] theorem State.modTile_chk (s : State) (k : Nat) (f : TileSt → TileSt) : (s.modTile k f).chk = s.chk := rfl
@[simp] theorem State.modTile_sys (s : State) (k : Nat) (f : TileSt → TileSt) : (s.modTile k f).sys = s.sys := rfl
@[simp] theorem State.modTile_sec (s : State) (k : Nat) (f : TileSt → TileSt) : (s.modTile k f).sec = s.sec := rfl
@[simp] theorem State.modTile_log (s : State) (k : Nat) (f : TileSt → TileSt) : (s.modTile k f).log = s.log := rfl

/-! modRole. -/

@[simp] theorem State.modRole_pending (s : State) (k : Nat) (f : Role → Role) : (s.modRole k f).pending = s.pending := rfl
@[simp] theorem State.modRole_free (s : State) (k : Nat) (f : Role → Role) : (s.modRole k f).free = s.free := rfl
@[simp] theorem State.modRole_out (s : State) (k : Nat) (f : Role → Role) : (s.modRole k f).out = s.out := rfl
@[simp] theorem State.modRole_regs (s : State) (k : Nat) (f : Role → Role) : (s.modRole k f).regs = s.regs := rfl
@[simp] theorem State.modRole_latch (s : State) (k : Nat) (f : Role → Role) : (s.modRole k f).latch = s.latch := rfl
@[simp] theorem State.modRole_shadow (s : State) (k : Nat) (f : Role → Role) : (s.modRole k f).shadow = s.shadow := rfl
@[simp] theorem State.modRole_cx (s : State) (k : Nat) (f : Role → Role) : (s.modRole k f).cx = s.cx := rfl
@[simp] theorem State.modRole_catalogue (s : State) (k : Nat) (f : Role → Role) : (s.modRole k f).catalogue = s.catalogue := rfl
@[simp] theorem State.modRole_tiles (s : State) (k : Nat) (f : Role → Role) : (s.modRole k f).tiles = s.tiles := rfl
@[simp] theorem State.modRole_dies (s : State) (k : Nat) (f : Role → Role) : (s.modRole k f).dies = s.dies := rfl
@[simp] theorem State.modRole_host (s : State) (k : Nat) (f : Role → Role) : (s.modRole k f).host = s.host := rfl
@[simp] theorem State.modRole_stk (s : State) (k : Nat) (f : Role → Role) : (s.modRole k f).stk = s.stk := rfl
@[simp] theorem State.modRole_rsv (s : State) (k : Nat) (f : Role → Role) : (s.modRole k f).rsv = s.rsv := rfl
@[simp] theorem State.modRole_fab (s : State) (k : Nat) (f : Role → Role) : (s.modRole k f).fab = s.fab := rfl
@[simp] theorem State.modRole_plt (s : State) (k : Nat) (f : Role → Role) : (s.modRole k f).plt = s.plt := rfl
@[simp] theorem State.modRole_thr (s : State) (k : Nat) (f : Role → Role) : (s.modRole k f).thr = s.thr := rfl
@[simp] theorem State.modRole_chk (s : State) (k : Nat) (f : Role → Role) : (s.modRole k f).chk = s.chk := rfl
@[simp] theorem State.modRole_sys (s : State) (k : Nat) (f : Role → Role) : (s.modRole k f).sys = s.sys := rfl
@[simp] theorem State.modRole_sec (s : State) (k : Nat) (f : Role → Role) : (s.modRole k f).sec = s.sec := rfl
@[simp] theorem State.modRole_log (s : State) (k : Nat) (f : Role → Role) : (s.modRole k f).log = s.log := rfl

/-! modDie. -/

@[simp] theorem State.modDie_pending (s : State) (k : Nat) (f : DieSt → DieSt) : (s.modDie k f).pending = s.pending := rfl
@[simp] theorem State.modDie_free (s : State) (k : Nat) (f : DieSt → DieSt) : (s.modDie k f).free = s.free := rfl
@[simp] theorem State.modDie_out (s : State) (k : Nat) (f : DieSt → DieSt) : (s.modDie k f).out = s.out := rfl
@[simp] theorem State.modDie_regs (s : State) (k : Nat) (f : DieSt → DieSt) : (s.modDie k f).regs = s.regs := rfl
@[simp] theorem State.modDie_latch (s : State) (k : Nat) (f : DieSt → DieSt) : (s.modDie k f).latch = s.latch := rfl
@[simp] theorem State.modDie_shadow (s : State) (k : Nat) (f : DieSt → DieSt) : (s.modDie k f).shadow = s.shadow := rfl
@[simp] theorem State.modDie_cx (s : State) (k : Nat) (f : DieSt → DieSt) : (s.modDie k f).cx = s.cx := rfl
@[simp] theorem State.modDie_catalogue (s : State) (k : Nat) (f : DieSt → DieSt) : (s.modDie k f).catalogue = s.catalogue := rfl
@[simp] theorem State.modDie_tiles (s : State) (k : Nat) (f : DieSt → DieSt) : (s.modDie k f).tiles = s.tiles := rfl
@[simp] theorem State.modDie_roles (s : State) (k : Nat) (f : DieSt → DieSt) : (s.modDie k f).roles = s.roles := rfl
@[simp] theorem State.modDie_host (s : State) (k : Nat) (f : DieSt → DieSt) : (s.modDie k f).host = s.host := rfl
@[simp] theorem State.modDie_stk (s : State) (k : Nat) (f : DieSt → DieSt) : (s.modDie k f).stk = s.stk := rfl
@[simp] theorem State.modDie_rsv (s : State) (k : Nat) (f : DieSt → DieSt) : (s.modDie k f).rsv = s.rsv := rfl
@[simp] theorem State.modDie_fab (s : State) (k : Nat) (f : DieSt → DieSt) : (s.modDie k f).fab = s.fab := rfl
@[simp] theorem State.modDie_plt (s : State) (k : Nat) (f : DieSt → DieSt) : (s.modDie k f).plt = s.plt := rfl
@[simp] theorem State.modDie_thr (s : State) (k : Nat) (f : DieSt → DieSt) : (s.modDie k f).thr = s.thr := rfl
@[simp] theorem State.modDie_chk (s : State) (k : Nat) (f : DieSt → DieSt) : (s.modDie k f).chk = s.chk := rfl
@[simp] theorem State.modDie_sys (s : State) (k : Nat) (f : DieSt → DieSt) : (s.modDie k f).sys = s.sys := rfl
@[simp] theorem State.modDie_sec (s : State) (k : Nat) (f : DieSt → DieSt) : (s.modDie k f).sec = s.sec := rfl
@[simp] theorem State.modDie_log (s : State) (k : Nat) (f : DieSt → DieSt) : (s.modDie k f).log = s.log := rfl

/-! modTctx. -/

@[simp] theorem State.modTctx_pending (s : State) (k : Nat) (c : Ctx) (f : TileCtx → TileCtx) : (s.modTctx k c f).pending = s.pending := rfl
@[simp] theorem State.modTctx_free (s : State) (k : Nat) (c : Ctx) (f : TileCtx → TileCtx) : (s.modTctx k c f).free = s.free := rfl
@[simp] theorem State.modTctx_out (s : State) (k : Nat) (c : Ctx) (f : TileCtx → TileCtx) : (s.modTctx k c f).out = s.out := rfl
@[simp] theorem State.modTctx_regs (s : State) (k : Nat) (c : Ctx) (f : TileCtx → TileCtx) : (s.modTctx k c f).regs = s.regs := rfl
@[simp] theorem State.modTctx_latch (s : State) (k : Nat) (c : Ctx) (f : TileCtx → TileCtx) : (s.modTctx k c f).latch = s.latch := rfl
@[simp] theorem State.modTctx_shadow (s : State) (k : Nat) (c : Ctx) (f : TileCtx → TileCtx) : (s.modTctx k c f).shadow = s.shadow := rfl
@[simp] theorem State.modTctx_cx (s : State) (k : Nat) (c : Ctx) (f : TileCtx → TileCtx) : (s.modTctx k c f).cx = s.cx := rfl
@[simp] theorem State.modTctx_catalogue (s : State) (k : Nat) (c : Ctx) (f : TileCtx → TileCtx) : (s.modTctx k c f).catalogue = s.catalogue := rfl
@[simp] theorem State.modTctx_roles (s : State) (k : Nat) (c : Ctx) (f : TileCtx → TileCtx) : (s.modTctx k c f).roles = s.roles := rfl
@[simp] theorem State.modTctx_dies (s : State) (k : Nat) (c : Ctx) (f : TileCtx → TileCtx) : (s.modTctx k c f).dies = s.dies := rfl
@[simp] theorem State.modTctx_host (s : State) (k : Nat) (c : Ctx) (f : TileCtx → TileCtx) : (s.modTctx k c f).host = s.host := rfl
@[simp] theorem State.modTctx_stk (s : State) (k : Nat) (c : Ctx) (f : TileCtx → TileCtx) : (s.modTctx k c f).stk = s.stk := rfl
@[simp] theorem State.modTctx_rsv (s : State) (k : Nat) (c : Ctx) (f : TileCtx → TileCtx) : (s.modTctx k c f).rsv = s.rsv := rfl
@[simp] theorem State.modTctx_fab (s : State) (k : Nat) (c : Ctx) (f : TileCtx → TileCtx) : (s.modTctx k c f).fab = s.fab := rfl
@[simp] theorem State.modTctx_plt (s : State) (k : Nat) (c : Ctx) (f : TileCtx → TileCtx) : (s.modTctx k c f).plt = s.plt := rfl
@[simp] theorem State.modTctx_thr (s : State) (k : Nat) (c : Ctx) (f : TileCtx → TileCtx) : (s.modTctx k c f).thr = s.thr := rfl
@[simp] theorem State.modTctx_chk (s : State) (k : Nat) (c : Ctx) (f : TileCtx → TileCtx) : (s.modTctx k c f).chk = s.chk := rfl
@[simp] theorem State.modTctx_sys (s : State) (k : Nat) (c : Ctx) (f : TileCtx → TileCtx) : (s.modTctx k c f).sys = s.sys := rfl
@[simp] theorem State.modTctx_sec (s : State) (k : Nat) (c : Ctx) (f : TileCtx → TileCtx) : (s.modTctx k c f).sec = s.sec := rfl
@[simp] theorem State.modTctx_log (s : State) (k : Nat) (c : Ctx) (f : TileCtx → TileCtx) : (s.modTctx k c f).log = s.log := rfl

/-! modChan. -/

@[simp] theorem State.modChan_pending (s : State) (k : Nat) (f : Chan → Chan) : (s.modChan k f).pending = s.pending := rfl
@[simp] theorem State.modChan_free (s : State) (k : Nat) (f : Chan → Chan) : (s.modChan k f).free = s.free := rfl
@[simp] theorem State.modChan_out (s : State) (k : Nat) (f : Chan → Chan) : (s.modChan k f).out = s.out := rfl
@[simp] theorem State.modChan_regs (s : State) (k : Nat) (f : Chan → Chan) : (s.modChan k f).regs = s.regs := rfl
@[simp] theorem State.modChan_latch (s : State) (k : Nat) (f : Chan → Chan) : (s.modChan k f).latch = s.latch := rfl
@[simp] theorem State.modChan_shadow (s : State) (k : Nat) (f : Chan → Chan) : (s.modChan k f).shadow = s.shadow := rfl
@[simp] theorem State.modChan_cx (s : State) (k : Nat) (f : Chan → Chan) : (s.modChan k f).cx = s.cx := rfl
@[simp] theorem State.modChan_catalogue (s : State) (k : Nat) (f : Chan → Chan) : (s.modChan k f).catalogue = s.catalogue := rfl
@[simp] theorem State.modChan_tiles (s : State) (k : Nat) (f : Chan → Chan) : (s.modChan k f).tiles = s.tiles := rfl
@[simp] theorem State.modChan_roles (s : State) (k : Nat) (f : Chan → Chan) : (s.modChan k f).roles = s.roles := rfl
@[simp] theorem State.modChan_dies (s : State) (k : Nat) (f : Chan → Chan) : (s.modChan k f).dies = s.dies := rfl
@[simp] theorem State.modChan_host (s : State) (k : Nat) (f : Chan → Chan) : (s.modChan k f).host = s.host := rfl
@[simp] theorem State.modChan_rsv (s : State) (k : Nat) (f : Chan → Chan) : (s.modChan k f).rsv = s.rsv := rfl
@[simp] theorem State.modChan_fab (s : State) (k : Nat) (f : Chan → Chan) : (s.modChan k f).fab = s.fab := rfl
@[simp] theorem State.modChan_plt (s : State) (k : Nat) (f : Chan → Chan) : (s.modChan k f).plt = s.plt := rfl
@[simp] theorem State.modChan_thr (s : State) (k : Nat) (f : Chan → Chan) : (s.modChan k f).thr = s.thr := rfl
@[simp] theorem State.modChan_chk (s : State) (k : Nat) (f : Chan → Chan) : (s.modChan k f).chk = s.chk := rfl
@[simp] theorem State.modChan_sys (s : State) (k : Nat) (f : Chan → Chan) : (s.modChan k f).sys = s.sys := rfl
@[simp] theorem State.modChan_sec (s : State) (k : Nat) (f : Chan → Chan) : (s.modChan k f).sec = s.sec := rfl
@[simp] theorem State.modChan_log (s : State) (k : Nat) (f : Chan → Chan) : (s.modChan k f).log = s.log := rfl

/-! modStack. -/

@[simp] theorem State.modStack_pending (s : State) (k : Nat) (f : StackSt → StackSt) : (s.modStack k f).pending = s.pending := rfl
@[simp] theorem State.modStack_free (s : State) (k : Nat) (f : StackSt → StackSt) : (s.modStack k f).free = s.free := rfl
@[simp] theorem State.modStack_out (s : State) (k : Nat) (f : StackSt → StackSt) : (s.modStack k f).out = s.out := rfl
@[simp] theorem State.modStack_regs (s : State) (k : Nat) (f : StackSt → StackSt) : (s.modStack k f).regs = s.regs := rfl
@[simp] theorem State.modStack_latch (s : State) (k : Nat) (f : StackSt → StackSt) : (s.modStack k f).latch = s.latch := rfl
@[simp] theorem State.modStack_shadow (s : State) (k : Nat) (f : StackSt → StackSt) : (s.modStack k f).shadow = s.shadow := rfl
@[simp] theorem State.modStack_cx (s : State) (k : Nat) (f : StackSt → StackSt) : (s.modStack k f).cx = s.cx := rfl
@[simp] theorem State.modStack_catalogue (s : State) (k : Nat) (f : StackSt → StackSt) : (s.modStack k f).catalogue = s.catalogue := rfl
@[simp] theorem State.modStack_tiles (s : State) (k : Nat) (f : StackSt → StackSt) : (s.modStack k f).tiles = s.tiles := rfl
@[simp] theorem State.modStack_roles (s : State) (k : Nat) (f : StackSt → StackSt) : (s.modStack k f).roles = s.roles := rfl
@[simp] theorem State.modStack_dies (s : State) (k : Nat) (f : StackSt → StackSt) : (s.modStack k f).dies = s.dies := rfl
@[simp] theorem State.modStack_host (s : State) (k : Nat) (f : StackSt → StackSt) : (s.modStack k f).host = s.host := rfl
@[simp] theorem State.modStack_rsv (s : State) (k : Nat) (f : StackSt → StackSt) : (s.modStack k f).rsv = s.rsv := rfl
@[simp] theorem State.modStack_fab (s : State) (k : Nat) (f : StackSt → StackSt) : (s.modStack k f).fab = s.fab := rfl
@[simp] theorem State.modStack_plt (s : State) (k : Nat) (f : StackSt → StackSt) : (s.modStack k f).plt = s.plt := rfl
@[simp] theorem State.modStack_thr (s : State) (k : Nat) (f : StackSt → StackSt) : (s.modStack k f).thr = s.thr := rfl
@[simp] theorem State.modStack_chk (s : State) (k : Nat) (f : StackSt → StackSt) : (s.modStack k f).chk = s.chk := rfl
@[simp] theorem State.modStack_sys (s : State) (k : Nat) (f : StackSt → StackSt) : (s.modStack k f).sys = s.sys := rfl
@[simp] theorem State.modStack_sec (s : State) (k : Nat) (f : StackSt → StackSt) : (s.modStack k f).sec = s.sec := rfl
@[simp] theorem State.modStack_log (s : State) (k : Nat) (f : StackSt → StackSt) : (s.modStack k f).log = s.log := rfl

/-! modPort. -/

@[simp] theorem State.modPort_pending (s : State) (k : Nat) (f : PortSt → PortSt) : (s.modPort k f).pending = s.pending := rfl
@[simp] theorem State.modPort_free (s : State) (k : Nat) (f : PortSt → PortSt) : (s.modPort k f).free = s.free := rfl
@[simp] theorem State.modPort_out (s : State) (k : Nat) (f : PortSt → PortSt) : (s.modPort k f).out = s.out := rfl
@[simp] theorem State.modPort_regs (s : State) (k : Nat) (f : PortSt → PortSt) : (s.modPort k f).regs = s.regs := rfl
@[simp] theorem State.modPort_latch (s : State) (k : Nat) (f : PortSt → PortSt) : (s.modPort k f).latch = s.latch := rfl
@[simp] theorem State.modPort_shadow (s : State) (k : Nat) (f : PortSt → PortSt) : (s.modPort k f).shadow = s.shadow := rfl
@[simp] theorem State.modPort_cx (s : State) (k : Nat) (f : PortSt → PortSt) : (s.modPort k f).cx = s.cx := rfl
@[simp] theorem State.modPort_catalogue (s : State) (k : Nat) (f : PortSt → PortSt) : (s.modPort k f).catalogue = s.catalogue := rfl
@[simp] theorem State.modPort_tiles (s : State) (k : Nat) (f : PortSt → PortSt) : (s.modPort k f).tiles = s.tiles := rfl
@[simp] theorem State.modPort_roles (s : State) (k : Nat) (f : PortSt → PortSt) : (s.modPort k f).roles = s.roles := rfl
@[simp] theorem State.modPort_dies (s : State) (k : Nat) (f : PortSt → PortSt) : (s.modPort k f).dies = s.dies := rfl
@[simp] theorem State.modPort_host (s : State) (k : Nat) (f : PortSt → PortSt) : (s.modPort k f).host = s.host := rfl
@[simp] theorem State.modPort_stk (s : State) (k : Nat) (f : PortSt → PortSt) : (s.modPort k f).stk = s.stk := rfl
@[simp] theorem State.modPort_rsv (s : State) (k : Nat) (f : PortSt → PortSt) : (s.modPort k f).rsv = s.rsv := rfl
@[simp] theorem State.modPort_plt (s : State) (k : Nat) (f : PortSt → PortSt) : (s.modPort k f).plt = s.plt := rfl
@[simp] theorem State.modPort_thr (s : State) (k : Nat) (f : PortSt → PortSt) : (s.modPort k f).thr = s.thr := rfl
@[simp] theorem State.modPort_chk (s : State) (k : Nat) (f : PortSt → PortSt) : (s.modPort k f).chk = s.chk := rfl
@[simp] theorem State.modPort_sys (s : State) (k : Nat) (f : PortSt → PortSt) : (s.modPort k f).sys = s.sys := rfl
@[simp] theorem State.modPort_sec (s : State) (k : Nat) (f : PortSt → PortSt) : (s.modPort k f).sec = s.sec := rfl
@[simp] theorem State.modPort_log (s : State) (k : Nat) (f : PortSt → PortSt) : (s.modPort k f).log = s.log := rfl

/-! modPlan. -/

@[simp] theorem State.modPlan_pending (s : State) (c : Ctx) (j : Nat) (f : PlanSt → PlanSt) : (s.modPlan c j f).pending = s.pending := rfl
@[simp] theorem State.modPlan_free (s : State) (c : Ctx) (j : Nat) (f : PlanSt → PlanSt) : (s.modPlan c j f).free = s.free := rfl
@[simp] theorem State.modPlan_out (s : State) (c : Ctx) (j : Nat) (f : PlanSt → PlanSt) : (s.modPlan c j f).out = s.out := rfl
@[simp] theorem State.modPlan_regs (s : State) (c : Ctx) (j : Nat) (f : PlanSt → PlanSt) : (s.modPlan c j f).regs = s.regs := rfl
@[simp] theorem State.modPlan_latch (s : State) (c : Ctx) (j : Nat) (f : PlanSt → PlanSt) : (s.modPlan c j f).latch = s.latch := rfl
@[simp] theorem State.modPlan_shadow (s : State) (c : Ctx) (j : Nat) (f : PlanSt → PlanSt) : (s.modPlan c j f).shadow = s.shadow := rfl
@[simp] theorem State.modPlan_cx (s : State) (c : Ctx) (j : Nat) (f : PlanSt → PlanSt) : (s.modPlan c j f).cx = s.cx := rfl
@[simp] theorem State.modPlan_catalogue (s : State) (c : Ctx) (j : Nat) (f : PlanSt → PlanSt) : (s.modPlan c j f).catalogue = s.catalogue := rfl
@[simp] theorem State.modPlan_tiles (s : State) (c : Ctx) (j : Nat) (f : PlanSt → PlanSt) : (s.modPlan c j f).tiles = s.tiles := rfl
@[simp] theorem State.modPlan_roles (s : State) (c : Ctx) (j : Nat) (f : PlanSt → PlanSt) : (s.modPlan c j f).roles = s.roles := rfl
@[simp] theorem State.modPlan_dies (s : State) (c : Ctx) (j : Nat) (f : PlanSt → PlanSt) : (s.modPlan c j f).dies = s.dies := rfl
@[simp] theorem State.modPlan_host (s : State) (c : Ctx) (j : Nat) (f : PlanSt → PlanSt) : (s.modPlan c j f).host = s.host := rfl
@[simp] theorem State.modPlan_stk (s : State) (c : Ctx) (j : Nat) (f : PlanSt → PlanSt) : (s.modPlan c j f).stk = s.stk := rfl
@[simp] theorem State.modPlan_rsv (s : State) (c : Ctx) (j : Nat) (f : PlanSt → PlanSt) : (s.modPlan c j f).rsv = s.rsv := rfl
@[simp] theorem State.modPlan_plt (s : State) (c : Ctx) (j : Nat) (f : PlanSt → PlanSt) : (s.modPlan c j f).plt = s.plt := rfl
@[simp] theorem State.modPlan_thr (s : State) (c : Ctx) (j : Nat) (f : PlanSt → PlanSt) : (s.modPlan c j f).thr = s.thr := rfl
@[simp] theorem State.modPlan_chk (s : State) (c : Ctx) (j : Nat) (f : PlanSt → PlanSt) : (s.modPlan c j f).chk = s.chk := rfl
@[simp] theorem State.modPlan_sys (s : State) (c : Ctx) (j : Nat) (f : PlanSt → PlanSt) : (s.modPlan c j f).sys = s.sys := rfl
@[simp] theorem State.modPlan_sec (s : State) (c : Ctx) (j : Nat) (f : PlanSt → PlanSt) : (s.modPlan c j f).sec = s.sec := rfl
@[simp] theorem State.modPlan_log (s : State) (c : Ctx) (j : Nat) (f : PlanSt → PlanSt) : (s.modPlan c j f).log = s.log := rfl

/-! modRun. -/

@[simp] theorem State.modRun_pending (s : State) (c : Ctx) (f : StepRun → StepRun) : (s.modRun c f).pending = s.pending := rfl
@[simp] theorem State.modRun_free (s : State) (c : Ctx) (f : StepRun → StepRun) : (s.modRun c f).free = s.free := rfl
@[simp] theorem State.modRun_out (s : State) (c : Ctx) (f : StepRun → StepRun) : (s.modRun c f).out = s.out := rfl
@[simp] theorem State.modRun_regs (s : State) (c : Ctx) (f : StepRun → StepRun) : (s.modRun c f).regs = s.regs := rfl
@[simp] theorem State.modRun_latch (s : State) (c : Ctx) (f : StepRun → StepRun) : (s.modRun c f).latch = s.latch := rfl
@[simp] theorem State.modRun_shadow (s : State) (c : Ctx) (f : StepRun → StepRun) : (s.modRun c f).shadow = s.shadow := rfl
@[simp] theorem State.modRun_catalogue (s : State) (c : Ctx) (f : StepRun → StepRun) : (s.modRun c f).catalogue = s.catalogue := rfl
@[simp] theorem State.modRun_tiles (s : State) (c : Ctx) (f : StepRun → StepRun) : (s.modRun c f).tiles = s.tiles := rfl
@[simp] theorem State.modRun_roles (s : State) (c : Ctx) (f : StepRun → StepRun) : (s.modRun c f).roles = s.roles := rfl
@[simp] theorem State.modRun_dies (s : State) (c : Ctx) (f : StepRun → StepRun) : (s.modRun c f).dies = s.dies := rfl
@[simp] theorem State.modRun_host (s : State) (c : Ctx) (f : StepRun → StepRun) : (s.modRun c f).host = s.host := rfl
@[simp] theorem State.modRun_stk (s : State) (c : Ctx) (f : StepRun → StepRun) : (s.modRun c f).stk = s.stk := rfl
@[simp] theorem State.modRun_rsv (s : State) (c : Ctx) (f : StepRun → StepRun) : (s.modRun c f).rsv = s.rsv := rfl
@[simp] theorem State.modRun_fab (s : State) (c : Ctx) (f : StepRun → StepRun) : (s.modRun c f).fab = s.fab := rfl
@[simp] theorem State.modRun_plt (s : State) (c : Ctx) (f : StepRun → StepRun) : (s.modRun c f).plt = s.plt := rfl
@[simp] theorem State.modRun_thr (s : State) (c : Ctx) (f : StepRun → StepRun) : (s.modRun c f).thr = s.thr := rfl
@[simp] theorem State.modRun_chk (s : State) (c : Ctx) (f : StepRun → StepRun) : (s.modRun c f).chk = s.chk := rfl
@[simp] theorem State.modRun_sys (s : State) (c : Ctx) (f : StepRun → StepRun) : (s.modRun c f).sys = s.sys := rfl
@[simp] theorem State.modRun_sec (s : State) (c : Ctx) (f : StepRun → StepRun) : (s.modRun c f).sec = s.sec := rfl
@[simp] theorem State.modRun_log (s : State) (c : Ctx) (f : StepRun → StepRun) : (s.modRun c f).log = s.log := rfl

/-! modReader. -/

@[simp] theorem State.modReader_pending (s : State) (i : Nat) (f : Reader → Reader) : (s.modReader i f).pending = s.pending := rfl
@[simp] theorem State.modReader_free (s : State) (i : Nat) (f : Reader → Reader) : (s.modReader i f).free = s.free := rfl
@[simp] theorem State.modReader_out (s : State) (i : Nat) (f : Reader → Reader) : (s.modReader i f).out = s.out := rfl
@[simp] theorem State.modReader_regs (s : State) (i : Nat) (f : Reader → Reader) : (s.modReader i f).regs = s.regs := rfl
@[simp] theorem State.modReader_latch (s : State) (i : Nat) (f : Reader → Reader) : (s.modReader i f).latch = s.latch := rfl
@[simp] theorem State.modReader_shadow (s : State) (i : Nat) (f : Reader → Reader) : (s.modReader i f).shadow = s.shadow := rfl
@[simp] theorem State.modReader_cx (s : State) (i : Nat) (f : Reader → Reader) : (s.modReader i f).cx = s.cx := rfl
@[simp] theorem State.modReader_catalogue (s : State) (i : Nat) (f : Reader → Reader) : (s.modReader i f).catalogue = s.catalogue := rfl
@[simp] theorem State.modReader_tiles (s : State) (i : Nat) (f : Reader → Reader) : (s.modReader i f).tiles = s.tiles := rfl
@[simp] theorem State.modReader_roles (s : State) (i : Nat) (f : Reader → Reader) : (s.modReader i f).roles = s.roles := rfl
@[simp] theorem State.modReader_dies (s : State) (i : Nat) (f : Reader → Reader) : (s.modReader i f).dies = s.dies := rfl
@[simp] theorem State.modReader_host (s : State) (i : Nat) (f : Reader → Reader) : (s.modReader i f).host = s.host := rfl
@[simp] theorem State.modReader_stk (s : State) (i : Nat) (f : Reader → Reader) : (s.modReader i f).stk = s.stk := rfl
@[simp] theorem State.modReader_rsv (s : State) (i : Nat) (f : Reader → Reader) : (s.modReader i f).rsv = s.rsv := rfl
@[simp] theorem State.modReader_fab (s : State) (i : Nat) (f : Reader → Reader) : (s.modReader i f).fab = s.fab := rfl
@[simp] theorem State.modReader_thr (s : State) (i : Nat) (f : Reader → Reader) : (s.modReader i f).thr = s.thr := rfl
@[simp] theorem State.modReader_chk (s : State) (i : Nat) (f : Reader → Reader) : (s.modReader i f).chk = s.chk := rfl
@[simp] theorem State.modReader_sys (s : State) (i : Nat) (f : Reader → Reader) : (s.modReader i f).sys = s.sys := rfl
@[simp] theorem State.modReader_sec (s : State) (i : Nat) (f : Reader → Reader) : (s.modReader i f).sec = s.sec := rfl
@[simp] theorem State.modReader_log (s : State) (i : Nat) (f : Reader → Reader) : (s.modReader i f).log = s.log := rfl

/-! modChk. -/

@[simp] theorem State.modChk_pending (s : State) (u : Nat) (f : ChkSt → ChkSt) : (s.modChk u f).pending = s.pending := rfl
@[simp] theorem State.modChk_free (s : State) (u : Nat) (f : ChkSt → ChkSt) : (s.modChk u f).free = s.free := rfl
@[simp] theorem State.modChk_out (s : State) (u : Nat) (f : ChkSt → ChkSt) : (s.modChk u f).out = s.out := rfl
@[simp] theorem State.modChk_regs (s : State) (u : Nat) (f : ChkSt → ChkSt) : (s.modChk u f).regs = s.regs := rfl
@[simp] theorem State.modChk_latch (s : State) (u : Nat) (f : ChkSt → ChkSt) : (s.modChk u f).latch = s.latch := rfl
@[simp] theorem State.modChk_shadow (s : State) (u : Nat) (f : ChkSt → ChkSt) : (s.modChk u f).shadow = s.shadow := rfl
@[simp] theorem State.modChk_cx (s : State) (u : Nat) (f : ChkSt → ChkSt) : (s.modChk u f).cx = s.cx := rfl
@[simp] theorem State.modChk_catalogue (s : State) (u : Nat) (f : ChkSt → ChkSt) : (s.modChk u f).catalogue = s.catalogue := rfl
@[simp] theorem State.modChk_tiles (s : State) (u : Nat) (f : ChkSt → ChkSt) : (s.modChk u f).tiles = s.tiles := rfl
@[simp] theorem State.modChk_roles (s : State) (u : Nat) (f : ChkSt → ChkSt) : (s.modChk u f).roles = s.roles := rfl
@[simp] theorem State.modChk_dies (s : State) (u : Nat) (f : ChkSt → ChkSt) : (s.modChk u f).dies = s.dies := rfl
@[simp] theorem State.modChk_host (s : State) (u : Nat) (f : ChkSt → ChkSt) : (s.modChk u f).host = s.host := rfl
@[simp] theorem State.modChk_stk (s : State) (u : Nat) (f : ChkSt → ChkSt) : (s.modChk u f).stk = s.stk := rfl
@[simp] theorem State.modChk_rsv (s : State) (u : Nat) (f : ChkSt → ChkSt) : (s.modChk u f).rsv = s.rsv := rfl
@[simp] theorem State.modChk_fab (s : State) (u : Nat) (f : ChkSt → ChkSt) : (s.modChk u f).fab = s.fab := rfl
@[simp] theorem State.modChk_plt (s : State) (u : Nat) (f : ChkSt → ChkSt) : (s.modChk u f).plt = s.plt := rfl
@[simp] theorem State.modChk_thr (s : State) (u : Nat) (f : ChkSt → ChkSt) : (s.modChk u f).thr = s.thr := rfl
@[simp] theorem State.modChk_sys (s : State) (u : Nat) (f : ChkSt → ChkSt) : (s.modChk u f).sys = s.sys := rfl
@[simp] theorem State.modChk_sec (s : State) (u : Nat) (f : ChkSt → ChkSt) : (s.modChk u f).sec = s.sec := rfl
@[simp] theorem State.modChk_log (s : State) (u : Nat) (f : ChkSt → ChkSt) : (s.modChk u f).log = s.log := rfl

/-! modTap. -/

@[simp] theorem State.modTap_pending (s : State) (x : Nat) (f : Tap → Tap) : (s.modTap x f).pending = s.pending := rfl
@[simp] theorem State.modTap_free (s : State) (x : Nat) (f : Tap → Tap) : (s.modTap x f).free = s.free := rfl
@[simp] theorem State.modTap_out (s : State) (x : Nat) (f : Tap → Tap) : (s.modTap x f).out = s.out := rfl
@[simp] theorem State.modTap_regs (s : State) (x : Nat) (f : Tap → Tap) : (s.modTap x f).regs = s.regs := rfl
@[simp] theorem State.modTap_latch (s : State) (x : Nat) (f : Tap → Tap) : (s.modTap x f).latch = s.latch := rfl
@[simp] theorem State.modTap_shadow (s : State) (x : Nat) (f : Tap → Tap) : (s.modTap x f).shadow = s.shadow := rfl
@[simp] theorem State.modTap_cx (s : State) (x : Nat) (f : Tap → Tap) : (s.modTap x f).cx = s.cx := rfl
@[simp] theorem State.modTap_catalogue (s : State) (x : Nat) (f : Tap → Tap) : (s.modTap x f).catalogue = s.catalogue := rfl
@[simp] theorem State.modTap_tiles (s : State) (x : Nat) (f : Tap → Tap) : (s.modTap x f).tiles = s.tiles := rfl
@[simp] theorem State.modTap_roles (s : State) (x : Nat) (f : Tap → Tap) : (s.modTap x f).roles = s.roles := rfl
@[simp] theorem State.modTap_dies (s : State) (x : Nat) (f : Tap → Tap) : (s.modTap x f).dies = s.dies := rfl
@[simp] theorem State.modTap_host (s : State) (x : Nat) (f : Tap → Tap) : (s.modTap x f).host = s.host := rfl
@[simp] theorem State.modTap_stk (s : State) (x : Nat) (f : Tap → Tap) : (s.modTap x f).stk = s.stk := rfl
@[simp] theorem State.modTap_rsv (s : State) (x : Nat) (f : Tap → Tap) : (s.modTap x f).rsv = s.rsv := rfl
@[simp] theorem State.modTap_fab (s : State) (x : Nat) (f : Tap → Tap) : (s.modTap x f).fab = s.fab := rfl
@[simp] theorem State.modTap_plt (s : State) (x : Nat) (f : Tap → Tap) : (s.modTap x f).plt = s.plt := rfl
@[simp] theorem State.modTap_thr (s : State) (x : Nat) (f : Tap → Tap) : (s.modTap x f).thr = s.thr := rfl
@[simp] theorem State.modTap_chk (s : State) (x : Nat) (f : Tap → Tap) : (s.modTap x f).chk = s.chk := rfl
@[simp] theorem State.modTap_sec (s : State) (x : Nat) (f : Tap → Tap) : (s.modTap x f).sec = s.sec := rfl
@[simp] theorem State.modTap_log (s : State) (x : Nat) (f : Tap → Tap) : (s.modTap x f).log = s.log := rfl

/-! emit. -/

@[simp] theorem State.emit_pending (s : State) (o : Out) : (s.emit o).pending = s.pending := rfl
@[simp] theorem State.emit_free (s : State) (o : Out) : (s.emit o).free = s.free := rfl
@[simp] theorem State.emit_regs (s : State) (o : Out) : (s.emit o).regs = s.regs := rfl
@[simp] theorem State.emit_latch (s : State) (o : Out) : (s.emit o).latch = s.latch := rfl
@[simp] theorem State.emit_shadow (s : State) (o : Out) : (s.emit o).shadow = s.shadow := rfl
@[simp] theorem State.emit_cx (s : State) (o : Out) : (s.emit o).cx = s.cx := rfl
@[simp] theorem State.emit_catalogue (s : State) (o : Out) : (s.emit o).catalogue = s.catalogue := rfl
@[simp] theorem State.emit_tiles (s : State) (o : Out) : (s.emit o).tiles = s.tiles := rfl
@[simp] theorem State.emit_roles (s : State) (o : Out) : (s.emit o).roles = s.roles := rfl
@[simp] theorem State.emit_dies (s : State) (o : Out) : (s.emit o).dies = s.dies := rfl
@[simp] theorem State.emit_host (s : State) (o : Out) : (s.emit o).host = s.host := rfl
@[simp] theorem State.emit_stk (s : State) (o : Out) : (s.emit o).stk = s.stk := rfl
@[simp] theorem State.emit_rsv (s : State) (o : Out) : (s.emit o).rsv = s.rsv := rfl
@[simp] theorem State.emit_fab (s : State) (o : Out) : (s.emit o).fab = s.fab := rfl
@[simp] theorem State.emit_plt (s : State) (o : Out) : (s.emit o).plt = s.plt := rfl
@[simp] theorem State.emit_thr (s : State) (o : Out) : (s.emit o).thr = s.thr := rfl
@[simp] theorem State.emit_chk (s : State) (o : Out) : (s.emit o).chk = s.chk := rfl
@[simp] theorem State.emit_sys (s : State) (o : Out) : (s.emit o).sys = s.sys := rfl
@[simp] theorem State.emit_sec (s : State) (o : Out) : (s.emit o).sec = s.sec := rfl
@[simp] theorem State.emit_log (s : State) (o : Out) : (s.emit o).log = s.log := rfl

/-! tick. -/

@[simp] theorem State.tick_pending (s : State) : (s.tick).pending = s.pending := rfl
@[simp] theorem State.tick_out (s : State) : (s.tick).out = s.out := rfl
@[simp] theorem State.tick_regs (s : State) : (s.tick).regs = s.regs := rfl
@[simp] theorem State.tick_latch (s : State) : (s.tick).latch = s.latch := rfl
@[simp] theorem State.tick_shadow (s : State) : (s.tick).shadow = s.shadow := rfl
@[simp] theorem State.tick_cx (s : State) : (s.tick).cx = s.cx := rfl
@[simp] theorem State.tick_catalogue (s : State) : (s.tick).catalogue = s.catalogue := rfl
@[simp] theorem State.tick_tiles (s : State) : (s.tick).tiles = s.tiles := rfl
@[simp] theorem State.tick_roles (s : State) : (s.tick).roles = s.roles := rfl
@[simp] theorem State.tick_dies (s : State) : (s.tick).dies = s.dies := rfl
@[simp] theorem State.tick_host (s : State) : (s.tick).host = s.host := rfl
@[simp] theorem State.tick_stk (s : State) : (s.tick).stk = s.stk := rfl
@[simp] theorem State.tick_rsv (s : State) : (s.tick).rsv = s.rsv := rfl
@[simp] theorem State.tick_fab (s : State) : (s.tick).fab = s.fab := rfl
@[simp] theorem State.tick_plt (s : State) : (s.tick).plt = s.plt := rfl
@[simp] theorem State.tick_thr (s : State) : (s.tick).thr = s.thr := rfl
@[simp] theorem State.tick_chk (s : State) : (s.tick).chk = s.chk := rfl
@[simp] theorem State.tick_sys (s : State) : (s.tick).sys = s.sys := rfl
@[simp] theorem State.tick_sec (s : State) : (s.tick).sec = s.sec := rfl
@[simp] theorem State.tick_log (s : State) : (s.tick).log = s.log := rfl

/-! setReg. -/

@[simp] theorem State.setReg_pending (s : State) (a v : Nat) : (s.setReg a v).pending = s.pending := rfl
@[simp] theorem State.setReg_free (s : State) (a v : Nat) : (s.setReg a v).free = s.free := rfl
@[simp] theorem State.setReg_out (s : State) (a v : Nat) : (s.setReg a v).out = s.out := rfl
@[simp] theorem State.setReg_latch (s : State) (a v : Nat) : (s.setReg a v).latch = s.latch := rfl
@[simp] theorem State.setReg_shadow (s : State) (a v : Nat) : (s.setReg a v).shadow = s.shadow := rfl
@[simp] theorem State.setReg_cx (s : State) (a v : Nat) : (s.setReg a v).cx = s.cx := rfl
@[simp] theorem State.setReg_catalogue (s : State) (a v : Nat) : (s.setReg a v).catalogue = s.catalogue := rfl
@[simp] theorem State.setReg_tiles (s : State) (a v : Nat) : (s.setReg a v).tiles = s.tiles := rfl
@[simp] theorem State.setReg_roles (s : State) (a v : Nat) : (s.setReg a v).roles = s.roles := rfl
@[simp] theorem State.setReg_dies (s : State) (a v : Nat) : (s.setReg a v).dies = s.dies := rfl
@[simp] theorem State.setReg_host (s : State) (a v : Nat) : (s.setReg a v).host = s.host := rfl
@[simp] theorem State.setReg_stk (s : State) (a v : Nat) : (s.setReg a v).stk = s.stk := rfl
@[simp] theorem State.setReg_rsv (s : State) (a v : Nat) : (s.setReg a v).rsv = s.rsv := rfl
@[simp] theorem State.setReg_fab (s : State) (a v : Nat) : (s.setReg a v).fab = s.fab := rfl
@[simp] theorem State.setReg_plt (s : State) (a v : Nat) : (s.setReg a v).plt = s.plt := rfl
@[simp] theorem State.setReg_thr (s : State) (a v : Nat) : (s.setReg a v).thr = s.thr := rfl
@[simp] theorem State.setReg_chk (s : State) (a v : Nat) : (s.setReg a v).chk = s.chk := rfl
@[simp] theorem State.setReg_sys (s : State) (a v : Nat) : (s.setReg a v).sys = s.sys := rfl
@[simp] theorem State.setReg_sec (s : State) (a v : Nat) : (s.setReg a v).sec = s.sec := rfl
@[simp] theorem State.setReg_log (s : State) (a v : Nat) : (s.setReg a v).log = s.log := rfl

/-! hostWrite. -/

@[simp] theorem State.hostWrite_pending (s : State) (a : Nat) (bs : List Byte) : (s.hostWrite a bs).pending = s.pending := rfl
@[simp] theorem State.hostWrite_free (s : State) (a : Nat) (bs : List Byte) : (s.hostWrite a bs).free = s.free := rfl
@[simp] theorem State.hostWrite_out (s : State) (a : Nat) (bs : List Byte) : (s.hostWrite a bs).out = s.out := rfl
@[simp] theorem State.hostWrite_regs (s : State) (a : Nat) (bs : List Byte) : (s.hostWrite a bs).regs = s.regs := rfl
@[simp] theorem State.hostWrite_latch (s : State) (a : Nat) (bs : List Byte) : (s.hostWrite a bs).latch = s.latch := rfl
@[simp] theorem State.hostWrite_shadow (s : State) (a : Nat) (bs : List Byte) : (s.hostWrite a bs).shadow = s.shadow := rfl
@[simp] theorem State.hostWrite_cx (s : State) (a : Nat) (bs : List Byte) : (s.hostWrite a bs).cx = s.cx := rfl
@[simp] theorem State.hostWrite_catalogue (s : State) (a : Nat) (bs : List Byte) : (s.hostWrite a bs).catalogue = s.catalogue := rfl
@[simp] theorem State.hostWrite_tiles (s : State) (a : Nat) (bs : List Byte) : (s.hostWrite a bs).tiles = s.tiles := rfl
@[simp] theorem State.hostWrite_roles (s : State) (a : Nat) (bs : List Byte) : (s.hostWrite a bs).roles = s.roles := rfl
@[simp] theorem State.hostWrite_dies (s : State) (a : Nat) (bs : List Byte) : (s.hostWrite a bs).dies = s.dies := rfl
@[simp] theorem State.hostWrite_stk (s : State) (a : Nat) (bs : List Byte) : (s.hostWrite a bs).stk = s.stk := rfl
@[simp] theorem State.hostWrite_rsv (s : State) (a : Nat) (bs : List Byte) : (s.hostWrite a bs).rsv = s.rsv := rfl
@[simp] theorem State.hostWrite_fab (s : State) (a : Nat) (bs : List Byte) : (s.hostWrite a bs).fab = s.fab := rfl
@[simp] theorem State.hostWrite_plt (s : State) (a : Nat) (bs : List Byte) : (s.hostWrite a bs).plt = s.plt := rfl
@[simp] theorem State.hostWrite_thr (s : State) (a : Nat) (bs : List Byte) : (s.hostWrite a bs).thr = s.thr := rfl
@[simp] theorem State.hostWrite_chk (s : State) (a : Nat) (bs : List Byte) : (s.hostWrite a bs).chk = s.chk := rfl
@[simp] theorem State.hostWrite_sys (s : State) (a : Nat) (bs : List Byte) : (s.hostWrite a bs).sys = s.sys := rfl
@[simp] theorem State.hostWrite_sec (s : State) (a : Nat) (bs : List Byte) : (s.hostWrite a bs).sec = s.sec := rfl
@[simp] theorem State.hostWrite_log (s : State) (a : Nat) (bs : List Byte) : (s.hostWrite a bs).log = s.log := rfl

/-! tookRec. -/

@[simp] theorem State.tookRec_pending (s : State) : (s.tookRec).pending = s.pending := rfl
@[simp] theorem State.tookRec_out (s : State) : (s.tookRec).out = s.out := rfl
@[simp] theorem State.tookRec_regs (s : State) : (s.tookRec).regs = s.regs := rfl
@[simp] theorem State.tookRec_latch (s : State) : (s.tookRec).latch = s.latch := rfl
@[simp] theorem State.tookRec_shadow (s : State) : (s.tookRec).shadow = s.shadow := rfl
@[simp] theorem State.tookRec_cx (s : State) : (s.tookRec).cx = s.cx := rfl
@[simp] theorem State.tookRec_catalogue (s : State) : (s.tookRec).catalogue = s.catalogue := rfl
@[simp] theorem State.tookRec_tiles (s : State) : (s.tookRec).tiles = s.tiles := rfl
@[simp] theorem State.tookRec_roles (s : State) : (s.tookRec).roles = s.roles := rfl
@[simp] theorem State.tookRec_dies (s : State) : (s.tookRec).dies = s.dies := rfl
@[simp] theorem State.tookRec_stk (s : State) : (s.tookRec).stk = s.stk := rfl
@[simp] theorem State.tookRec_rsv (s : State) : (s.tookRec).rsv = s.rsv := rfl
@[simp] theorem State.tookRec_fab (s : State) : (s.tookRec).fab = s.fab := rfl
@[simp] theorem State.tookRec_plt (s : State) : (s.tookRec).plt = s.plt := rfl
@[simp] theorem State.tookRec_thr (s : State) : (s.tookRec).thr = s.thr := rfl
@[simp] theorem State.tookRec_chk (s : State) : (s.tookRec).chk = s.chk := rfl
@[simp] theorem State.tookRec_sys (s : State) : (s.tookRec).sys = s.sys := rfl
@[simp] theorem State.tookRec_sec (s : State) : (s.tookRec).sec = s.sec := rfl
@[simp] theorem State.tookRec_log (s : State) : (s.tookRec).log = s.log := rfl

/-! popHead. -/

@[simp] theorem State.popHead_pending (s : State) (c : Ctx) : (s.popHead c).pending = s.pending := rfl
@[simp] theorem State.popHead_free (s : State) (c : Ctx) : (s.popHead c).free = s.free := rfl
@[simp] theorem State.popHead_out (s : State) (c : Ctx) : (s.popHead c).out = s.out := rfl
@[simp] theorem State.popHead_regs (s : State) (c : Ctx) : (s.popHead c).regs = s.regs := rfl
@[simp] theorem State.popHead_latch (s : State) (c : Ctx) : (s.popHead c).latch = s.latch := rfl
@[simp] theorem State.popHead_shadow (s : State) (c : Ctx) : (s.popHead c).shadow = s.shadow := rfl
@[simp] theorem State.popHead_catalogue (s : State) (c : Ctx) : (s.popHead c).catalogue = s.catalogue := rfl
@[simp] theorem State.popHead_tiles (s : State) (c : Ctx) : (s.popHead c).tiles = s.tiles := rfl
@[simp] theorem State.popHead_roles (s : State) (c : Ctx) : (s.popHead c).roles = s.roles := rfl
@[simp] theorem State.popHead_dies (s : State) (c : Ctx) : (s.popHead c).dies = s.dies := rfl
@[simp] theorem State.popHead_host (s : State) (c : Ctx) : (s.popHead c).host = s.host := rfl
@[simp] theorem State.popHead_stk (s : State) (c : Ctx) : (s.popHead c).stk = s.stk := rfl
@[simp] theorem State.popHead_rsv (s : State) (c : Ctx) : (s.popHead c).rsv = s.rsv := rfl
@[simp] theorem State.popHead_fab (s : State) (c : Ctx) : (s.popHead c).fab = s.fab := rfl
@[simp] theorem State.popHead_plt (s : State) (c : Ctx) : (s.popHead c).plt = s.plt := rfl
@[simp] theorem State.popHead_thr (s : State) (c : Ctx) : (s.popHead c).thr = s.thr := rfl
@[simp] theorem State.popHead_chk (s : State) (c : Ctx) : (s.popHead c).chk = s.chk := rfl
@[simp] theorem State.popHead_sys (s : State) (c : Ctx) : (s.popHead c).sys = s.sys := rfl
@[simp] theorem State.popHead_sec (s : State) (c : Ctx) : (s.popHead c).sec = s.sec := rfl
@[simp] theorem State.popHead_log (s : State) (c : Ctx) : (s.popHead c).log = s.log := rfl

/-! The updated entries. -/

theorem ctx_num_inj {c d : Ctx} (h : c.num = d.num) : c = d := by cases c <;> cases d <;> first | rfl | cases h
theorem ctx_num_lt (c : Ctx) : c.num < 4 := by cases c <;> decide

theorem State.cxt_modCx (s : State) (h : s.cx.length = 4) (c d : Ctx) (f : CtxSt → CtxSt) :
    (s.modCx c f).cxt d = if d = c then f (s.cxt c) else s.cxt d := by
  unfold State.cxt State.modCx
  split
  · rename_i e; subst e
    exact nth_modAt_self _ _ _ _ (by rw [h]; exact ctx_num_lt d)
  · rename_i e
    exact nth_modAt_ne _ _ _ _ _ (fun g => e (ctx_num_inj g).symm)

theorem State.tile_modTile (s : State) (k j : Nat) (f : TileSt → TileSt) :
    (s.modTile k f).tile j = if j = k then f (s.tile k) else s.tile j := Tbl.get_set _ _ _ _ _
theorem State.die_modDie (s : State) (k j : Nat) (f : DieSt → DieSt) :
    (s.modDie k f).die j = if j = k then f (s.die k) else s.die j := Tbl.get_set _ _ _ _ _
theorem State.port_modPort (s : State) (k j : Nat) (f : PortSt → PortSt) :
    (s.modPort k f).port j = if j = k then f (s.port k) else s.port j := Tbl.get_set _ _ _ _ _
theorem State.stackSt_modStack (s : State) (k j : Nat) (f : StackSt → StackSt) :
    (s.modStack k f).stackSt j = if j = k then f (s.stackSt k) else s.stackSt j := Tbl.get_set _ _ _ _ _

theorem State.chan_modChan (s : State) (k j : Nat) (f : Chan → Chan) :
    (s.modChan k f).chan j = if j = k then f (s.chan k) else s.chan j := by
  unfold State.chan State.modChan
  simp only [Tbl.get_set]
  split
  · rename_i e; subst e; rfl
  · rfl

theorem State.role_modRole (s : State) (k j : Nat) (f : Role → Role) :
    (s.modRole k f).role j = if j = k then f (s.role k) else s.role j := by
  unfold State.role State.modRole
  simp only [Tbl.get_set]
  split
  · rename_i e; subst e; rfl
  · rfl

theorem State.reg_setReg (s : State) (a b v : Nat) : (s.setReg a v).reg b = if b = a then v % 2 ^ 32 else s.reg b := by
  unfold State.reg State.setReg
  simp only [Tbl.get_set]
  split
  · simp
  · rfl

end Sys2Proof.Machine
end

