-- ==== Sys2Proof/Laws/Core.lean ====
section
/-! SUPPORT. What a report leaves: the shared operations that write records, completion entries, messages, error and event bits
change nothing of a state but its reports (`State.core` of Safety.lean). -/

namespace Sys2Proof.Machine

/-! Parts of the core. -/

theorem core_of_reg (s : State) {a : Nat} (h : reportReg a = true) (v : Nat) : (s.setReg a v).core = s.core := by
  unfold State.core State.setReg
  simp only [Tbl.drop_set _ h]

theorem core_of_cx (s : State) (c : Ctx) (f : CtxSt → CtxSt) (h : ∀ x, (f x).core = x.core) : (s.modCx c f).core = s.core := by
  unfold State.core State.modCx
  simp only [map_modAt CtxSt.core f (fun x => x) h, modAt_id _ (fun _ => rfl)]

/-- A change of a context that leaves its ring indices to themselves acts on the core in the same way. -/
theorem core_modCx (s : State) (c : Ctx) (f : CtxSt → CtxSt) (h : ∀ x, (f x).core = (f x.core).core) :
    (s.modCx c f).core = (s.core.modCx c f).core := by
  have e : ∀ x : CtxSt, x.core.core = x.core := fun _ => rfl
  unfold State.core State.modCx
  congr 1
  · simp only [List.filter_filter, Bool.and_self]
  · simp only [Tbl.drop, List.filter_filter, Bool.and_self]
  · dsimp only
    generalize s.cx = l
    generalize c.num = i
    induction l generalizing i with
    | nil => cases i <;> rfl
    | cons x t ih =>
      cases i with
      | zero =>
        simp only [modAt, List.map_cons, List.map_map]
        refine congrArg₂ List.cons (h x) ?_
        apply List.map_congr_left; intro y _; rfl
      | succ i => simp only [modAt, List.map_cons]; exact congrArg₂ List.cons rfl (ih i)

/-- The same change of a context in two states of equal core. -/
theorem core_modCx_congr {s t : State} (e : s.core = t.core) (c : Ctx) (f : CtxSt → CtxSt)
    (h : ∀ x, (f x).core = (f x.core).core) : (s.modCx c f).core = (t.modCx c f).core := by
  rw [core_modCx s c f h, core_modCx t c f h, e]

theorem core_of_host (s : State) (h : HostSt) (e : h.core = s.host.core) : State.core { s with host := h } = s.core := by
  unfold State.core
  simp only [e]

theorem State.emit_core (s : State) (o : Out) (h : o.isMsix = true) : (s.emit o).core = s.core := by
  unfold State.core State.emit
  simp [h]
/-- What goes out besides interrupt messages is kept by the core. -/
theorem State.emit_core_out (s t : State) (o : Out) (e : s.core = t.core) : (s.emit o).core = (t.emit o).core := by
  have k := congrArg State.out e
  have k' : s.out.filter (fun o => !o.isMsix) = t.out.filter (fun o => !o.isMsix) := k
  have h (u : State) : (u.emit o).core = { u.core with out := u.core.out ++ [o].filter fun o => !o.isMsix } := by
    unfold State.core State.emit
    simp only [List.filter_append]
  rw [h, h, e]
@[simp] theorem State.tick_core (s : State) : s.tick.core = s.core := rfl
@[simp] theorem State.hostWrite_core (s : State) (a : Nat) (bs : List Byte) : (s.hostWrite a bs).core = s.core :=
  core_of_host s _ rfl
@[simp] theorem State.tookRec_core (s : State) : s.tookRec.core = s.core := core_of_host s _ rfl
@[simp] theorem State.writeTails_core (s : State) (c : Ctx) : (s.writeTails c).core = s.core := by
  unfold State.writeTails
  exact s.hostWrite_core _ _

@[simp] theorem State.popHead_core (s : State) (c : Ctx) : (s.popHead c).core = s.core := core_of_cx s c _ fun _ => rfl

/-! Registers that report. -/

theorem reportReg_err {p : Nat} (h : p % 0x1000 = 0) : reportReg (p + 0x10) = true := by
  have : (p + 0x10) % 0x1000 = 0x10 := by omega
  simp [reportReg, this]
theorem reportReg_evt {p : Nat} (h : p % 0x1000 = 0) : reportReg (p + 0x1C) = true := by
  have : (p + 0x1C) % 0x1000 = 0x1C := by omega
  simp [reportReg, this]
theorem reportReg_alert : reportReg (pgKPR + 0x44) = true := by decide
theorem reportReg_evtOver : reportReg (pgHST + 0x58) = true := by decide
theorem reportReg_fltOver (c : Ctx) : reportReg (hstCtx c 0x68) = true := by cases c <;> decide

theorem State.countEvent_core (s : State) {p : Nat} (h : p % 0x1000 = 0) : (s.countEvent p).core = s.core :=
  core_of_reg s (reportReg_evt h) _

/-! Messages. -/

@[simp] theorem State.msixSend_core (s : State) (v : Nat) : (s.msixSend v).core = s.core := by
  unfold State.msixSend
  split
  · exact core_of_host s _ rfl
  · exact s.emit_core _ rfl

@[simp] theorem State.signal_core (s : State) (v : Nat) : (s.signal v).core = s.core := by
  unfold State.signal
  split
  · exact core_of_host s _ rfl
  · dsimp only
    split
    · exact s.msixSend_core v
    · exact (core_of_host _ _ rfl).trans (s.msixSend_core v)

/-! Records. -/

@[simp] theorem State.ctxRecord_core (s : State) (c : Ctx) (r : FRec) : (s.ctxRecord c r).core = s.core := by
  unfold State.ctxRecord
  dsimp only
  split
  · exact core_of_reg _ (reportReg_fltOver c) _
  · rw [State.signal_core, State.writeTails_core]
    refine (core_of_cx _ c _ ?_).trans ?_
    · exact fun _ => rfl
    · rw [State.hostWrite_core, State.tookRec_core]

@[simp] theorem State.evtPush_core (s : State) (bs : List Byte) : (s.evtPush bs).core = s.core := by
  unfold State.evtPush
  dsimp only
  split
  · exact core_of_reg _ reportReg_evtOver _
  · rw [State.signal_core, State.hostWrite_core]
    exact (core_of_host _ _ rfl).trans (s.hostWrite_core _ _)

@[simp] theorem State.evtRecord_core (s : State) (r : FRec) : (s.evtRecord r).core = s.core := by
  unfold State.evtRecord
  dsimp only
  split
  · rw [State.evtPush_core, State.tookRec_core]
  · exact (core_of_host _ _ rfl).trans s.tookRec_core

@[simp] theorem State.flushEarly_core (s : State) : s.flushEarly.core = s.core := by
  unfold State.flushEarly
  split
  · generalize s.host.early = l
    have h : ∀ (l : List (List Byte)) (t : State), (l.foldl State.evtPush t).core = t.core := by
      intro l
      induction l with
      | nil => intro t; rfl
      | cons b l ih => intro t; rw [List.foldl_cons, ih, State.evtPush_core]
    rw [h]; exact core_of_host s _ rfl
  · rfl

@[simp] theorem State.alert_core (s : State) (b : Nat) : (s.alert b).core = s.core := by
  unfold State.alert
  dsimp only
  split
  · rfl
  · rw [State.signal_core]; exact core_of_reg _ reportReg_alert _

theorem State.event_core (s : State) {p : Nat} (h : p % 0x1000 = 0) (r : FRec) : (s.event p r).core = s.core := by
  unfold State.event
  dsimp only
  split
  · rw [State.alert_core, State.evtRecord_core]; exact core_of_reg _ (reportReg_err h) _
  · rw [State.evtRecord_core]; exact core_of_reg _ (reportReg_err h) _

theorem State.errBit_core (s : State) {p : Nat} (h : p % 0x1000 = 0) (b : Nat) : (s.errBit p b).core = s.core := by
  unfold State.errBit
  dsimp only
  split
  · rfl
  · split
    · rw [State.evtRecord_core]; exact core_of_reg _ (reportReg_err h) _
    · exact core_of_reg _ (reportReg_err h) _

/-! Completions. -/

@[simp] theorem State.cplPush_core (s : State) (c : Ctx) (e : List Byte) : (s.cplPush c e).core = s.core := by
  unfold State.cplPush
  dsimp only
  rw [State.signal_core, State.writeTails_core]
  refine (core_of_cx _ c _ ?_).trans ?_
  · exact fun _ => rfl
  · rw [State.hostWrite_core]

@[simp] theorem State.complete_core (s : State) (c : Ctx) (t : CmdTag) (status code alm seq : Nat) :
    (s.complete c t status code alm seq).core = s.core := by
  unfold State.complete
  dsimp only
  split
  · exact core_of_cx _ _ _ fun _ => rfl
  · exact s.cplPush_core c _

@[simp] theorem State.done_core (s : State) (c : Ctx) (t : CmdTag) : (s.done c t).core = s.core := s.complete_core c t 0 0 noAlm 0

@[simp] theorem State.refuse_core (s : State) (c : Ctx) (t : CmdTag) (r : FRec) : (s.refuse c t r).core = s.core := by
  unfold State.refuse
  dsimp only
  rw [State.complete_core, State.ctxRecord_core]

@[simp] theorem State.flushCpl_core (c : Ctx) (n : Nat) (s : State) : (State.flushCpl c n s).core = s.core := by
  induction n generalizing s with
  | zero => rfl
  | succ n ih =>
    simp only [State.flushCpl]
    split
    · rfl
    · split
      · rfl
      · rw [ih, State.cplPush_core]; exact core_of_cx _ _ _ fun _ => rfl

@[simp] theorem State.skipBad_core (c : Ctx) (n : Nat) (s : State) : (State.skipBad c n s).core = s.core := by
  induction n generalizing s with
  | zero => rfl
  | succ n ih =>
    simp only [State.skipBad]
    split
    · split
      · rfl
      · split
        · rfl
        · rw [ih, State.refuse_core, State.popHead_core]
    · rfl

@[simp] theorem State.refuseCode_core (s : State) (c : Ctx) (t : CmdTag) (code : Nat) : (s.refuseCode c t code).core = s.core :=
  s.refuse_core c t _

@[simp] theorem State.almPush_core (s : State) (c : Ctx) (bs : List Byte) : (s.almPush c bs).core = s.core := by
  unfold State.almPush
  dsimp only
  rw [State.signal_core, State.writeTails_core]
  refine (core_of_cx _ c _ ?_).trans ?_
  · exact fun _ => rfl
  · rw [State.hostWrite_core]

/-! Fields that the core keeps. -/

theorem core_fields {s t : State} (h : t.core = s.core) :
    t.pending = s.pending ∧ t.latch = s.latch ∧ t.shadow = s.shadow ∧ t.catalogue = s.catalogue ∧ t.tiles = s.tiles ∧
      t.roles = s.roles ∧ t.dies = s.dies ∧ t.stk = s.stk ∧ t.rsv = s.rsv ∧ t.fab = s.fab ∧ t.plt = s.plt ∧ t.thr = s.thr ∧
      t.chk = s.chk ∧ t.sys = s.sys ∧ t.sec = s.sec ∧ t.log = s.log := by
  have field {α : Type} (p : State → α) : p t.core = p s.core := congrArg p h
  exact ⟨field (·.pending), field (·.latch), field (·.shadow), field (·.catalogue), field (·.tiles), field (·.roles), field (·.dies), field (·.stk), field (·.rsv), field (·.fab), field (·.plt), field (·.thr), field (·.chk), field (·.sys), field (·.sec), field (·.log)⟩

/-- A register that no report changes reads the same in states of equal core. -/
theorem core_reg {s t : State} (h : t.core = s.core) {a : Nat} (ha : reportReg a = false) : t.reg a = s.reg a := by
  have e := congrArg State.regs h
  have hs := Tbl.get_drop (BitVec.ofNat 32 (regReset a)) reportReg a s.regs
  have ht := Tbl.get_drop (BitVec.ofNat 32 (regReset a)) reportReg a t.regs
  have e' : Tbl.drop reportReg t.regs = Tbl.drop reportReg s.regs := e
  rw [e', hs, ha] at ht
  simp only [Bool.false_eq_true, if_false] at ht
  unfold State.reg
  rw [← ht]

/-- A context of states of equal core is the same but for its ring indices. -/
theorem core_cxt {s t : State} (h : t.core = s.core) (c : Ctx) : (t.cxt c).core = (s.cxt c).core := by
  have e := congrArg State.cx h
  have e' : t.cx.map CtxSt.core = s.cx.map CtxSt.core := e
  have k : ∀ (l : List CtxSt) (i : Nat), (nth CtxSt.reset i l).core = nth CtxSt.reset i (l.map CtxSt.core) := by
    intro l
    induction l with
    | nil => intro i; cases i <;> rfl
    | cons x u ih => intro i; cases i with
      | zero => rfl
      | succ i => exact ih i
  unfold State.cxt
  rw [k, k, e']

end Sys2Proof.Machine
end

