-- ==== Sys2Proof/Laws/Mem.lean ====
section
/-! SUPPORT. The laws of byte memories: what a read returns after a write, and that every operation keeps the canonical form
(assumption entry 5). -/

namespace Sys2Proof.Machine

/-- Every listed address of a canonical memory's tail lies above `a`. -/
def Mem.above (a : Nat) (m : Mem) : Prop := ∀ e ∈ m, a < e.1

theorem Mem.wf_cons (k : Nat) (v : Byte) (m : Mem) :
    Mem.wf ((k, v) :: m) = true ↔ v ≠ Mem.unlisted ∧ Mem.above k m ∧ Mem.wf m = true := by
  induction m generalizing k v with
  | nil => simp [Mem.wf, Mem.above]
  | cons e t ih =>
    obtain ⟨k', v'⟩ := e
    have h1 : Mem.wf ((k, v) :: (k', v') :: t) = true ↔ v ≠ Mem.unlisted ∧ k < k' ∧ Mem.wf ((k', v') :: t) = true := by
      simp [Mem.wf, and_assoc]
    rw [h1]
    constructor
    · rintro ⟨a, b, c⟩
      refine ⟨a, ?_, c⟩
      intro e he
      rcases List.mem_cons.1 he with rfl | he
      · exact b
      · exact lt_trans b (((ih k' v').1 c).2.1 e he)
    · rintro ⟨a, b, c⟩
      exact ⟨a, b (k', v') (by simp), c⟩

theorem Mem.above_erase {a b : Nat} {m : Mem} (h : Mem.above a m) : Mem.above a (m.erase b) := by
  induction m with
  | nil => exact h
  | cons e t ih =>
    obtain ⟨k, v⟩ := e
    have ht : Mem.above a t := fun e he => h e (by simp [he])
    simp only [Mem.erase]
    split
    · exact ht
    · split
      · exact h
      · intro e he
        rcases List.mem_cons.1 he with rfl | he
        · exact h _ (by simp)
        · exact ih ht e he

theorem Mem.above_insert {a b : Nat} {w : Byte} {m : Mem} (h : Mem.above a m) (hb : a < b) : Mem.above a (m.insert b w) := by
  induction m with
  | nil => intro e he; simp [Mem.insert] at he; subst he; exact hb
  | cons e t ih =>
    obtain ⟨k, v⟩ := e
    have ht : Mem.above a t := fun e he => h e (by simp [he])
    simp only [Mem.insert]
    split
    · intro e he
      rcases List.mem_cons.1 he with rfl | he
      · exact hb
      · exact ht e he
    · split
      · intro e he
        rcases List.mem_cons.1 he with rfl | he
        · exact hb
        · exact h e he
      · intro e he
        rcases List.mem_cons.1 he with rfl | he
        · exact h _ (by simp)
        · exact ih ht e he

theorem Mem.erase_wf {m : Mem} (a : Nat) (h : m.wf = true) : (m.erase a).wf = true := by
  induction m with
  | nil => rfl
  | cons e t ih =>
    obtain ⟨k, v⟩ := e
    obtain ⟨hv, hk, ht⟩ := (Mem.wf_cons k v t).1 h
    simp only [Mem.erase]
    split
    · exact ht
    · split
      · exact h
      · exact (Mem.wf_cons _ _ _).2 ⟨hv, Mem.above_erase hk, ih ht⟩

theorem Mem.insert_wf {m : Mem} (a : Nat) {b : Byte} (hb : b ≠ Mem.unlisted) (h : m.wf = true) : (m.insert a b).wf = true := by
  induction m with
  | nil => simpa [Mem.insert, Mem.wf] using hb
  | cons e t ih =>
    obtain ⟨k, v⟩ := e
    obtain ⟨hv, hk, ht⟩ := (Mem.wf_cons k v t).1 h
    simp only [Mem.insert]
    split
    · rename_i e; subst e
      exact (Mem.wf_cons _ _ _).2 ⟨hb, hk, ht⟩
    · split
      · rename_i hlt
        refine (Mem.wf_cons _ _ _).2 ⟨hb, ?_, h⟩
        intro e he
        rcases List.mem_cons.1 he with rfl | he
        · exact hlt
        · exact lt_trans hlt (hk e he)
      · exact (Mem.wf_cons _ _ _).2 ⟨hv, Mem.above_insert hk (by omega), ih ht⟩

theorem Mem.write_wf {m : Mem} (a : Nat) (b : Byte) (h : m.wf = true) : (m.write a b).wf = true := by
  unfold Mem.write
  split
  · exact Mem.erase_wf a h
  · exact Mem.insert_wf a ‹_› h

theorem Mem.writeN_wf {m : Mem} (a : Nat) (bs : List Byte) (h : m.wf = true) : (m.writeN a bs).wf = true := by
  induction bs generalizing m a with
  | nil => exact h
  | cons b t ih => exact ih (a + 1) (Mem.write_wf a b h)

theorem Mem.filter_wf {m : Mem} (p : Host.Cell → Bool) (h : m.wf = true) : Mem.wf (m.filter p) = true := by
  induction m with
  | nil => rfl
  | cons e t ih =>
    obtain ⟨k, v⟩ := e
    obtain ⟨hv, hk, ht⟩ := (Mem.wf_cons k v t).1 h
    simp only [List.filter_cons]
    split
    · exact (Mem.wf_cons _ _ _).2 ⟨hv, fun e he => hk e (List.mem_of_mem_filter he), ih ht⟩
    · exact ih ht

theorem Mem.clear_wf {m : Mem} (lo hi : Nat) (h : m.wf = true) : (m.clear lo hi).wf = true := Mem.filter_wf _ h

/-! Reads after writes. -/

theorem Mem.read_below {a : Nat} {m : Mem} (h : Mem.above a m) : m.read a = Mem.unlisted := by
  cases m with
  | nil => rfl
  | cons e t =>
    obtain ⟨k, v⟩ := e
    have hk : a < k := h (k, v) (by simp)
    simp [Mem.read, hk, Nat.ne_of_lt hk]

theorem Mem.read_erase {m : Mem} (a b : Nat) (h : m.wf = true) :
    (m.erase a).read b = if b = a then Mem.unlisted else m.read b := by
  induction m with
  | nil => simp [Mem.erase, Mem.read]
  | cons e t ih =>
    obtain ⟨k, v⟩ := e
    obtain ⟨_, hk, ht⟩ := (Mem.wf_cons k v t).1 h
    simp only [Mem.erase]
    split
    · rename_i e; subst e
      by_cases hb : b = a
      · subst hb; simp [Mem.read_below hk]
      · simp only [hb, if_false, Mem.read]
        split
        · rename_i hlt
          exact Mem.read_below (fun e he => lt_trans hlt (hk e he))
        · rfl
    · split
      · rename_i hne hlt
        by_cases hb : b = a
        · subst hb; simp [Mem.read, hne, hlt]
        · simp [hb]
      · rename_i hne hlt
        simp only [Mem.read, ih ht]
        by_cases hb : b = a
        · subst hb; simp [hne, hlt]
        · simp [hb]

theorem Mem.read_insert {m : Mem} (a b : Nat) (w : Byte) :
    (m.insert a w).read b = if b = a then w else m.read b := by
  induction m with
  | nil =>
    simp only [Mem.insert, Mem.read]
    split
    · rfl
    · split <;> rfl
  | cons e t ih =>
    obtain ⟨k, v⟩ := e
    simp only [Mem.insert]
    split
    · rename_i e; subst e
      simp only [Mem.read]
      by_cases hb : b = a <;> simp [hb]
    · split
      · rename_i hne hlt
        by_cases hb : b = a
        · subst hb; simp [Mem.read]
        · simp only [Mem.read, hb, if_false]
          split
          · rename_i h1
            have : b ≠ k := by omega
            have : b < k := by omega
            simp [*]
          · rfl
      · rename_i hne hlt
        simp only [Mem.read, ih]
        by_cases hb : b = a
        · subst hb; simp [hne, hlt]
        · simp [hb]

/-- A read after a write of one byte. -/
theorem Mem.read_write {m : Mem} (a b : Nat) (w : Byte) (h : m.wf = true) :
    (m.write a w).read b = if b = a then w else m.read b := by
  unfold Mem.write
  split
  · rename_i e; subst e
    exact Mem.read_erase a b h
  · exact Mem.read_insert a b w

/-- A read after a write of a run of bytes. -/
theorem Mem.read_writeN {m : Mem} (a b : Nat) (bs : List Byte) (h : m.wf = true) :
    (m.writeN a bs).read b = if a ≤ b then bs[b - a]?.getD (m.read b) else m.read b := by
  induction bs generalizing m a with
  | nil => simp [Mem.writeN]
  | cons w t ih =>
    simp only [Mem.writeN]
    rw [ih (a + 1) (Mem.write_wf a w h), Mem.read_write a b w h]
    by_cases h1 : a + 1 ≤ b
    · have h2 : a ≤ b := by omega
      have h3 : b ≠ a := by omega
      have h4 : b - a = (b - (a + 1)) + 1 := by omega
      simp [h1, h2, h3, h4]
    · by_cases h2 : a ≤ b
      · have h3 : b = a := by omega
        subst h3; simp
      · have h3 : b ≠ a := by omega
        simp [h1, h2, h3]

/-- A run of bytes reads back as it was written. -/
theorem Mem.readN_writeN {m : Mem} (a : Nat) (bs : List Byte) (h : m.wf = true) : (m.writeN a bs).readN a bs.length = bs := by
  induction bs generalizing m a with
  | nil => rfl
  | cons w t ih =>
    have e : (m.writeN a (w :: t)).read a = w := by rw [Mem.read_writeN a a (w :: t) h]; simp
    simp only [List.length_cons, Mem.readN, e]
    exact congrArg (w :: ·) (ih (a + 1) (Mem.write_wf a w h))

/-- A run of bytes that a write does not meet reads as before. -/
theorem Mem.readN_apart {m : Mem} (a b n : Nat) (bs : List Byte) (h : m.wf = true) (o : a + bs.length ≤ b ∨ b + n ≤ a) :
    (m.writeN a bs).readN b n = m.readN b n := by
  induction n generalizing b with
  | zero => rfl
  | succ n ih =>
    have e : (m.writeN a bs).read b = m.read b := by
      rw [Mem.read_writeN a b bs h]
      split
      · have : bs.length ≤ b - a := by omega
        simp [List.getElem?_eq_none this]
      · rfl
    simp only [Mem.readN, e]
    exact congrArg (m.read b :: ·) (ih (b + 1) (by omega))

theorem Mem.read_clear_in {m : Mem} (lo hi a : Nat) (h : m.wf = true) (ha : lo ≤ a ∧ a < hi) :
    (m.clear lo hi).read a = Mem.unlisted := by
  induction m with
  | nil => rfl
  | cons e t ih =>
    obtain ⟨k, v⟩ := e
    obtain ⟨_, hk, ht⟩ := (Mem.wf_cons k v t).1 h
    simp only [Mem.clear, List.filter_cons]
    split
    · rename_i hc
      simp only [Mem.read]
      have : a ≠ k := by rintro rfl; simp at hc; omega
      simp only [this, if_false]
      split
      · rfl
      · exact ih ht
    · exact ih ht

end Sys2Proof.Machine
end

