-- ==== Sys2Proof/Laws/Rings.lean ====
section
/-! SUPPORT. Where a report goes: the shared operations that write records, completion entries and tails write host bytes of the
rings alone (`State.offRings` of Safety.lean), and what taking a command from a ring does besides the command's own effect. -/

namespace Sys2Proof.Machine

theorem bytesLE_length (n x : Nat) : (bytesLE n x).length = n := by
  induction n generalizing x with
  | zero => rfl
  | succ n ih => simp [bytesLE, ih]

theorem FRec.bytes_length (r : FRec) (q t : Nat) : (r.bytes q t).length = 64 := by
  unfold FRec.bytes
  generalize hb : (_ : List Byte) ++ bytesLE 4 q = b
  simp only [List.length_append, bytesLE_length]
  rw [← hb]
  simp only [List.length_append, bytesLE_length]

theorem cplEntry_length (tag op status code step alm seq : Nat) : (cplEntry tag op status code step alm seq).length = 32 := by
  simp [cplEntry, bytesLE_length]

/-! The bytes off the rings depend on registers that no report changes. -/

theorem reportReg_hst (c : Ctx) :
    (∀ o ∈ [8, 0x18, 0x1C, 0x20, 0x24, 0x28, 0x2C], reportReg (hstCtx c o) = false) ∧
      (∀ o ∈ [0x4C, 0x50, 0x54], reportReg (pgHST + o) = false) := by
  cases c <;> decide

theorem core_rings {s t : State} (h : t.core = s.core) (c : Ctx) :
    t.cplBase c = s.cplBase c ∧ t.almBase c = s.almBase c ∧ t.fltBase c = s.fltBase c ∧ t.evtBase = s.evtBase ∧
      (∀ lo, t.ringSize c lo = s.ringSize c lo) ∧ t.evtSize = s.evtSize := by
  obtain ⟨h1, h2⟩ := reportReg_hst c
  have r (o : Nat) (m : o ∈ [8, 0x18, 0x1C, 0x20, 0x24, 0x28, 0x2C]) : t.reg (hstCtx c o) = s.reg (hstCtx c o) :=
    core_reg h (h1 o m)
  have q (o : Nat) (m : o ∈ [0x4C, 0x50, 0x54]) : t.reg (pgHST + o) = s.reg (pgHST + o) := core_reg h (h2 o m)
  have a (o : Nat) : hstCtx c o + 4 = hstCtx c (o + 4) := rfl
  refine ⟨?_, ?_, ?_, ?_, ?_, ?_⟩
  · simp only [State.cplBase, State.hstBase, State.reg64, a, r 0x18 (by simp), r (0x18 + 4) (by simp)]
  · simp only [State.almBase, State.hstBase, State.reg64, a, r 0x20 (by simp), r (0x20 + 4) (by simp)]
  · simp only [State.fltBase, State.hstBase, State.reg64, a, r 0x28 (by simp), r (0x28 + 4) (by simp)]
  · have b : pgHST + 0x4C + 4 = pgHST + 0x50 := rfl
    simp only [State.evtBase, State.reg64, b, q 0x4C (by simp), q 0x50 (by simp)]
  · intro lo
    simp only [State.ringSize, State.regField, r 8 (by simp)]
  · simp only [State.evtSize, State.regField, q 0x54 (by simp)]

theorem core_offRings {s t : State} (h : t.core = s.core) (c : Ctx) (a : Nat) : t.offRings c a ↔ s.offRings c a := by
  obtain ⟨h1, h2, h3, h4, h5, h6⟩ := core_rings h c
  unfold State.offRings
  rw [h1, h2, h3, h4, h5, h5, h5, h6]

/-! Reports compose. `Rep` is `State.reports` with the canonical form kept. -/

/-- t differs from s in reports of context c alone, and the host memory keeps its form. -/
def Rep (c : Ctx) (s t : State) : Prop :=
  t.core = s.core ∧ (s.host.mem.wf = true → t.host.mem.wf = true ∧ ∀ a, s.offRings c a → t.host.mem.read a = s.host.mem.read a)

theorem Rep.refl (c : Ctx) (s : State) : Rep c s s := ⟨rfl, fun h => ⟨h, fun _ _ => rfl⟩⟩

theorem Rep.trans {c : Ctx} {s t u : State} (h : Rep c s t) (k : Rep c t u) : Rep c s u := by
  refine ⟨k.1.trans h.1, fun w => ?_⟩
  obtain ⟨w1, r1⟩ := h.2 w
  obtain ⟨w2, r2⟩ := k.2 w1
  exact ⟨w2, fun a ha => (r2 a ((core_offRings h.1 c a).2 ha)).trans (r1 a ha)⟩

theorem Rep.of_mem {c : Ctx} {s t : State} (h : t.core = s.core) (m : t.host.mem = s.host.mem) : Rep c s t :=
  ⟨h, fun w => ⟨m ▸ w, fun _ _ => by rw [m]⟩⟩

theorem Rep.reports {c : Ctx} {s t : State} (h : Rep c s t) : s.reports t c := ⟨h.1, fun w => (h.2 w).2⟩

theorem Rep.hostKept {c : Ctx} {s t : State} (h : Rep c s t) : s.hostKept t c := fun w => (h.2 w).2

/-- Bytes written to a place that lies on a ring. -/
theorem Rep.hostWrite (c : Ctx) (s : State) (a : Nat) (bs : List Byte)
    (h : ∀ b, a ≤ b → b < a + bs.length → ¬ s.offRings c b) : Rep c s (s.hostWrite a bs) := by
  refine ⟨s.hostWrite_core a bs, fun w => ⟨Mem.writeN_wf a bs w, fun b hb => ?_⟩⟩
  show Mem.read b (s.host.mem.writeN a bs) = _
  rw [Mem.read_writeN _ _ _ w]
  by_cases k : a ≤ b
  · rw [if_pos k, List.getElem?_eq_none]
    · rfl
    · by_contra l
      exact h b k (by omega) hb
  · rw [if_neg k]

theorem slot_in {t n k : Nat} (hn : 0 < n) : t % n * k + k ≤ k * n := by
  have h := Nat.mod_lt t hn
  calc t % n * k + k = (t % n + 1) * k := by ring
    _ ≤ n * k := Nat.mul_le_mul_right k h
    _ = k * n := Nat.mul_comm n k

theorem ringSize_pos (s : State) (c : Ctx) (lo : Nat) : 0 < s.ringSize c lo := Nat.two_pow_pos _
theorem evtSize_pos (s : State) : 0 < s.evtSize := Nat.two_pow_pos _

theorem Rep.tick (c : Ctx) (s : State) : Rep c s s.tick := .of_mem s.tick_core rfl
theorem Rep.tookRec (c : Ctx) (s : State) : Rep c s s.tookRec := .of_mem s.tookRec_core rfl
theorem Rep.setReg (c : Ctx) (s : State) {a : Nat} (h : reportReg a = true) (v : Nat) : Rep c s (s.setReg a v) :=
  .of_mem (core_of_reg s h v) rfl
theorem Rep.modCx (c d : Ctx) (s : State) (f : CtxSt → CtxSt) (h : ∀ x, (f x).core = x.core) : Rep c s (s.modCx d f) :=
  .of_mem (core_of_cx s d f h) rfl
theorem Rep.popHead (c d : Ctx) (s : State) : Rep c s (s.popHead d) := .of_mem (s.popHead_core d) rfl

theorem Rep.writeTails (c : Ctx) (s : State) : Rep c s (s.writeTails c) := by
  unfold State.writeTails
  apply Rep.hostWrite
  intro b h1 h2 h
  simp only [List.length_append, bytesLE_length, List.length_replicate] at h2
  exact h.1 ⟨h1, by omega⟩

@[simp] theorem State.msixSend_mem (s : State) (v : Nat) : (s.msixSend v).host.mem = s.host.mem := by
  unfold State.msixSend
  split <;> rfl

@[simp] theorem State.signal_mem (s : State) (v : Nat) : (s.signal v).host.mem = s.host.mem := by
  unfold State.signal
  split
  · rfl
  · dsimp only
    split
    · exact s.msixSend_mem v
    · exact s.msixSend_mem v

@[simp] theorem State.signal_cx (s : State) (v : Nat) : (s.signal v).cx = s.cx := by
  have h : (s.msixSend v).cx = s.cx := by unfold State.msixSend; split <;> rfl
  unfold State.signal
  split
  · rfl
  · dsimp only
    split
    · exact h
    · exact h

theorem Rep.signal (c : Ctx) (s : State) (v : Nat) : Rep c s (s.signal v) := .of_mem (s.signal_core v) (s.signal_mem v)

theorem State.cplPush_cx (s : State) (c : Ctx) (e : List Byte) :
    (s.cplPush c e).cx = modAt (fun x => { x with cplTail := idxNext x.cplTail }) c.num s.cx := by
  unfold State.cplPush
  dsimp only
  rw [State.signal_cx]
  rfl

theorem Rep.ctxRecord (c : Ctx) (s : State) (r : FRec) : Rep c s (s.ctxRecord c r) := by
  unfold State.ctxRecord
  dsimp only
  split
  · exact (Rep.tookRec c s).trans (Rep.setReg c _ (reportReg_fltOver c) _)
  · refine Rep.trans ?_ (Rep.signal c _ _)
    refine Rep.trans ?_ (Rep.writeTails c _)
    refine Rep.trans ?_ (Rep.modCx c c _ _ ?_)
    · refine (Rep.tookRec c s).trans ?_
      apply Rep.hostWrite
      intro b h1 h2 h
      have e : s.tookRec.ringSize c 12 = s.ringSize c 12 := rfl
      rw [State.nextRec, FRec.bytes_length] at h2
      have := slot_in (t := (s.cxt c).fltTail) (k := 64) (ringSize_pos s c 12)
      exact h.2.2.1 ⟨by omega, by rw [e]; omega⟩
    · exact fun _ => rfl

theorem Rep.evtPush (c : Ctx) (s : State) (bs : List Byte) (hl : bs.length ≤ 64) : Rep c s (s.evtPush bs) := by
  unfold State.evtPush
  dsimp only
  split
  · exact Rep.setReg c _ reportReg_evtOver _
  · refine (Rep.trans ?_ (Rep.signal c _ 0))
    refine Rep.trans (t := s.hostWrite (s.evtBase + 0x40 + s.host.evtTail % s.evtSize * 64) bs) ?_ ?_
    · apply Rep.hostWrite
      intro b h1 h2 h
      have := slot_in (t := s.host.evtTail) (k := 64) (evtSize_pos s)
      exact h.2.2.2 ⟨by omega, by omega⟩
    · refine Rep.trans (t := { s.hostWrite (s.evtBase + 0x40 + s.host.evtTail % s.evtSize * 64) bs with
          host.evtTail := idxNext s.host.evtTail }) ?_ ?_
      · exact .of_mem (core_of_host _ _ rfl) rfl
      · apply Rep.hostWrite
        intro b h1 h2 h
        simp only [List.length_append, bytesLE_length, List.length_replicate] at h2
        exact h.2.2.2 ⟨h1, Nat.lt_of_lt_of_le h2 (Nat.le_add_right _ _)⟩

theorem Rep.evtRecord (c : Ctx) (s : State) (r : FRec) : Rep c s (s.evtRecord r) := by
  unfold State.evtRecord
  dsimp only
  split
  · exact (Rep.tookRec c s).trans (Rep.evtPush c _ _ (by rw [State.nextRec, FRec.bytes_length]))
  · exact (Rep.tookRec c s).trans (.of_mem (core_of_host _ _ rfl) rfl)

/-- The held records, each of at most 64 bytes, go out. -/
theorem Rep.flushEarly (c : Ctx) (s : State) (hl : ∀ b ∈ s.host.early, b.length ≤ 64) : Rep c s s.flushEarly := by
  unfold State.flushEarly
  split
  · have h : ∀ (l : List (List Byte)) (t : State), (∀ b ∈ l, b.length ≤ 64) → Rep c t (l.foldl State.evtPush t) := by
      intro l
      induction l with
      | nil => intro t _; exact .refl c t
      | cons b l ih =>
        intro t hb
        exact (Rep.evtPush c t b (hb b (by simp))).trans (ih _ fun x hx => hb x (by simp [hx]))
    exact Rep.trans (t := { s with host.early := [] }) (.of_mem (core_of_host s _ rfl) rfl) (h _ _ hl)
  · exact .refl c s

theorem Rep.alert (c : Ctx) (s : State) (b : Nat) : Rep c s (s.alert b) := by
  unfold State.alert
  dsimp only
  split
  · exact .refl c s
  · exact (Rep.setReg c s reportReg_alert _).trans (Rep.signal c _ _)

theorem Rep.event (c : Ctx) (s : State) {p : Nat} (h : p % 0x1000 = 0) (r : FRec) : Rep c s (s.event p r) := by
  unfold State.event
  dsimp only
  split
  · exact ((Rep.setReg c s (reportReg_err h) _).trans (Rep.evtRecord c _ r)).trans (Rep.alert c _ _)
  · exact (Rep.setReg c s (reportReg_err h) _).trans (Rep.evtRecord c _ r)

theorem Rep.errBit (c : Ctx) (s : State) {p : Nat} (h : p % 0x1000 = 0) (b : Nat) : Rep c s (s.errBit p b) := by
  unfold State.errBit
  dsimp only
  split
  · exact .refl c s
  · split
    · exact (Rep.setReg c s (reportReg_err h) _).trans (Rep.evtRecord c _ _)
    · exact Rep.setReg c s (reportReg_err h) _

theorem Rep.countEvent (c : Ctx) (s : State) {p : Nat} (h : p % 0x1000 = 0) : Rep c s (s.countEvent p) :=
  Rep.setReg c s (reportReg_evt h) _

theorem Rep.cplPush (c : Ctx) (s : State) (e : List Byte) (hl : e.length ≤ 32) : Rep c s (s.cplPush c e) := by
  unfold State.cplPush
  dsimp only
  refine Rep.trans ?_ (Rep.signal c _ _)
  refine Rep.trans ?_ (Rep.writeTails c _)
  refine Rep.trans ?_ (Rep.modCx c c _ _ ?_)
  case refine_2 => exact fun _ => rfl
  apply Rep.hostWrite
  intro b h1 h2 h
  have := slot_in (t := (s.cxt c).cplTail) (k := 32) (ringSize_pos s c 4)
  exact h.1 ⟨by omega, by omega⟩

theorem Rep.almPush (c : Ctx) (s : State) (bs : List Byte) (hl : bs.length ≤ 128) : Rep c s (s.almPush c bs) := by
  unfold State.almPush
  dsimp only
  refine Rep.trans ?_ (Rep.signal c _ _)
  refine Rep.trans ?_ (Rep.writeTails c _)
  refine Rep.trans ?_ (Rep.modCx c c _ _ ?_)
  case refine_2 => exact fun _ => rfl
  apply Rep.hostWrite
  intro b h1 h2 h
  have := slot_in (t := (s.cxt c).almTail) (k := 128) (ringSize_pos s c 8)
  exact h.2.1 ⟨by omega, by omega⟩

theorem Rep.complete (c : Ctx) (s : State) (t : CmdTag) (status code alm seq : Nat) :
    Rep c s (s.complete c t status code alm seq) := by
  unfold State.complete
  dsimp only
  split
  · exact Rep.modCx c c _ _ fun _ => rfl
  · exact Rep.cplPush c s _ (by rw [cplEntry_length])

theorem Rep.done (c : Ctx) (s : State) (t : CmdTag) : Rep c s (s.done c t) := Rep.complete c s t 0 0 noAlm 0

theorem Rep.refuse (c : Ctx) (s : State) (t : CmdTag) (r : FRec) : Rep c s (s.refuse c t r) := by
  unfold State.refuse
  exact (Rep.ctxRecord c s _).trans (Rep.complete c _ t _ _ _ _)

theorem Rep.refuseCode (c : Ctx) (s : State) (t : CmdTag) (code : Nat) : Rep c s (s.refuseCode c t code) := Rep.refuse c s t _

theorem Rep.skipBad (c : Ctx) (n : Nat) (s : State) : Rep c s (State.skipBad c n s) := by
  induction n generalizing s with
  | zero => exact .refl c s
  | succ n ih =>
    simp only [State.skipBad]
    split
    · split
      · exact .refl c s
      · split
        · exact .refl c s
        · exact ((Rep.popHead c c s).trans (Rep.refuse c _ _ _)).trans (ih _)
    · exact .refl c s

/-- The waiting entries, each of at most 32 bytes, take their slots. -/
theorem Rep.flushCpl (c : Ctx) (n : Nat) (s : State) (hl : ∀ e ∈ (s.cxt c).cplWait, e.length ≤ 32) (hx : c.num < s.cx.length) :
    Rep c s (State.flushCpl c n s) := by
  induction n generalizing s with
  | zero => exact .refl c s
  | succ n ih =>
    simp only [State.flushCpl]
    split
    · exact .refl c s
    · rename_i e rest he
      split
      · exact .refl c s
      · refine ((Rep.modCx c c s (fun x => { x with cplWait := rest }) fun _ => rfl).trans
          (Rep.cplPush c _ e (hl e (by simp [he])))).trans (ih _ ?_ ?_)
        · have h1 : ((s.modCx c fun x => { x with cplWait := rest }).cplPush c e).cxt c =
              { (s.cxt c) with cplWait := rest, cplTail := idxNext (s.cxt c).cplTail } := by
            unfold State.cxt
            rw [State.cplPush_cx]
            show nth _ _ (modAt _ _ (modAt _ _ s.cx)) = _
            rw [modAt_modAt, nth_modAt_self _ _ _ _ hx]
          rw [h1]
          exact fun x hx => hl x (by simp [he, hx])
        · rw [State.cplPush_cx]
          show c.num < (modAt _ _ (modAt _ _ s.cx)).length
          rw [modAt_modAt, length_modAt]
          exact hx

/-- A report after a change that leaves host memory and the rings' registers. -/
theorem Rep.hostKept_of {c : Ctx} {s u t : State} (h : Rep c u t) (m : u.host.mem = s.host.mem) (r : u.regs = s.regs) :
    s.hostKept t c := by
  intro w a ha
  have o : u.offRings c a := by
    unfold State.offRings State.cplBase State.almBase State.fltBase State.hstBase State.evtBase State.evtSize State.ringSize
      State.regField State.reg64 State.reg at ha ⊢
    rwa [r]
  rw [← m] at w
  rw [(h.2 w).2 a o, m]

theorem State.popHead_state (s : State) (c d : Ctx) : ((s.popHead c).cxt d).core = (s.cxt d).core :=
  core_cxt (s.popHead_core c) d

/-! Taking a command. -/

theorem skipBad_head {s : State} {c : Ctx} {e : List Byte} (n : Nat) (he : s.headEntry c = some e)
    (ho : listedOps.contains (entryOp e) = true) : State.skipBad c n s = s := by
  cases n with
  | zero => rfl
  | succ n =>
    simp only [State.skipBad, he, ho, if_true]
    split <;> rfl

/-- A command at the head that the device takes: its effect on the state with the head advanced, and reports (R445). -/
theorem takeIf_next {s : State} {c : Ctx} {op : Nat} {ok : State → Bool} {f : State → CmdTag → List Byte → State} {e : List Byte}
    (h : s.atHead c op e) (ho : listedOps.contains op = true) (hk : ok s = true) :
    Rep c (f (s.popHead c) ⟨bField e 4 4, op⟩ (entryPayload e)) (s.takeIf c op ok f) := by
  obtain ⟨h1, h2, h3, h4⟩ := h
  subst h3
  have e1 := skipBad_head ringMax h1 ho
  unfold State.takeIf
  rw [e1]
  simp only [h1, h2, hk, h4, decide_true, Bool.and_true, if_true]
  exact Rep.skipBad c _ _

/-- The same, in terms of the state before the head advances. -/
theorem takeIf_effect {s : State} {c : Ctx} {op : Nat} {ok : State → Bool} {f : State → CmdTag → List Byte → State} {e : List Byte}
    {u : State} (h : s.atHead c op e) (ho : listedOps.contains op = true) (hk : ok s = true)
    (hf : Rep c u (f (s.popHead c) ⟨bField e 4 4, op⟩ (entryPayload e))) : Rep c u (s.takeIf c op ok f) :=
  hf.trans (takeIf_next h ho hk)

end Sys2Proof.Machine
end

