-- ==== Sys2Proof/Laws/Bytes.lean ====
section
/-! SUPPORT. Byte strings as numbers: what a field reads (R5), and the length of a digest. -/

namespace Sys2Proof.Machine

/-- A number written as n bytes reads back modulo 256 ^ n. -/
theorem ofBytesLE_bytesLE (n x : Nat) : ofBytesLE (bytesLE n x) = x % 256 ^ n := by
  induction n generalizing x with
  | zero => simp [bytesLE, ofBytesLE, Nat.mod_one]
  | succ n ih =>
    have e : (BitVec.ofNat 8 x).toNat = x % 256 := rfl
    rw [bytesLE, ofBytesLE, ih, e, Nat.pow_succ', Nat.mod_mul]

/-- Bytes behind the first k of a number. -/
theorem bytesLE_drop (n k x : Nat) : (bytesLE n x).drop k = bytesLE (n - k) (x / 256 ^ k) := by
  induction k generalizing n x with
  | zero => simp
  | succ k ih =>
    cases n with
    | zero => simp [bytesLE]
    | succ n => simp only [bytesLE, List.drop_succ_cons, ih]; rw [Nat.add_sub_add_right, Nat.div_div_eq_div_mul, Nat.pow_succ']

/-- The first k bytes of a number. -/
theorem bytesLE_take (n k x : Nat) : (bytesLE n x).take k = bytesLE (min k n) x := by
  induction n generalizing k x with
  | zero => simp [bytesLE]
  | succ n ih =>
    cases k with
    | zero => simp [bytesLE]
    | succ k => simp only [bytesLE, List.take_succ_cons, ih, Nat.add_min_add_right]

/-- A field of a record that a number spells. -/
theorem bField_bytesLE (n x o k : Nat) (h : x < 256 ^ n) : bField (bytesLE n x) o k = x / 256 ^ o % 256 ^ k := by
  rw [bField, bytesLE_drop, bytesLE_take, ofBytesLE_bytesLE]
  by_cases hk : k ≤ n - o
  · rw [Nat.min_eq_left hk]
  · rw [Nat.min_eq_right (by omega)]
    have h1 : x / 256 ^ o < 256 ^ (n - o) := by
      by_cases ho : o ≤ n
      · rw [Nat.div_lt_iff_lt_mul (by positivity), ← Nat.pow_add]
        rwa [Nat.sub_add_cancel ho]
      · rw [Nat.div_eq_of_lt (lt_of_lt_of_le h (Nat.pow_le_pow_right (by norm_num) (by omega)))]
        positivity
    rw [Nat.mod_eq_of_lt h1, Nat.mod_eq_of_lt (lt_of_lt_of_le h1 (Nat.pow_le_pow_right (by norm_num) (by omega)))]

/-- Bytes are all 0 where the number that they spell is 0. -/
theorem zeros_eq (l : List Byte) : zeros l = decide (ofBytesLE l = 0) := by
  induction l with
  | nil => rfl
  | cons b t ih =>
    simp only [zeros, List.all_cons, ofBytesLE] at *
    rw [ih]
    by_cases hb : b = 0#8
    · subst hb; simp
    · have : b.toNat ≠ 0 := fun h => hb (BitVec.eq_of_toNat_eq h)
      simp [hb, this]

/-- A field that lies in the first of two byte strings. -/
theorem bField_left (a d : List Byte) (o k : Nat) (h : o + k ≤ a.length) : bField (a ++ d) o k = bField a o k := by
  unfold bField
  rw [List.drop_append_of_le_length (by omega), List.take_append_of_le_length (by rw [List.length_drop]; omega)]

/-! Lengths of digests. -/

theorem modAt_length {α : Type} (f : α → α) (i : Nat) (l : List α) : (modAt f i l).length = l.length := by
  induction l generalizing i with
  | nil => cases i <;> rfl
  | cons a t ih => cases i <;> simp [modAt, ih]
theorem keccakF_length (a : List Nat) : (keccakF a).length = 25 := by
  unfold keccakF
  suffices h : ∀ (k : List Nat) (a : List Nat), k ≠ [] ∨ a.length = 25 → (k.foldl keccakRound a).length = 25 from h _ _ (.inl (by decide))
  intro k
  induction k with
  | nil => intro a h; exact h.resolve_left (by simp)
  | cons r k ih => intro a _; exact ih _ (.inr (by unfold keccakRound; simp [modAt_length]))
theorem sha3_length (b : List Byte) : (sha3 b).length = 32 := by
  unfold sha3
  suffices h : ∀ (k : List (List Byte)) (a : List Nat), a.length = 25 → (k.foldl absorb a).length = 25 by
    have e : ∀ l : List Nat, (l.flatMap (bytesLE 8)).length = 8 * l.length := by
      intro l
      induction l with
      | nil => rfl
      | cons x l ih => simp only [List.flatMap_cons, List.length_append, ih, bytesLE_length, List.length_cons]; omega
    rw [e, List.length_take, h _ _ (by decide)]; rfl
  intro k
  induction k with
  | nil => intro a h; exact h
  | cons b k ih => intro a _; exact ih _ (keccakF_length _)

end Sys2Proof.Machine
end

