-- ==== Sys2Proof/Laws/Kept.lean ====
section
/-! SUPPORT. What every operation of the model keeps: the canonical form of the memories, the committed state of the contexts and
the Logbook's contents, as one predicate over the parts of a state that hold them, with its rules for record updates, lists
and optional states. -/

namespace Sys2Proof.Machine

/-- Every tile store keeps its canonical form. -/
def TilesOk (l : Tbl TileSt) : Prop := ∀ e ∈ l, e.2.ok

/-- The parts: stack, Reserve and host memory canonical; `F` of the Logbook's flash; the tile stores canonical; `K` of the
committed states of the contexts. -/
def KeptM (K : List (Option Committed) → Prop) (F : Mem → Prop) (stk rsv host flash : Mem) (tiles : Tbl TileSt)
    (ks : List (Option Committed)) : Prop :=
  stk.wf = true ∧ rsv.wf = true ∧ host.wf = true ∧ F flash ∧ TilesOk tiles ∧ K ks

/-- The parts of a state. -/
def Kept (K : List (Option Committed) → Prop) (F : Mem → Prop) (s : State) : Prop :=
  KeptM K F s.stk.mem s.rsv.mem s.host.mem s.log.flash s.tiles (s.cx.map CtxSt.committed)

variable {K : List (Option Committed) → Prop} {F : Mem → Prop} {a b c d : Mem} {l : Tbl TileSt} {n : List (Option Committed)}

theorem TilesOk.nil : TilesOk [] := by intro e he; cases he

theorem TilesOk.get (h : TilesOk l) (k : Nat) : (Tbl.get TileSt.reset k l).ok := by
  induction l with
  | nil => exact ⟨rfl, rfl⟩
  | cons e t ih =>
    obtain ⟨k', v⟩ := e
    simp only [Tbl.get]
    split
    · exact h (k', v) (by simp)
    · exact ih (fun e he => h e (by simp [he]))

theorem TilesOk.set (h : TilesOk l) (k : Nat) {t : TileSt} (w : t.ok) : TilesOk (Tbl.set k t l) := by
  induction l with
  | nil => intro e he; simp [Tbl.set] at he; subst he; exact w
  | cons e u ih =>
    obtain ⟨k', v⟩ := e
    have hu : TilesOk u := fun e he => h e (by simp [he])
    simp only [Tbl.set]
    split
    · intro e he
      rcases List.mem_cons.1 he with rfl | he
      · exact w
      · exact hu e he
    · split
      · intro e he
        rcases List.mem_cons.1 he with rfl | he
        · exact w
        · exact h e he
      · intro e he
        rcases List.mem_cons.1 he with rfl | he
        · exact h _ (by simp)
        · exact ih hu e he

theorem TilesOk.map (h : TilesOk l) {f : Nat × TileSt → Nat × TileSt} (w : ∀ e : Nat × TileSt, e.2.ok → (f e).2.ok) :
    TilesOk (l.map f) := by
  intro e he
  obtain ⟨u, hu, rfl⟩ := List.mem_map.1 he
  exact w u (h u hu)

theorem KeptM.stkN (x : Nat) (y : List Byte) (h : KeptM K F a b c d l n) : KeptM K F (a.writeN x y) b c d l n :=
  ⟨Mem.writeN_wf _ _ h.1, h.2⟩
theorem KeptM.stk1 (x : Nat) (y : Byte) (h : KeptM K F a b c d l n) : KeptM K F (a.write x y) b c d l n :=
  ⟨Mem.write_wf _ _ h.1, h.2⟩
theorem KeptM.stk0 (h : KeptM K F a b c d l n) : KeptM K F [] b c d l n := ⟨rfl, h.2⟩
theorem KeptM.rsvN (x : Nat) (y : List Byte) (h : KeptM K F a b c d l n) : KeptM K F a (b.writeN x y) c d l n :=
  ⟨h.1, Mem.writeN_wf _ _ h.2.1, h.2.2⟩
theorem KeptM.rsvClear (x y : Nat) (h : KeptM K F a b c d l n) : KeptM K F a (b.clear x y) c d l n :=
  ⟨h.1, Mem.clear_wf _ _ h.2.1, h.2.2⟩
theorem KeptM.rsv0 (h : KeptM K F a b c d l n) : KeptM K F a [] c d l n := ⟨h.1, rfl, h.2.2⟩
theorem KeptM.hostN (x : Nat) (y : List Byte) (h : KeptM K F a b c d l n) : KeptM K F a b (c.writeN x y) d l n :=
  ⟨h.1, h.2.1, Mem.writeN_wf _ _ h.2.2.1, h.2.2.2⟩
theorem KeptM.flash {d' : Mem} (w : d.wf = true → d'.wf = true) (h : KeptM K (fun m => m.wf = true) a b c d l n) :
    KeptM K (fun m => m.wf = true) a b c d' l n :=
  ⟨h.1, h.2.1, h.2.2.1, w h.2.2.2.1, h.2.2.2.2⟩
theorem KeptM.tiles {l' : Tbl TileSt} (w : TilesOk l → TilesOk l') (h : KeptM K F a b c d l n) : KeptM K F a b c d l' n :=
  ⟨h.1, h.2.1, h.2.2.1, h.2.2.2.1, w h.2.2.2.2.1, h.2.2.2.2.2⟩
theorem KeptM.ks {n' : List (Option Committed)} (w : K n → K n') (h : KeptM K F a b c d l n) : KeptM K F a b c d l n' :=
  ⟨h.1, h.2.1, h.2.2.1, h.2.2.2.1, h.2.2.2.2.1, w h.2.2.2.2.2⟩
theorem KeptM.tilesMap {f : Nat × TileSt → Nat × TileSt} (w : ∀ e : Nat × TileSt, e.2.ok → (f e).2.ok)
    (h : KeptM K F a b c d l n) : KeptM K F a b c d (l.map f) n := h.tiles fun t => t.map w
theorem KeptM.tilesSet (k : Nat) (t : TileSt) (w : TilesOk l → t.ok) (h : KeptM K F a b c d l n) :
    KeptM K F a b c d (Tbl.set k t l) n := h.tiles fun u => u.set k (w u)
theorem KeptM.tiles0 (h : KeptM K F a b c d l n) : KeptM K F a b c d [] n := h.tiles fun _ => TilesOk.nil

/-- The parts are those of a state. -/
theorem KeptM.back {s : State} (h : Kept K F s) :
    KeptM K F s.stk.mem s.rsv.mem s.host.mem s.log.flash s.tiles (s.cx.map CtxSt.committed) := h

theorem KeptM.same {n' : List (Option Committed)} (w : n' = n) (h : KeptM K F a b c d l n) : KeptM K F a b c d l n' := w ▸ h

/-- The state named by a pair that a function answered. -/
theorem kept_of_pair {α : Type} {p : State × α} {s : State} {x : α} (e : p = (s, x)) (h : Kept K F p.1) : Kept K F s := by
  rw [e] at h; exact h

theorem kept_ite (p : Prop) [Decidable p] {s t : State} (hs : Kept K F s) (ht : Kept K F t) : Kept K F (if p then s else t) := by
  split
  · exact hs
  · exact ht

theorem kept_foldl {α : Type} {f : State → α → State} (w : ∀ s x, Kept K F s → Kept K F (f s x)) (xs : List α) {s : State}
    (h : Kept K F s) : Kept K F (xs.foldl f s) := by
  induction xs generalizing s with
  | nil => exact h
  | cons x t ih => exact ih (w s x h)

theorem kept_foldl_fst {α β : Type} {f : State × β → α → State × β} (w : ∀ p x, Kept K F p.1 → Kept K F (f p x).1) (xs : List α)
    {p : State × β} (h : Kept K F p.1) : Kept K F (xs.foldl f p).1 := by
  induction xs generalizing p with
  | nil => exact h
  | cons x t ih => exact ih (w p x h)

theorem map_committed_modAt {f : CtxSt → CtxSt} (w : ∀ x, (f x).committed = x.committed) (i : Nat) (l : List CtxSt) :
    (modAt f i l).map CtxSt.committed = l.map CtxSt.committed := by
  induction l generalizing i with
  | nil => cases i <;> rfl
  | cons x t ih =>
    cases i with
    | zero => simp [modAt, w]
    | succ i => simp [modAt, ih]

/-- A change of a context that leaves its committed state. -/
theorem State.modCx_kept {f : CtxSt → CtxSt} (w : ∀ x, (f x).committed = x.committed) (c : Ctx) {s : State} (h : Kept K F s) :
    Kept K F (s.modCx c f) := KeptM.same (map_committed_modAt w c.num s.cx) h

/-- A change of a context that sets its committed state, where only their number counts. -/
theorem State.modCx_number {f : CtxSt → CtxSt} {m : Nat} (c : Ctx) {s : State} (h : Kept (fun k => k.length = m) F s) :
    Kept (fun k => k.length = m) F (s.modCx c f) :=
  KeptM.ks (n := s.cx.map CtxSt.committed) (by simp only [List.length_map]; intro e; rw [← e]; exact length_modAt _ _ _) h

/-- A change of a tile that leaves its store. -/
theorem State.modTile_kept {f : TileSt → TileSt} (w : ∀ t : TileSt, t.ok → (f t).ok) (k : Nat) {s : State}
    (h : Kept K F s) : Kept K F (s.modTile k f) := KeptM.tilesSet k _ (fun t => w _ (t.get k)) h

end Sys2Proof.Machine
end

