-- ==== Sys2Proof/Laws/KeptBase.lean ====
section
/-! SUPPORT. What the operations of the registers, the named operations, register accesses, check units, the Logbook and the command ring keep (Laws/Kept.lean): one lemma per function, named after it. -/

namespace Sys2Proof.Machine

variable {K : List (Option Committed) → Prop} {F : Mem → Prop}

/-! Machine/Regs.lean. -/

theorem State.setReg_kept (a : Nat) (v : Nat) {s : State} (h : Kept K F s) : Kept K F (State.setReg s a v) := by
  unfold State.setReg
  repeat' (first
    | with_reducible assumption
    | with_reducible apply kept_foldl
    | intro _
    | with_reducible apply kept_ite
    | dsimp only
    | split
    | with_reducible apply KeptM.back
    | (show KeptM _ _ _ _ _ _ _ _; dsimp only))

theorem State.incReg_kept (a : Nat) (n : Nat) {s : State} (h : Kept K F s) : Kept K F (State.incReg s a n) := by
  unfold State.incReg
  repeat' (first
    | with_reducible assumption
    | with_reducible apply State.setReg_kept)

theorem State.countEvent_kept (page : Nat) {s : State} (h : Kept K F s) : Kept K F (State.countEvent s page) := by
  unfold State.countEvent
  repeat' (first
    | with_reducible assumption
    | with_reducible apply State.incReg_kept)

theorem State.setReg64_kept (a : Nat) (v : Nat) {s : State} (h : Kept K F s) : Kept K F (State.setReg64 s a v) := by
  unfold State.setReg64
  repeat' (first
    | with_reducible assumption
    | with_reducible apply State.setReg_kept)

theorem State.incReg64_kept (a : Nat) (n : Nat) {s : State} (h : Kept K F s) : Kept K F (State.incReg64 s a n) := by
  unfold State.incReg64
  repeat' (first
    | with_reducible assumption
    | with_reducible apply State.setReg64_kept)

theorem State.setRegField_kept (a : Nat) (lo : Nat) (y3 : Nat) (v : Nat) {s : State} (h : Kept K F s) : Kept K F (State.setRegField s a lo y3 v) := by
  unfold State.setRegField
  repeat' (first
    | with_reducible assumption
    | with_reducible apply State.setReg_kept)

theorem State.inc48_kept (a : Nat) {s : State} (h : Kept K F s) : Kept K F (State.inc48 s a) := by
  unfold State.inc48
  repeat' (first
    | with_reducible assumption
    | with_reducible apply State.setReg64_kept)

/-! Machine/Ops.lean. -/

theorem State.modTctx_kept (k : Nat) (c : Ctx) (f : TileCtx → TileCtx) {s : State} (h : Kept K F s) : Kept K F (State.modTctx s k c f) := by
  unfold State.modTctx
  repeat' (first
    | with_reducible assumption
    | (with_reducible apply State.modTile_kept (by intro _ w; exact ⟨w.1, (length_modAt _ _ _).trans w.2⟩)))

theorem State.stkClean_kept (units : List Nat) {s : State} (h : Kept K F s) : Kept K F (State.stkClean s units) := by
  unfold State.stkClean
  repeat' (first
    | with_reducible assumption
    | with_reducible apply kept_foldl
    | intro _
    | with_reducible apply kept_ite
    | dsimp only
    | split
    | with_reducible apply KeptM.back
    | (show KeptM _ _ _ _ _ _ _ _; dsimp only))

theorem State.spClean_kept (p : Space) (units : List Nat) {s : State} (h : Kept K F s) : Kept K F (State.spClean s p units) := by
  unfold State.spClean
  repeat' (first
    | with_reducible assumption
    | with_reducible apply State.stkClean_kept
    | (with_reducible apply State.modTile_kept (by intro _ w; exact w))
    | with_reducible apply kept_foldl
    | intro _
    | with_reducible apply kept_ite
    | dsimp only
    | split
    | with_reducible apply KeptM.back
    | (show KeptM _ _ _ _ _ _ _ _; dsimp only))

theorem State.tick_kept {s : State} (h : Kept K F s) : Kept K F (State.tick s) := by
  unfold State.tick
  repeat' (first
    | with_reducible assumption
    | with_reducible apply kept_foldl
    | intro _
    | with_reducible apply kept_ite
    | dsimp only
    | split
    | with_reducible apply KeptM.back
    | (show KeptM _ _ _ _ _ _ _ _; dsimp only))

theorem State.cacheTouch_kept (a : Nat) (write : Bool) {s : State} (h : Kept K F s) : Kept K F (State.cacheTouch s a write) := by
  unfold State.cacheTouch
  repeat' (first
    | with_reducible assumption
    | with_reducible apply State.incReg64_kept
    | with_reducible apply State.tick_kept
    | with_reducible apply kept_foldl
    | intro _
    | with_reducible apply kept_ite
    | dsimp only
    | split
    | with_reducible apply KeptM.back
    | (show KeptM _ _ _ _ _ _ _ _; dsimp only))

theorem State.cacheRange_kept (a : Nat) (n : Nat) (write : Bool) {s : State} (h : Kept K F s) : Kept K F (State.cacheRange s a n write) := by
  unfold State.cacheRange
  repeat' (first
    | with_reducible assumption
    | with_reducible apply State.cacheTouch_kept
    | with_reducible apply kept_foldl
    | intro _
    | with_reducible apply kept_ite)

theorem State.stkPut_kept (a : Nat) (b : Byte) {s : State} (h : Kept K F s) : Kept K F (State.stkPut s a b) := by
  unfold State.stkPut
  repeat' (first
    | with_reducible assumption
    | with_reducible apply kept_foldl
    | intro _
    | with_reducible apply kept_ite
    | dsimp only
    | split
    | with_reducible apply KeptM.back
    | (show KeptM _ _ _ _ _ _ _ _; dsimp only)
    | with_reducible apply KeptM.stkN
    | with_reducible apply KeptM.stk1)

theorem State.stkPuts_kept (a : Nat) (y2 : List Byte) {s : State} (h : Kept K F s) : Kept K F (State.stkPuts s a y2) := by
  induction y2 generalizing a s with
  | nil => exact h
  | cons b t ih => exact ih (a + 1) (State.stkPut_kept a b h)

theorem State.spPut_kept (p : Space) (a : Nat) (bs : List Byte) {s : State} (h : Kept K F s) : Kept K F (State.spPut s p a bs) := by
  unfold State.spPut
  repeat' (first
    | with_reducible assumption
    | with_reducible apply State.cacheRange_kept
    | with_reducible apply State.stkPuts_kept
    | with_reducible apply kept_foldl
    | intro _
    | with_reducible apply kept_ite
    | dsimp only
    | split
    | (with_reducible apply State.modTile_kept (by intro _ w; exact ⟨Mem.writeN_wf _ _ w.1, w.2⟩))
    | with_reducible apply KeptM.back
    | (show KeptM _ _ _ _ _ _ _ _; dsimp only)
    | with_reducible apply KeptM.stkN
    | with_reducible apply KeptM.stk1
    | with_reducible apply KeptM.rsvN
    | with_reducible apply KeptM.rsvClear
    | with_reducible apply KeptM.hostN)

theorem State.emit_kept (o : Out) {s : State} (h : Kept K F s) : Kept K F (State.emit s o) := by
  unfold State.emit
  repeat' (first
    | with_reducible assumption
    | with_reducible apply kept_foldl
    | intro _
    | with_reducible apply kept_ite
    | dsimp only
    | split
    | with_reducible apply KeptM.back
    | (show KeptM _ _ _ _ _ _ _ _; dsimp only))

theorem State.msixSend_kept (v : Nat) {s : State} (h : Kept K F s) : Kept K F (State.msixSend s v) := by
  unfold State.msixSend
  repeat' (first
    | with_reducible assumption
    | with_reducible apply State.emit_kept
    | with_reducible apply kept_foldl
    | intro _
    | with_reducible apply kept_ite
    | dsimp only
    | split
    | with_reducible apply KeptM.back
    | (show KeptM _ _ _ _ _ _ _ _; dsimp only))

theorem State.signal_kept (v : Nat) {s : State} (h : Kept K F s) : Kept K F (State.signal s v) := by
  unfold State.signal
  repeat' (first
    | with_reducible assumption
    | with_reducible apply State.msixSend_kept
    | with_reducible apply kept_foldl
    | intro _
    | with_reducible apply kept_ite
    | dsimp only
    | split
    | with_reducible apply KeptM.back
    | (show KeptM _ _ _ _ _ _ _ _; dsimp only))

theorem State.alert_kept (b : Nat) {s : State} (h : Kept K F s) : Kept K F (State.alert s b) := by
  unfold State.alert
  repeat' (first
    | with_reducible assumption
    | with_reducible apply State.setReg_kept
    | with_reducible apply State.signal_kept
    | with_reducible apply kept_foldl
    | intro _
    | with_reducible apply kept_ite)

theorem State.tookRec_kept {s : State} (h : Kept K F s) : Kept K F (State.tookRec s) := by
  unfold State.tookRec
  repeat' (first
    | with_reducible assumption
    | with_reducible apply kept_foldl
    | intro _
    | with_reducible apply kept_ite
    | dsimp only
    | split
    | with_reducible apply KeptM.back
    | (show KeptM _ _ _ _ _ _ _ _; dsimp only))

theorem State.hostWrite_kept (a : Nat) (bs : List Byte) {s : State} (h : Kept K F s) : Kept K F (State.hostWrite s a bs) := by
  unfold State.hostWrite
  repeat' (first
    | with_reducible assumption
    | with_reducible apply kept_foldl
    | intro _
    | with_reducible apply kept_ite
    | dsimp only
    | split
    | with_reducible apply KeptM.back
    | (show KeptM _ _ _ _ _ _ _ _; dsimp only)
    | with_reducible apply KeptM.stkN
    | with_reducible apply KeptM.stk1
    | with_reducible apply KeptM.rsvN
    | with_reducible apply KeptM.rsvClear
    | with_reducible apply KeptM.hostN)

theorem State.evtPush_kept (bs : List Byte) {s : State} (h : Kept K F s) : Kept K F (State.evtPush s bs) := by
  unfold State.evtPush
  repeat' (first
    | with_reducible assumption
    | with_reducible apply State.incReg_kept
    | with_reducible apply State.hostWrite_kept
    | with_reducible apply State.signal_kept
    | with_reducible apply kept_foldl
    | intro _
    | with_reducible apply kept_ite
    | dsimp only
    | split
    | with_reducible apply KeptM.back
    | (show KeptM _ _ _ _ _ _ _ _; dsimp only))

theorem State.evtRecord_kept (r : FRec) {s : State} (h : Kept K F s) : Kept K F (State.evtRecord s r) := by
  unfold State.evtRecord
  repeat' (first
    | with_reducible assumption
    | with_reducible apply State.tookRec_kept
    | with_reducible apply State.evtPush_kept
    | with_reducible apply kept_foldl
    | intro _
    | with_reducible apply kept_ite
    | dsimp only
    | split
    | with_reducible apply KeptM.back
    | (show KeptM _ _ _ _ _ _ _ _; dsimp only))

theorem State.event_kept (page : Nat) (r : FRec) {s : State} (h : Kept K F s) : Kept K F (State.event s page r) := by
  unfold State.event
  repeat' (first
    | with_reducible assumption
    | with_reducible apply State.setReg_kept
    | with_reducible apply State.alert_kept
    | with_reducible apply State.evtRecord_kept
    | with_reducible apply kept_foldl
    | intro _
    | with_reducible apply kept_ite
    | dsimp only
    | split)

theorem State.errBit_kept (page : Nat) (b : Nat) {s : State} (h : Kept K F s) : Kept K F (State.errBit s page b) := by
  unfold State.errBit
  repeat' (first
    | with_reducible assumption
    | with_reducible apply State.setReg_kept
    | with_reducible apply State.evtRecord_kept
    | with_reducible apply kept_foldl
    | intro _
    | with_reducible apply kept_ite)

theorem State.catPut_kept (a : Nat) (b : Byte) {s : State} (h : Kept K F s) : Kept K F (State.catPut s a b) := by
  unfold State.catPut
  repeat' (first
    | with_reducible assumption
    | with_reducible apply kept_foldl
    | intro _
    | with_reducible apply kept_ite
    | dsimp only
    | split
    | with_reducible apply KeptM.back
    | (show KeptM _ _ _ _ _ _ _ _; dsimp only))

theorem State.catPuts_kept (a : Nat) (y2 : List Byte) {s : State} (h : Kept K F s) : Kept K F (State.catPuts s a y2) := by
  induction y2 generalizing a s with
  | nil => exact h
  | cons b t ih =>
    unfold State.catPuts
    with_reducible apply ih
    split
    · with_reducible apply State.catPut_kept; assumption
    · assumption

theorem State.stkWrite_kept (a : Nat) (bs : List Byte) {s : State} (h : Kept K F s) : Kept K F (State.stkWrite s a bs) := by
  unfold State.stkWrite
  repeat' (first
    | with_reducible assumption
    | with_reducible apply State.catPuts_kept
    | with_reducible apply State.stkPuts_kept
    | with_reducible apply State.stkClean_kept)

theorem State.stkPoison_kept (units : List Nat) {s : State} (h : Kept K F s) : Kept K F (State.stkPoison s units) := by
  unfold State.stkPoison
  repeat' (first
    | with_reducible assumption
    | with_reducible apply kept_foldl
    | intro _
    | with_reducible apply kept_ite
    | dsimp only
    | split
    | with_reducible apply KeptM.back
    | (show KeptM _ _ _ _ _ _ _ _; dsimp only))

theorem State.writeTails_kept (c : Ctx) {s : State} (h : Kept K F s) : Kept K F (State.writeTails s c) := by
  unfold State.writeTails
  repeat' (first
    | with_reducible assumption
    | with_reducible apply State.hostWrite_kept)

theorem State.cplPush_kept (c : Ctx) (y2 : List Byte) {s : State} (h : Kept K F s) : Kept K F (State.cplPush s c y2) := by
  unfold State.cplPush
  repeat' (first
    | with_reducible assumption
    | with_reducible apply State.hostWrite_kept
    | (with_reducible apply State.modCx_kept (by intro _; rfl))
    | with_reducible apply State.writeTails_kept
    | with_reducible apply State.signal_kept)

theorem State.complete_kept (c : Ctx) (y2 : CmdTag) (status : Nat) (code : Nat) (alm : Nat) (seq : Nat) {s : State} (h : Kept K F s) : Kept K F (State.complete s c y2 status code alm seq) := by
  unfold State.complete
  repeat' (first
    | with_reducible assumption
    | with_reducible apply State.cplPush_kept
    | (with_reducible apply State.modCx_kept (by intro _; rfl))
    | with_reducible apply kept_foldl
    | intro _
    | with_reducible apply kept_ite)

theorem State.ctxRecord_kept (c : Ctx) (r : FRec) {s : State} (h : Kept K F s) : Kept K F (State.ctxRecord s c r) := by
  unfold State.ctxRecord
  repeat' (first
    | with_reducible assumption
    | with_reducible apply State.incReg_kept
    | with_reducible apply State.tookRec_kept
    | with_reducible apply State.hostWrite_kept
    | (with_reducible apply State.modCx_kept (by intro _; rfl))
    | with_reducible apply State.writeTails_kept
    | with_reducible apply State.signal_kept
    | with_reducible apply kept_foldl
    | intro _
    | with_reducible apply kept_ite)

theorem State.refuse_kept (c : Ctx) (y2 : CmdTag) (r : FRec) {s : State} (h : Kept K F s) : Kept K F (State.refuse s c y2 r) := by
  unfold State.refuse
  repeat' (first
    | with_reducible assumption
    | with_reducible apply State.complete_kept
    | with_reducible apply State.ctxRecord_kept)

theorem State.done_kept (c : Ctx) (y2 : CmdTag) {s : State} (h : Kept K F s) : Kept K F (State.done s c y2) := by
  unfold State.done
  repeat' (first
    | with_reducible assumption
    | with_reducible apply State.complete_kept)

theorem State.loseKey_kept (k : Nat) {s : State} (h : Kept K F s) : Kept K F (State.loseKey s k) := by
  unfold State.loseKey
  refine kept_ite _ ?_ (kept_ite _ ?_ (kept_ite _ ?_ (kept_ite _ ?_ h)))
  · exact State.modTile_kept (f := fun t => { t with mem := t.mem.write (k % 2 ^ 24) (Config.freeByte s.free k) })
      (fun t w => ⟨Mem.write_wf _ _ w.1, w.2⟩) _ h
  · exact ⟨h.1, Mem.write_wf _ _ h.2.1, h.2.2⟩
  · exact State.stkPut_kept _ _ h
  · exact ⟨h.1, h.2.1, Mem.write_wf _ _ h.2.2.1, h.2.2.2⟩

theorem State.loseKeys_kept (ks : List Nat) {s : State} (h : Kept K F s) : Kept K F (State.loseKeys s ks) := by
  unfold State.loseKeys
  split
  · exact h
  · exact State.tick_kept (kept_foldl (fun s k w => State.loseKey_kept k w) ks h)

theorem State.modDie_kept (d : Nat) (f : DieSt → DieSt) {s : State} (h : Kept K F s) : Kept K F (State.modDie s d f) := by
  unfold State.modDie
  repeat' (first
    | with_reducible assumption
    | with_reducible apply kept_foldl
    | intro _
    | with_reducible apply kept_ite
    | dsimp only
    | split
    | with_reducible apply KeptM.back
    | (show KeptM _ _ _ _ _ _ _ _; dsimp only))

theorem State.modRole_kept (k : Nat) (f : Role → Role) {s : State} (h : Kept K F s) : Kept K F (State.modRole s k f) := by
  unfold State.modRole
  repeat' (first
    | with_reducible assumption
    | with_reducible apply kept_foldl
    | intro _
    | with_reducible apply kept_ite
    | dsimp only
    | split
    | with_reducible apply KeptM.back
    | (show KeptM _ _ _ _ _ _ _ _; dsimp only))

theorem State.injectAt_kept (page : Nat) (p : Nat) (n : Nat) {s : State} (h : Kept K F s) : Kept K F (State.injectAt s page p n).1 := by
  unfold State.injectAt
  repeat' (first
    | with_reducible assumption
    | with_reducible apply State.setReg_kept
    | with_reducible apply State.setRegField_kept
    | with_reducible apply kept_foldl
    | intro _
    | with_reducible apply kept_ite
    | dsimp only
    | split
    | with_reducible apply KeptM.back
    | (show KeptM _ _ _ _ _ _ _ _; dsimp only))

theorem State.modPort_kept (p : Nat) (f : PortSt → PortSt) {s : State} (h : Kept K F s) : Kept K F (State.modPort s p f) := by
  unfold State.modPort
  repeat' (first
    | with_reducible assumption
    | with_reducible apply kept_foldl
    | intro _
    | with_reducible apply kept_ite
    | dsimp only
    | split
    | with_reducible apply KeptM.back
    | (show KeptM _ _ _ _ _ _ _ _; dsimp only))

theorem State.spWrite_kept (p : Space) (a : Nat) (bs : List Byte) {s : State} (h : Kept K F s) : Kept K F (State.spWrite s p a bs) := by
  unfold State.spWrite
  repeat' (first
    | with_reducible assumption
    | with_reducible apply State.spClean_kept
    | with_reducible apply State.spPut_kept)

theorem State.injectFires_kept (page : Nat) (p : Nat) {s : State} (h : Kept K F s) : Kept K F (State.injectFires s page p).1 := by
  unfold State.injectFires
  repeat' (first
    | with_reducible assumption
    | with_reducible apply State.setReg_kept
    | with_reducible apply State.setRegField_kept
    | with_reducible apply kept_foldl
    | intro _
    | with_reducible apply kept_ite
    | dsimp only
    | split
    | with_reducible apply KeptM.back
    | (show KeptM _ _ _ _ _ _ _ _; dsimp only))

theorem State.modChan_kept (k : Nat) (f : Chan → Chan) {s : State} (h : Kept K F s) : Kept K F (State.modChan s k f) := by
  unfold State.modChan
  repeat' (first
    | with_reducible assumption
    | with_reducible apply kept_foldl
    | intro _
    | with_reducible apply kept_ite
    | dsimp only
    | split
    | with_reducible apply KeptM.back
    | (show KeptM _ _ _ _ _ _ _ _; dsimp only))

theorem State.modStack_kept (k : Nat) (f : StackSt → StackSt) {s : State} (h : Kept K F s) : Kept K F (State.modStack s k f) := by
  unfold State.modStack
  repeat' (first
    | with_reducible assumption
    | with_reducible apply kept_foldl
    | intro _
    | with_reducible apply kept_ite
    | dsimp only
    | split
    | with_reducible apply KeptM.back
    | (show KeptM _ _ _ _ _ _ _ _; dsimp only))

theorem State.spMark_kept (p : Space) (units : List Nat) {s : State} (h : Kept K F s) : Kept K F (State.spMark s p units) := by
  unfold State.spMark
  repeat' (first
    | with_reducible assumption
    | (with_reducible apply State.modTile_kept (by intro _ w; exact w))
    | with_reducible apply State.stkPoison_kept
    | with_reducible apply kept_foldl
    | intro _
    | with_reducible apply kept_ite
    | dsimp only
    | split
    | with_reducible apply KeptM.back
    | (show KeptM _ _ _ _ _ _ _ _; dsimp only))

theorem State.flushCpl_kept (c : Ctx) (y1 : Nat) {s : State} (h : Kept K F s) : Kept K F (State.flushCpl c y1 s) := by
  induction y1 generalizing s with
  | zero => exact h
  | succ n ih =>
    simp only [State.flushCpl]
    split
    · exact h
    · split
      · exact h
      · exact ih (State.cplPush_kept _ _ (State.modCx_kept (by intro _; rfl) _ h))

theorem State.flushEarly_kept {s : State} (h : Kept K F s) : Kept K F (State.flushEarly s) := by
  unfold State.flushEarly
  repeat' (first
    | with_reducible assumption
    | with_reducible apply State.evtPush_kept
    | with_reducible apply kept_foldl
    | intro _
    | with_reducible apply kept_ite
    | dsimp only
    | split
    | with_reducible apply KeptM.back
    | (show KeptM _ _ _ _ _ _ _ _; dsimp only))

/-! Machine/Registers.lean. -/

theorem State.chkShut_kept (u : Nat) (stat : Bool) {s : State} {t : State} (e : State.chkShut s u stat = some t) (h : Kept K F s) : Kept K F t := by
  unfold State.chkShut at e
  repeat' split at e
  all_goals (cases e; repeat' (first
    | with_reducible assumption
    | with_reducible apply State.errBit_kept
    | with_reducible apply State.countEvent_kept
    ))

theorem State.wake_kept {s : State} (h : Kept K F s) : Kept K F (State.wake s) := by
  unfold State.wake
  repeat' (first
    | with_reducible assumption
    | with_reducible apply kept_foldl
    | intro _
    | with_reducible apply kept_ite
    | dsimp only
    | split
    | with_reducible apply KeptM.back
    | (show KeptM _ _ _ _ _ _ _ _; dsimp only))

theorem State.access_kept (f : State → State) (w : ∀ x0, Kept K F x0 → Kept K F (f x0)) {s : State} (h : Kept K F s) : Kept K F (State.access s f) := by
  unfold State.access
  repeat' (first
    | with_reducible assumption
    | with_reducible apply State.wake_kept
    | apply w
    | with_reducible apply kept_foldl
    | intro _
    | with_reducible apply kept_ite)

theorem State.settle_kept (old : State) (ks : List Nat) {s : State} (h : Kept K F s) : Kept K F (State.settle s old ks) := by
  unfold State.settle
  repeat' (first
    | with_reducible assumption
    | (with_reducible apply State.modTile_kept (by intro _ w; exact w))
    | with_reducible apply kept_foldl
    | intro _
    | with_reducible apply kept_ite)

theorem State.storeReg_kept (a : Nat) (v : Nat) (r : RegRow) {s : State} (h : Kept K F s) : Kept K F (State.storeReg s a v r) := by
  unfold State.storeReg
  repeat' (first
    | with_reducible assumption
    | with_reducible apply State.setReg_kept
    | with_reducible apply State.errBit_kept
    | with_reducible apply kept_foldl
    | intro _
    | with_reducible apply kept_ite)

theorem State.writeChkCfg_kept (u : Nat) (v : Nat) {s : State} (h : Kept K F s) : Kept K F (State.writeChkCfg s u v) := by
  unfold State.writeChkCfg
  repeat' (first
    | with_reducible assumption
    | with_reducible apply State.setReg_kept
    | with_reducible apply State.setReg64_kept
    | with_reducible apply kept_foldl
    | intro _
    | with_reducible apply kept_ite)

theorem State.msixUnmask_kept (a : Nat) {s : State} (h : Kept K F s) : Kept K F (State.msixUnmask s a) := by
  unfold State.msixUnmask
  repeat' (first
    | with_reducible assumption
    | with_reducible apply State.emit_kept
    | with_reducible apply kept_foldl
    | intro _
    | with_reducible apply kept_ite
    | dsimp only
    | split
    | with_reducible apply KeptM.back
    | (show KeptM _ _ _ _ _ _ _ _; dsimp only))

theorem State.gatedAccess_kept {s : State} (h : Kept K F s) : Kept K F (State.gatedAccess s) := by
  unfold State.gatedAccess
  repeat' (first
    | with_reducible assumption
    | with_reducible apply State.countEvent_kept)

theorem State.regWrite_kept (a : Nat) (v : Nat) {s : State} (h : Kept K F s) : Kept K F (State.regWrite s a v) := by
  unfold State.regWrite
  repeat' (first
    | with_reducible assumption
    | with_reducible apply State.errBit_kept
    | with_reducible apply State.writeChkCfg_kept
    | with_reducible apply State.msixUnmask_kept
    | with_reducible apply State.gatedAccess_kept
    | (with_reducible apply State.chkShut_kept; assumption)
    | with_reducible apply State.storeReg_kept
    | with_reducible apply kept_foldl
    | intro _
    | with_reducible apply kept_ite
    | dsimp only
    | split
    | with_reducible apply KeptM.back
    | (show KeptM _ _ _ _ _ _ _ _; dsimp only))

theorem execRegWrite_kept (offset : Nat) (v : W32) {s : State} {t : State} (e : execRegWrite offset v s = .next t) (h : Kept K F s) : Kept K F t := by
  unfold execRegWrite at e
  injection e with e
  subst e
  repeat' (first
    | with_reducible assumption
    | with_reducible apply State.regWrite_kept
    | with_reducible apply State.access_kept)

theorem State.pairRead_kept (a : Nat) {s : State} (h : Kept K F s) : Kept K F (State.pairRead s a) := by
  unfold State.pairRead
  repeat' (first
    | with_reducible assumption
    | with_reducible apply State.emit_kept
    | with_reducible apply kept_foldl
    | intro _
    | with_reducible apply kept_ite
    | dsimp only
    | split
    | with_reducible apply KeptM.back
    | (show KeptM _ _ _ _ _ _ _ _; dsimp only))

theorem execPairLowRead_kept (offset : Nat) {s : State} {t : State} (e : execPairLowRead offset s = .next t) (h : Kept K F s) : Kept K F t := by
  unfold execPairLowRead at e
  injection e with e
  subst e
  repeat' (first
    | with_reducible assumption
    | with_reducible apply State.pairRead_kept
    | with_reducible apply State.gatedAccess_kept
    | with_reducible apply State.access_kept
    | with_reducible apply kept_foldl
    | intro _
    | with_reducible apply kept_ite)

theorem State.pairShut_kept (lo : Nat) {s : State} {t : State} (e : State.pairShut s lo = some t) (h : Kept K F s) : Kept K F t := by
  unfold State.pairShut at e
  repeat' split at e
  all_goals first
    | exact State.chkShut_kept _ _ e h
    | (cases e; repeat' (first
    | with_reducible assumption
    | with_reducible apply State.errBit_kept
    ))

theorem State.pairLow_kept (a : Nat) (v : Nat) {s : State} (h : Kept K F s) : Kept K F (State.pairLow s a v) := by
  unfold State.pairLow
  repeat' (first
    | with_reducible assumption
    | (with_reducible apply State.pairShut_kept; assumption)
    | with_reducible apply State.gatedAccess_kept
    | with_reducible apply kept_foldl
    | intro _
    | with_reducible apply kept_ite
    | dsimp only
    | split
    | with_reducible apply KeptM.back
    | (show KeptM _ _ _ _ _ _ _ _; dsimp only))

theorem execPairLowWrite_kept (offset : Nat) (v : W32) {s : State} {t : State} (e : execPairLowWrite offset v s = .next t) (h : Kept K F s) : Kept K F t := by
  unfold execPairLowWrite at e
  injection e with e
  subst e
  repeat' (first
    | with_reducible assumption
    | with_reducible apply State.pairLow_kept
    | with_reducible apply State.access_kept)

theorem State.storePair_kept (lo : Nat) (low : Nat) (high : Nat) {s : State} (h : Kept K F s) : Kept K F (State.storePair s lo low high) := by
  unfold State.storePair
  repeat' (first
    | with_reducible assumption
    | with_reducible apply State.setReg64_kept
    | with_reducible apply kept_foldl
    | intro _
    | with_reducible apply kept_ite
    | dsimp only
    | split)

theorem State.pairHigh_kept (a : Nat) (v : Nat) {s : State} (h : Kept K F s) : Kept K F (State.pairHigh s a v) := by
  unfold State.pairHigh
  repeat' (first
    | with_reducible assumption
    | with_reducible apply State.storePair_kept
    | (with_reducible apply State.pairShut_kept; assumption)
    | with_reducible apply State.flushEarly_kept
    | with_reducible apply State.gatedAccess_kept
    | with_reducible apply kept_foldl
    | intro _
    | with_reducible apply kept_ite
    | dsimp only
    | split
    | with_reducible apply KeptM.back
    | (show KeptM _ _ _ _ _ _ _ _; dsimp only))

theorem execPairHighWrite_kept (offset : Nat) (v : W32) {s : State} {t : State} (e : execPairHighWrite offset v s = .next t) (h : Kept K F s) : Kept K F t := by
  unfold execPairHighWrite at e
  injection e with e
  subst e
  repeat' (first
    | with_reducible assumption
    | with_reducible apply State.pairHigh_kept
    | with_reducible apply State.access_kept)

theorem State.badAccess_kept (offset : Nat) (size : Nat) (write : Bool) {s : State} (h : Kept K F s) : Kept K F (State.badAccess s offset size write) := by
  unfold State.badAccess
  repeat' (first
    | with_reducible assumption
    | with_reducible apply State.errBit_kept
    | with_reducible apply State.gatedAccess_kept
    | with_reducible apply State.emit_kept
    | with_reducible apply kept_foldl
    | intro _
    | with_reducible apply kept_ite)

theorem execBar0BadAccess_kept (offset : Nat) (size : Nat) (write : Bool) {s : State} {t : State} (e : execBar0BadAccess offset write s size = .next t) (h : Kept K F s) : Kept K F t := by
  unfold execBar0BadAccess at e
  injection e with e
  subst e
  repeat' (first
    | with_reducible assumption
    | with_reducible apply State.badAccess_kept
    | with_reducible apply State.access_kept)

theorem execPowerGatedPageAccess_kept (offset : Nat) (write : Bool) {s : State} {t : State} (e : execPowerGatedPageAccess offset write s = .next t) (h : Kept K F s) : Kept K F t := by
  unfold execPowerGatedPageAccess at e
  injection e with e
  subst e
  repeat' (first
    | with_reducible assumption
    | with_reducible apply State.gatedAccess_kept
    | with_reducible apply State.emit_kept
    | with_reducible apply kept_foldl
    | intro _
    | with_reducible apply kept_ite)

theorem State.evtClr_kept (page : Nat) (v : Nat) {s : State} (h : Kept K F s) : Kept K F (State.evtClr s page v) := by
  unfold State.evtClr
  repeat' (first
    | with_reducible assumption
    | with_reducible apply State.errBit_kept
    | with_reducible apply State.setReg_kept
    | with_reducible apply State.gatedAccess_kept
    | with_reducible apply State.storeReg_kept
    | with_reducible apply kept_foldl
    | intro _
    | with_reducible apply kept_ite
    | dsimp only
    | split)

theorem execEvtClr_kept (page : Nat) (v : W32) {s : State} {t : State} (e : execEvtClr page v s = .next t) (h : Kept K F s) : Kept K F t := by
  unfold execEvtClr at e
  injection e with e
  subst e
  repeat' (first
    | with_reducible assumption
    | with_reducible apply State.evtClr_kept
    | with_reducible apply State.access_kept)

theorem State.writeInject_kept (page : Nat) (v : Nat) {s : State} (h : Kept K F s) : Kept K F (State.writeInject s page v) := by
  unfold State.writeInject
  repeat' (first
    | with_reducible assumption
    | with_reducible apply State.setRegField_kept
    | with_reducible apply State.errBit_kept
    | with_reducible apply State.gatedAccess_kept
    | with_reducible apply kept_foldl
    | intro _
    | with_reducible apply kept_ite
    | dsimp only
    | split
    | with_reducible apply KeptM.back
    | (show KeptM _ _ _ _ _ _ _ _; dsimp only))

theorem execErrInject_kept (page : Nat) (v : W32) {s : State} {t : State} (e : execErrInject page v s = .next t) (h : Kept K F s) : Kept K F t := by
  unfold execErrInject at e
  injection e with e
  subst e
  repeat' (first
    | with_reducible assumption
    | with_reducible apply State.writeInject_kept
    | with_reducible apply State.access_kept)

theorem State.writeLnkInject_kept (port : Nat) (v : Nat) {s : State} (h : Kept K F s) : Kept K F (State.writeLnkInject s port v) := by
  unfold State.writeLnkInject
  repeat' (first
    | with_reducible assumption
    | with_reducible apply State.modPort_kept
    | with_reducible apply State.setRegField_kept
    | with_reducible apply kept_foldl
    | intro _
    | with_reducible apply kept_ite)

theorem execLnkInject_kept (port : Nat) (v : W32) {s : State} {t : State} (e : execLnkInject port v s = .next t) (h : Kept K F s) : Kept K F t := by
  unfold execLnkInject at e
  injection e with e
  subst e
  repeat' (first
    | with_reducible assumption
    | with_reducible apply State.access_kept
    | with_reducible apply State.writeLnkInject_kept)

theorem State.clearStall_kept (die : Nat) (pos : Nat) (c : Nat) {s : State} (h : Kept K F s) : Kept K F (State.clearStall s die pos c) := by
  unfold State.clearStall
  repeat' (first
    | with_reducible assumption
    | with_reducible apply kept_foldl
    | intro _
    | with_reducible apply kept_ite
    | dsimp only
    | split
    | with_reducible apply KeptM.back
    | (show KeptM _ _ _ _ _ _ _ _; dsimp only))

theorem State.tilStallClr_kept (die : Nat) (pos : Nat) (v : Nat) {s : State} (h : Kept K F s) : Kept K F (State.tilStallClr s die pos v) := by
  unfold State.tilStallClr
  repeat' (first
    | with_reducible assumption
    | with_reducible apply State.clearStall_kept
    | with_reducible apply State.gatedAccess_kept
    | with_reducible apply kept_foldl
    | intro _
    | with_reducible apply kept_ite)

theorem execTilStallClr_kept (die : Nat) (pos : Nat) (v : W32) {s : State} {t : State} (e : execTilStallClr die pos v s = .next t) (h : Kept K F s) : Kept K F t := by
  unfold execTilStallClr at e
  injection e with e
  subst e
  repeat' (first
    | with_reducible assumption
    | with_reducible apply State.tilStallClr_kept
    | with_reducible apply State.access_kept)

theorem State.setFwd_kept (x : Nat) (y2 : Nat) (v : Nat) {s : State} (h : Kept K F s) : Kept K F (State.setFwd s x y2 v) := by
  unfold State.setFwd
  repeat' (first
    | with_reducible assumption
    | with_reducible apply kept_foldl
    | intro _
    | with_reducible apply kept_ite
    | dsimp only
    | split
    | with_reducible apply KeptM.back
    | (show KeptM _ _ _ _ _ _ _ _; dsimp only))

theorem State.fwdAdvance_kept (x : Nat) {s : State} (h : Kept K F s) : Kept K F (State.fwdAdvance s x) := by
  unfold State.fwdAdvance
  repeat' (first
    | with_reducible assumption
    | with_reducible apply State.setReg_kept)

theorem execColFwdDataRead_kept (x : Nat) {s : State} {t : State} (e : execColFwdDataRead x s = .next t) (h : Kept K F s) : Kept K F t := by
  unfold execColFwdDataRead at e
  injection e with e
  subst e
  repeat' (first
    | with_reducible assumption
    | with_reducible apply State.fwdAdvance_kept
    | with_reducible apply State.access_kept
    | with_reducible apply State.emit_kept
    | with_reducible apply kept_foldl
    | intro _
    | with_reducible apply kept_ite)

theorem execColFwdDataWrite_kept (x : Nat) (v : W32) {s : State} {t : State} (e : execColFwdDataWrite x v s = .next t) (h : Kept K F s) : Kept K F t := by
  unfold execColFwdDataWrite at e
  injection e with e
  subst e
  repeat' (first
    | with_reducible assumption
    | with_reducible apply State.setFwd_kept
    | with_reducible apply State.errBit_kept
    | with_reducible apply State.fwdAdvance_kept
    | with_reducible apply State.access_kept
    | with_reducible apply kept_foldl
    | intro _
    | with_reducible apply kept_ite)

theorem State.writeTilClk_kept (die : Nat) (pos : Nat) (v : Nat) {s : State} (h : Kept K F s) : Kept K F (State.writeTilClk s die pos v) := by
  unfold State.writeTilClk
  repeat' (first
    | with_reducible assumption
    | with_reducible apply State.setReg_kept
    | with_reducible apply State.settle_kept
    | with_reducible apply State.countEvent_kept
    | with_reducible apply State.gatedAccess_kept
    | with_reducible apply kept_foldl
    | intro _
    | with_reducible apply kept_ite)

theorem execTilClk_kept (die : Nat) (pos : Nat) (v : W32) {s : State} {t : State} (e : execTilClk die pos v s = .next t) (h : Kept K F s) : Kept K F t := by
  unfold execTilClk at e
  injection e with e
  subst e
  repeat' (first
    | with_reducible assumption
    | with_reducible apply State.writeTilClk_kept
    | with_reducible apply State.access_kept)

/-! Machine/Checks.lean. -/

theorem State.modChk_kept (u : Nat) (f : ChkSt → ChkSt) {s : State} (h : Kept K F s) : Kept K F (State.modChk s u f) := by
  unfold State.modChk
  repeat' (first
    | with_reducible assumption
    | with_reducible apply kept_foldl
    | intro _
    | with_reducible apply kept_ite
    | dsimp only
    | split
    | with_reducible apply KeptM.back
    | (show KeptM _ _ _ _ _ _ _ _; dsimp only))

theorem State.chkFeed_kept (u : Nat) (bs : List Byte) {s : State} (h : Kept K F s) : Kept K F (State.chkFeed s u bs) := by
  unfold State.chkFeed
  repeat' (first
    | with_reducible assumption
    | with_reducible apply State.setReg64_kept)

theorem State.chkInit_kept (u : Nat) {s : State} (h : Kept K F s) : Kept K F (State.chkInit s u) := by
  unfold State.chkInit
  repeat' (first
    | with_reducible assumption
    | with_reducible apply State.modChk_kept
    | with_reducible apply State.setReg64_kept)

theorem State.chkFinish_kept (u : Nat) {s : State} (h : Kept K F s) : Kept K F (State.chkFinish s u) := by
  unfold State.chkFinish
  repeat' (first
    | with_reducible assumption
    | with_reducible apply State.setReg_kept
    | with_reducible apply State.setReg64_kept
    | with_reducible apply State.chkFeed_kept
    | with_reducible apply kept_foldl
    | intro _
    | with_reducible apply kept_ite)

theorem State.chkDone_kept (u : Nat) {s : State} (h : Kept K F s) : Kept K F (State.chkDone s u) := by
  unfold State.chkDone
  repeat' (first
    | with_reducible assumption
    | with_reducible apply State.setReg_kept
    | with_reducible apply State.modChk_kept
    | with_reducible apply State.signal_kept)

theorem State.scanRefused_kept (u : Nat) {s : State} (h : Kept K F s) : Kept K F (State.scanRefused s u) := by
  unfold State.scanRefused
  repeat' (first
    | with_reducible assumption
    | with_reducible apply State.setReg_kept
    | with_reducible apply State.event_kept)

theorem State.chkCmd_kept (u : Nat) (v : Nat) {s : State} (h : Kept K F s) : Kept K F (State.chkCmd s u v) := by
  unfold State.chkCmd
  repeat' (first
    | with_reducible assumption
    | with_reducible apply State.modChk_kept
    | with_reducible apply State.chkInit_kept
    | with_reducible apply State.scanRefused_kept
    | with_reducible apply State.chkDone_kept
    | (with_reducible apply State.chkShut_kept; assumption)
    | with_reducible apply State.chkFinish_kept
    | with_reducible apply kept_foldl
    | intro _
    | with_reducible apply kept_ite
    | dsimp only
    | split)

theorem State.chkWrite_kept (u : Nat) (v : Nat) (b : Nat) {s : State} (h : Kept K F s) : Kept K F (State.chkWrite s u v b) := by
  unfold State.chkWrite
  repeat' (first
    | with_reducible assumption
    | with_reducible apply State.chkCmd_kept
    | with_reducible apply State.access_kept
    | with_reducible apply kept_foldl
    | intro _
    | with_reducible apply kept_ite)

theorem execInit_kept (u : Nat) (v : W32) {s : State} {t : State} (e : execInit u v s = .next t) (h : Kept K F s) : Kept K F t := by
  unfold execInit at e
  injection e with e
  subst e
  repeat' (first
    | with_reducible assumption
    | with_reducible apply State.chkWrite_kept)

theorem execScan_kept (u : Nat) (v : W32) {s : State} {t : State} (e : execScan u v s = .next t) (h : Kept K F s) : Kept K F t := by
  unfold execScan at e
  injection e with e
  subst e
  repeat' (first
    | with_reducible assumption
    | with_reducible apply State.chkWrite_kept)

theorem execFinish_kept (u : Nat) (v : W32) {s : State} {t : State} (e : execFinish u v s = .next t) (h : Kept K F s) : Kept K F t := by
  unfold execFinish at e
  injection e with e
  subst e
  repeat' (first
    | with_reducible assumption
    | with_reducible apply State.chkWrite_kept)

theorem State.scanEnd_kept (u : Nat) {s : State} (h : Kept K F s) : Kept K F (State.scanEnd s u) := by
  unfold State.scanEnd
  repeat' (first
    | with_reducible assumption
    | with_reducible apply State.setReg_kept
    | with_reducible apply State.cacheRange_kept
    | with_reducible apply State.chkDone_kept
    | with_reducible apply State.chkFinish_kept
    | with_reducible apply State.chkFeed_kept
    | with_reducible apply kept_foldl
    | intro _
    | with_reducible apply kept_ite)

theorem execScanComplete_kept (u : Nat) {s : State} {t : State} (e : execScanComplete u s = .next t) (h : Kept K F s) : Kept K F t := by
  unfold execScanComplete at e
  injection e with e
  subst e
  repeat' (first
    | with_reducible assumption
    | with_reducible apply State.scanEnd_kept
    | with_reducible apply kept_foldl
    | intro _
    | with_reducible apply kept_ite)

theorem State.chkData_kept (u : Nat) (bs : List Byte) {s : State} (h : Kept K F s) : Kept K F (State.chkData s u bs) := by
  unfold State.chkData
  repeat' (first
    | with_reducible assumption
    | (with_reducible apply State.chkShut_kept; assumption)
    | with_reducible apply State.access_kept
    | with_reducible apply State.chkFeed_kept
    | with_reducible apply kept_foldl
    | intro _
    | with_reducible apply kept_ite
    | dsimp only
    | split)

theorem execChkData32_kept (u : Nat) (v : W32) {s : State} {t : State} (e : execChkData32 u v s = .next t) (h : Kept K F s) : Kept K F t := by
  unfold execChkData32 at e
  injection e with e
  subst e
  repeat' (first
    | with_reducible assumption
    | with_reducible apply State.chkData_kept)

theorem execChkData8_kept (u : Nat) (v : W32) {s : State} {t : State} (e : execChkData8 u v s = .next t) (h : Kept K F s) : Kept K F t := by
  unfold execChkData8 at e
  injection e with e
  subst e
  repeat' (first
    | with_reducible assumption
    | with_reducible apply State.chkData_kept)

theorem State.writeGranules_kept (m : Nat) (v : Nat) {s : State} (h : Kept K F s) : Kept K F (State.writeGranules s m v) := by
  unfold State.writeGranules
  repeat' (first
    | with_reducible assumption
    | with_reducible apply State.setReg_kept
    | with_reducible apply State.errBit_kept
    | with_reducible apply kept_foldl
    | intro _
    | with_reducible apply kept_ite
    | dsimp only
    | split
    | with_reducible apply KeptM.back
    | (show KeptM _ _ _ _ _ _ _ _; dsimp only))

theorem execRsvGranuleCfg_kept (m : Nat) (v : W32) {s : State} {t : State} (e : execRsvGranuleCfg m v s = .next t) (h : Kept K F s) : Kept K F t := by
  unfold execRsvGranuleCfg at e
  injection e with e
  subst e
  repeat' (first
    | with_reducible assumption
    | with_reducible apply State.writeGranules_kept
    | with_reducible apply State.access_kept)

theorem State.cacheClear_kept (m : Nat) {s : State} (h : Kept K F s) : Kept K F (State.cacheClear s m) := by
  unfold State.cacheClear
  repeat' (first
    | with_reducible assumption
    | with_reducible apply kept_foldl
    | intro _
    | with_reducible apply kept_ite
    | dsimp only
    | split
    | with_reducible apply KeptM.back
    | (show KeptM _ _ _ _ _ _ _ _; dsimp only))

theorem State.applyGranules_kept (m : Nat) {s : State} (h : Kept K F s) : Kept K F (State.applyGranules s m) := by
  unfold State.applyGranules
  repeat' (first
    | with_reducible assumption
    | with_reducible apply State.cacheClear_kept
    | with_reducible apply kept_foldl
    | intro _
    | with_reducible apply kept_ite
    | dsimp only
    | split
    | with_reducible apply KeptM.back
    | (show KeptM _ _ _ _ _ _ _ _; dsimp only)
    | with_reducible apply KeptM.stkN
    | with_reducible apply KeptM.stk1
    | with_reducible apply KeptM.rsvN
    | with_reducible apply KeptM.rsvClear)

theorem execGranuleCfgApply_kept (m : Nat) {s : State} {t : State} (e : execGranuleCfgApply m s = .next t) (h : Kept K F s) : Kept K F t := by
  unfold execGranuleCfgApply at e
  injection e with e
  subst e
  repeat' (first
    | with_reducible assumption
    | with_reducible apply State.applyGranules_kept
    | with_reducible apply kept_foldl
    | intro _
    | with_reducible apply kept_ite)

/-! Machine/Logbook.lean. -/

theorem State.logQueue_kept (type : Nat) (payload : List Byte) {s : State} (h : Kept K F s) : Kept K F (State.logQueue s type payload) := by
  unfold State.logQueue
  repeat' (first
    | with_reducible assumption
    | with_reducible apply kept_foldl
    | intro _
    | with_reducible apply kept_ite
    | dsimp only
    | split
    | with_reducible apply KeptM.back
    | (show KeptM _ _ _ _ _ _ _ _; dsimp only))

theorem State.repairWrite_kept {s : State} (h : Kept K F s) : Kept K F (State.repairWrite s) := by
  unfold State.repairWrite
  repeat' (first
    | with_reducible assumption
    | with_reducible apply State.logQueue_kept)

theorem State.repairAdd_kept (y1 : RepairEnt) {s : State} (h : Kept K F s) : Kept K F (State.repairAdd s y1) := by
  unfold State.repairAdd
  repeat' (first
    | with_reducible assumption
    | with_reducible apply State.repairWrite_kept
    | with_reducible apply State.event_kept
    | with_reducible apply kept_foldl
    | intro _
    | with_reducible apply kept_ite
    | dsimp only
    | split
    | with_reducible apply KeptM.back
    | (show KeptM _ _ _ _ _ _ _ _; dsimp only))

theorem execLogbookWrite_kept (type : Nat) (payload : List Byte) {s : State} {t : State} (e : execLogbookWrite type payload s = .next t) (h : Kept K F s) : Kept K F t := by
  unfold execLogbookWrite at e
  injection e with e
  subst e
  repeat' (first
    | with_reducible assumption
    | with_reducible apply State.logQueue_kept
    | with_reducible apply kept_foldl
    | intro _
    | with_reducible apply kept_ite)

theorem State.logFail_kept (type : Nat) (slot : Nat) {s : State} (h : Kept K F s) : Kept K F (State.logFail s type slot) := by
  unfold State.logFail
  repeat' (first
    | with_reducible assumption
    | with_reducible apply State.event_kept)

theorem State.logEnd_kept (readback : Bool) {s : State} (h : Kept K (fun m => m.wf = true) s) : Kept K (fun m => m.wf = true) (State.logEnd s readback) := by
  unfold State.logEnd
  repeat' (first
    | with_reducible assumption
    | with_reducible apply State.logFail_kept
    | with_reducible apply KeptM.flash (fun w => Mem.writeN_wf _ _ (Mem.clear_wf _ _ w))
    | with_reducible apply KeptM.flash (fun w => Mem.clear_wf _ _ w)
    | with_reducible apply kept_foldl
    | intro _
    | with_reducible apply kept_ite
    | dsimp only
    | split
    | with_reducible apply KeptM.back
    | (show KeptM _ _ _ _ _ _ _ _; dsimp only))

theorem execLogbookWriteComplete_kept (readback : Bool) {s : State} {t : State} (e : execLogbookWriteComplete readback s = .next t) (h : Kept K (fun m => m.wf = true) s) : Kept K (fun m => m.wf = true) t := by
  unfold execLogbookWriteComplete at e
  injection e with e
  subst e
  repeat' (first
    | with_reducible assumption
    | with_reducible apply State.logEnd_kept)

/-! Machine/Take.lean. -/

theorem State.refuseCode_kept (c : Ctx) (y2 : CmdTag) (code : Nat) {s : State} (h : Kept K F s) : Kept K F (State.refuseCode s c y2 code) := by
  unfold State.refuseCode
  repeat' (first
    | with_reducible assumption
    | with_reducible apply State.refuse_kept)

theorem State.popHead_kept (c : Ctx) {s : State} (h : Kept K F s) : Kept K F (State.popHead s c) := by
  unfold State.popHead
  repeat' (first
    | with_reducible assumption
    | (with_reducible apply State.modCx_kept (by intro _; rfl)))

theorem State.skipBad_kept (c : Ctx) (y1 : Nat) {s : State} (h : Kept K F s) : Kept K F (State.skipBad c y1 s) := by
  induction y1 generalizing s with
  | zero => exact h
  | succ n ih =>
    simp only [State.skipBad]
    split
    · split
      · exact h
      · split
        · exact h
        · exact ih (State.refuse_kept _ _ _ (State.popHead_kept _ h))
    · exact h

theorem State.takeIf_kept (c : Ctx) (op : Nat) (ok : State → Bool) (f : State → CmdTag → List Byte → State) (w : ∀ x0 x1 x2, Kept K F x0 → Kept K F (f x0 x1 x2)) {s : State} (h : Kept K F s) : Kept K F (State.takeIf s c op ok f) := by
  unfold State.takeIf
  repeat' (first
    | with_reducible assumption
    | with_reducible apply State.skipBad_kept
    | with_reducible apply State.refuse_kept
    | with_reducible apply State.popHead_kept
    | apply w
    | with_reducible apply kept_foldl
    | intro _
    | with_reducible apply kept_ite
    | dsimp only
    | split)

end Sys2Proof.Machine
end

