-- ==== Sys2Proof/Laws/KeptStack.lean ====
section
/-! SUPPORT. What the operations of stack maintenance, the host bus, the Shutter and the operands of lines keep (Laws/Kept.lean): one lemma per function, named after it. -/

namespace Sys2Proof.Machine

variable {K : List (Option Committed) → Prop} {F : Mem → Prop}

/-! Machine/Stacks.lean. -/

theorem State.sectorLost_kept (addr : Nat) {s : State} (h : Kept K F s) : Kept K F (State.sectorLost s addr) := by
  unfold State.sectorLost
  repeat' (first
    | with_reducible assumption
    | with_reducible apply State.incReg_kept
    | with_reducible apply State.event_kept
    | with_reducible apply kept_foldl
    | intro _
    | with_reducible apply kept_ite
    | dsimp only
    | split
    | with_reducible apply KeptM.back
    | (show KeptM _ _ _ _ _ _ _ _; dsimp only))

theorem State.retireRow_kept (ch : Nat) (lrow : Nat) (addr : Nat) {s : State} (h : Kept K F s) : Kept K F (State.retireRow s ch lrow addr) := by
  unfold State.retireRow
  repeat' (first
    | with_reducible assumption
    | with_reducible apply State.repairAdd_kept
    | with_reducible apply State.event_kept
    | with_reducible apply kept_foldl
    | intro _
    | with_reducible apply kept_ite
    | dsimp only
    | split
    | with_reducible apply KeptM.back
    | (show KeptM _ _ _ _ _ _ _ _; dsimp only))

theorem State.fence_kept (ch : Nat) {s : State} (h : Kept K F s) : Kept K F (State.fence s ch) := by
  unfold State.fence
  repeat' (first
    | with_reducible assumption
    | with_reducible apply State.modChan_kept
    | with_reducible apply State.repairAdd_kept
    | with_reducible apply State.event_kept
    | with_reducible apply kept_foldl
    | intro _
    | with_reducible apply kept_ite)

theorem State.channelFail_kept (ch : Nat) {s : State} (h : Kept K F s) : Kept K F (State.channelFail s ch) := by
  unfold State.channelFail
  repeat' (first
    | with_reducible assumption
    | with_reducible apply State.modChan_kept
    | with_reducible apply State.fence_kept
    | with_reducible apply State.modStack_kept
    | with_reducible apply kept_foldl
    | intro _
    | with_reducible apply kept_ite
    | dsimp only
    | split)

theorem State.rowFail_kept (ch : Nat) (lrow : Nat) (addr : Nat) {s : State} (h : Kept K F s) : Kept K F (State.rowFail s ch lrow addr) := by
  unfold State.rowFail
  repeat' (first
    | with_reducible assumption
    | with_reducible apply State.modChan_kept
    | with_reducible apply State.retireRow_kept
    | with_reducible apply State.channelFail_kept
    | with_reducible apply State.tick_kept
    | with_reducible apply kept_foldl
    | intro _
    | with_reducible apply kept_ite
    | dsimp only
    | split
    | with_reducible apply KeptM.back
    | (show KeptM _ _ _ _ _ _ _ _; dsimp only))

theorem State.sectorEnd_kept (addr : Nat) (y2 : ReadEnd) {s : State} (h : Kept K F s) : Kept K F (State.sectorEnd s addr y2) := by
  unfold State.sectorEnd
  repeat' (first
    | with_reducible assumption
    | with_reducible apply State.sectorLost_kept
    | with_reducible apply State.incReg_kept
    | with_reducible apply State.rowFail_kept
    | with_reducible apply State.countEvent_kept
    | with_reducible apply State.tick_kept
    | with_reducible apply kept_foldl
    | intro _
    | with_reducible apply kept_ite
    | dsimp only
    | split
    | with_reducible apply KeptM.back
    | (show KeptM _ _ _ _ _ _ _ _; dsimp only))

theorem State.sectorRead_kept (addr : Nat) (y2 : ReadEnd) {s : State} (h : Kept K F s) : Kept K F (State.sectorRead s addr y2) := by
  unfold State.sectorRead
  repeat' (first
    | with_reducible assumption
    | (with_reducible apply kept_of_pair; assumption)
    | with_reducible apply State.injectFires_kept
    | with_reducible apply State.sectorEnd_kept
    | with_reducible apply State.rowFail_kept
    | with_reducible apply kept_foldl
    | with_reducible apply kept_foldl_fst
    | intro _
    | with_reducible apply kept_ite)

theorem State.secdedRead_kept (page : Nat) (p : Space) (us : List Nat) {s : State} (h : Kept K F s) : Kept K F (State.secdedRead s page p us) := by
  unfold State.secdedRead
  repeat' (first
    | with_reducible assumption
    | (with_reducible apply kept_of_pair; assumption)
    | with_reducible apply State.injectAt_kept
    | with_reducible apply State.spMark_kept
    | with_reducible apply State.countEvent_kept
    | with_reducible apply kept_foldl
    | with_reducible apply kept_foldl_fst
    | intro _)

theorem State.readUnits_kept (p : Space) (us : List Nat) {s : State} (h : Kept K F s) : Kept K F (State.readUnits s p us) := by
  unfold State.readUnits
  repeat' (first
    | with_reducible assumption
    | with_reducible apply State.cacheTouch_kept
    | with_reducible apply State.sectorRead_kept
    | with_reducible apply State.secdedRead_kept
    | with_reducible apply kept_foldl
    | intro _
    | with_reducible apply kept_ite
    | dsimp only
    | split)

theorem State.remapOne_kept (r : Nat) {s : State} (h : Kept K F s) : Kept K F (State.remapOne s r) := by
  unfold State.remapOne
  repeat' (first
    | with_reducible assumption
    | with_reducible apply State.event_kept
    | with_reducible apply kept_foldl
    | intro _
    | with_reducible apply kept_ite
    | dsimp only
    | split
    | with_reducible apply KeptM.back
    | (show KeptM _ _ _ _ _ _ _ _; dsimp only)
    | with_reducible apply KeptM.stkN)

theorem State.remapRow_kept (y1 : RepairEnt) {s : State} (h : Kept K F s) : Kept K F (State.remapRow s y1).1 := by
  unfold State.remapRow
  repeat' (first
    | with_reducible assumption
    | with_reducible apply State.remapOne_kept
    | with_reducible apply kept_foldl
    | intro _
    | with_reducible apply kept_ite
    | dsimp only
    | split)

theorem State.remapRows_kept (y1 : List RepairEnt) {s : State} (h : Kept K F s) : Kept K F (State.remapRows s y1).1 := by
  induction y1 generalizing s with
  | nil => exact h
  | cons e t ih => exact ih (State.remapRow_kept e h)

theorem State.remapRetired_kept  {s : State} (h : Kept K F s) : Kept K F (State.remapRetired s) := by
  unfold State.remapRetired
  repeat' (first
    | with_reducible assumption
    | (with_reducible apply kept_of_pair; assumption)
    | with_reducible apply State.remapOne_kept
    | with_reducible apply State.repairWrite_kept
    | with_reducible apply State.remapRows_kept
    | with_reducible apply kept_foldl
    | with_reducible apply kept_foldl_fst
    | intro _
    | with_reducible apply kept_ite
    | dsimp only
    | split
    | with_reducible apply KeptM.back
    | (show KeptM _ _ _ _ _ _ _ _; dsimp only))

theorem State.readRange_kept (p : Space) (a : Nat) (n : Nat) {s : State} (h : Kept K F s) : Kept K F (State.readRange s p a n) := by
  unfold State.readRange
  repeat' (first
    | with_reducible assumption
    | with_reducible apply State.readUnits_kept)

theorem State.mapRetired_kept {s : State} (h : Kept K F s) : Kept K F (State.mapRetired s) := by
  unfold State.mapRetired
  repeat' (first
    | with_reducible assumption
    | with_reducible apply kept_foldl
    | intro _
    | with_reducible apply kept_ite
    | dsimp only
    | split
    | with_reducible apply KeptM.back
    | (show KeptM _ _ _ _ _ _ _ _; dsimp only))

theorem State.recordSpared_kept (ch : Nat) {s : State} (h : Kept K F s) : Kept K F (State.recordSpared s ch) := by
  unfold State.recordSpared
  repeat' (first
    | with_reducible assumption
    | with_reducible apply State.repairAdd_kept
    | with_reducible apply State.repairWrite_kept
    | with_reducible apply kept_foldl
    | intro _
    | with_reducible apply kept_ite
    | dsimp only
    | split
    | with_reducible apply KeptM.back
    | (show KeptM _ _ _ _ _ _ _ _; dsimp only))

theorem State.stackInit_kept (mode : Nat) (mask : Nat) {s : State} (h : Kept K F s) : Kept K F (State.stackInit s mode mask) := by
  unfold State.stackInit
  dsimp only
  with_reducible apply State.mapRetired_kept
  with_reducible apply State.setReg_kept
  with_reducible apply kept_foldl
  · intro s ch w
    exact State.modStack_kept _ _ (State.modChan_kept _ _ (State.modChan_kept _ _ w))
  · have g := kept_foldl (f := State.recordSpared) (fun s c w => State.recordSpared_kept c w)
      ((s.stk.st.filterMap fun e => e.2.sweep.map fun w => 16 * e.1 + w.1).filter fun ch =>
        !s.stk.repair.any fun e => e.action = 4 && decide (16 * e.stack + e.channel = ch)) h
    exact ⟨rfl, g.2⟩

theorem State.refreshStart_kept (ch : Nat) {s : State} (h : Kept K F s) : Kept K F (State.refreshStart s ch) := by
  unfold State.refreshStart
  repeat' (first
    | with_reducible assumption
    | with_reducible apply State.modChan_kept
    | with_reducible apply State.countEvent_kept)

theorem State.retrainStart_kept (ch : Nat) {s : State} (h : Kept K F s) : Kept K F (State.retrainStart s ch) := by
  unfold State.retrainStart
  repeat' (first
    | with_reducible assumption
    | with_reducible apply State.modChan_kept
    | with_reducible apply State.countEvent_kept)

theorem State.holdNext_kept (ch : Nat) {s : State} (h : Kept K F s) : Kept K F (State.holdNext s ch) := by
  unfold State.holdNext
  repeat' (first
    | with_reducible assumption
    | with_reducible apply State.retrainStart_kept
    | with_reducible apply State.modChan_kept
    | with_reducible apply State.refreshStart_kept
    | with_reducible apply kept_foldl
    | intro _
    | with_reducible apply kept_ite)

theorem State.holdDue_kept (ch : Nat) (y2 : Hold) {s : State} (h : Kept K F s) : Kept K F (State.holdDue s ch y2) := by
  unfold State.holdDue
  repeat' (first
    | with_reducible assumption
    | with_reducible apply State.modChan_kept
    | with_reducible apply State.holdNext_kept)

theorem execRefreshInterval_kept (ch : Nat) {s : State} {t : State} (e : execRefreshInterval ch s = .next t) (h : Kept K F s) : Kept K F t := by
  unfold execRefreshInterval at e
  injection e with e
  subst e
  repeat' (first
    | with_reducible assumption
    | with_reducible apply State.modChan_kept
    | with_reducible apply State.holdDue_kept
    | with_reducible apply kept_foldl
    | intro _
    | with_reducible apply kept_ite)

theorem execRefreshIssue_kept (ch : Nat) {s : State} {t : State} (e : execRefreshIssue ch s = .next t) (h : Kept K F s) : Kept K F t := by
  unfold execRefreshIssue at e
  injection e with e
  subst e
  repeat' (first
    | with_reducible assumption
    | with_reducible apply State.refreshStart_kept
    | with_reducible apply kept_foldl
    | intro _
    | with_reducible apply kept_ite)

theorem execChannelHoldEnd_kept (ch : Nat) {s : State} {t : State} (e : execChannelHoldEnd ch s = .next t) (h : Kept K F s) : Kept K F t := by
  unfold execChannelHoldEnd at e
  injection e with e
  subst e
  repeat' (first
    | with_reducible assumption
    | with_reducible apply State.modChan_kept
    | with_reducible apply State.holdNext_kept
    | with_reducible apply kept_foldl
    | intro _
    | with_reducible apply kept_ite)

theorem execPredictivePolicySparing_kept (ch : Nat) {s : State} {t : State} (e : execPredictivePolicySparing ch s = .next t) (h : Kept K F s) : Kept K F t := by
  unfold execPredictivePolicySparing at e
  injection e with e
  subst e
  repeat' (first
    | with_reducible assumption
    | with_reducible apply State.channelFail_kept
    | with_reducible apply kept_foldl
    | intro _
    | with_reducible apply kept_ite)

theorem execChannelRetrain_kept (ch : Nat) (interfaceErrors : Bool) (ok : Bool) {s : State} {t : State} (e : execChannelRetrain ch interfaceErrors ok s = .next t) (h : Kept K F s) : Kept K F t := by
  unfold execChannelRetrain at e
  injection e with e
  subst e
  repeat' (first
    | with_reducible assumption
    | with_reducible apply State.modChan_kept
    | with_reducible apply State.injectFires_kept
    | with_reducible apply State.holdDue_kept
    | with_reducible apply State.incReg_kept
    | with_reducible apply State.channelFail_kept
    | with_reducible apply kept_foldl
    | with_reducible apply kept_foldl_fst
    | intro _
    | with_reducible apply kept_ite)

theorem State.sweepRow_kept (ch : Nat) (row : Nat) (unreadable : List Nat) {s : State} (h : Kept K F s) : Kept K F (State.sweepRow s ch row unreadable) := by
  unfold State.sweepRow
  repeat' (first
    | with_reducible assumption
    | with_reducible apply State.sectorLost_kept
    | with_reducible apply State.modStack_kept
    | with_reducible apply kept_foldl
    | intro _
    | with_reducible apply kept_ite)

theorem State.sweepEnd_kept (ch : Nat) {s : State} (h : Kept K F s) : Kept K F (State.sweepEnd s ch) := by
  unfold State.sweepEnd
  repeat' (first
    | with_reducible assumption
    | with_reducible apply State.setReg_kept
    | with_reducible apply State.modChan_kept
    | with_reducible apply State.recordSpared_kept
    | with_reducible apply State.modStack_kept
    | with_reducible apply State.event_kept)

theorem execSpareSweepStep_kept (stack : Nat) (unreadable : List Nat) {s : State} {t : State} (e : execSpareSweepStep stack unreadable s = .next t) (h : Kept K F s) : Kept K F t := by
  unfold execSpareSweepStep at e
  injection e with e
  subst e
  repeat' (first
    | with_reducible assumption
    | with_reducible apply State.sweepRow_kept
    | with_reducible apply State.modChan_kept
    | with_reducible apply State.sweepEnd_kept
    | with_reducible apply State.modStack_kept
    | with_reducible apply kept_foldl
    | intro _
    | with_reducible apply kept_ite
    | dsimp only
    | split)

theorem State.pprEnd_kept (p : Ppr) {s : State} (h : Kept K F s) : Kept K F (State.pprEnd s p) := by
  unfold State.pprEnd
  repeat' (first
    | with_reducible assumption
    | with_reducible apply State.repairAdd_kept
    | with_reducible apply State.event_kept
    | with_reducible apply kept_foldl
    | intro _
    | with_reducible apply kept_ite
    | dsimp only
    | split
    | with_reducible apply KeptM.back
    | (show KeptM _ _ _ _ _ _ _ _; dsimp only))

theorem execPprStep_kept (ch : Nat) (group : Nat) (unreadable : List Nat) {s : State} {t : State} (e : execPprStep ch group unreadable s = .next t) (h : Kept K F s) : Kept K F t := by
  unfold execPprStep at e
  injection e with e
  subst e
  repeat' (first
    | with_reducible assumption
    | with_reducible apply State.modChan_kept
    | with_reducible apply State.sectorLost_kept
    | with_reducible apply State.pprEnd_kept
    | with_reducible apply kept_foldl
    | intro _
    | with_reducible apply kept_ite
    | dsimp only
    | split
    | with_reducible apply KeptM.back
    | (show KeptM _ _ _ _ _ _ _ _; dsimp only))

theorem execScrubRead_kept (addr : Nat) (y1 : ReadEnd) {s : State} {t : State} (e : execScrubRead addr y1 s = .next t) (h : Kept K F s) : Kept K F t := by
  unfold execScrubRead at e
  injection e with e
  subst e
  repeat' (first
    | with_reducible assumption
    | with_reducible apply State.setReg_kept
    | with_reducible apply State.sectorRead_kept
    | with_reducible apply kept_foldl
    | intro _
    | with_reducible apply kept_ite)

theorem State.putTemp_kept (st : Nat) (temp : Nat) {s : State} (h : Kept K F s) : Kept K F (State.putTemp s st temp) := by
  unfold State.putTemp
  repeat' (first
    | with_reducible assumption
    | with_reducible apply State.setReg_kept)

theorem State.tempRec_kept (st : Nat) (temp : Nat) (code : Nat) {s : State} (h : Kept K F s) : Kept K F (State.tempRec s st temp code) := by
  unfold State.tempRec
  repeat' (first
    | with_reducible assumption
    | with_reducible apply State.event_kept)

theorem State.stackRead_kept (st : Nat) (temp : Nat) {s : State} (h : Kept K F s) : Kept K F (State.stackRead s st temp) := by
  unfold State.stackRead
  extract_lets x warn thr halt s0 s1 s2 s3 s4
  have h0 : Kept K F s0 := by
    show Kept K F (if _ then _ else _)
    split
    · exact h
    · exact h
  have h1 : Kept K F s1 := State.modStack_kept _ _ h0
  have h2 : Kept K F s2 := State.putTemp_kept _ _ h1
  have h3 : Kept K F s3 := by
    show Kept K F (if _ then _ else _)
    split
    · exact State.tempRec_kept _ _ _ h2
    · exact h2
  have h4 : Kept K F s4 := by
    show Kept K F (if _ then _ else _)
    split
    · exact State.tempRec_kept _ _ _ h3
    · exact h3
  split
  · exact State.tempRec_kept _ _ _ h4
  · exact h4

theorem execStackReadout_kept (stack : Nat) (temp : Nat) {s : State} {t : State} (e : execStackReadout stack temp s = .next t) (h : Kept K F s) : Kept K F t := by
  unfold execStackReadout at e
  injection e with e
  subst e
  repeat' (first
    | with_reducible assumption
    | with_reducible apply State.stackRead_kept
    | with_reducible apply kept_foldl
    | intro _
    | with_reducible apply kept_ite)

/-! Machine/HostBus.lean. -/

theorem State.bar2Units_kept (offset : Nat) (len : Nat) {s : State} (h : Kept K F s) : Kept K F (State.bar2Units s offset len) := by
  unfold State.bar2Units
  repeat' (first
    | with_reducible assumption
    | with_reducible apply State.readUnits_kept)

theorem execBar2Read_kept (offset : Nat) (len : Nat) {s : State} {t : State} (e : execBar2Read offset len s = .next t) (h : Kept K F s) : Kept K F t := by
  unfold execBar2Read at e
  injection e with e
  subst e
  repeat' (first
    | with_reducible assumption
    | with_reducible apply State.bar2Units_kept
    | with_reducible apply State.access_kept
    | with_reducible apply State.emit_kept
    | with_reducible apply kept_foldl
    | intro _)

theorem State.bar2Store_kept (offset : Nat) (data : List Byte) {s : State} (h : Kept K F s) : Kept K F (State.bar2Store s offset data) := by
  unfold State.bar2Store
  repeat' (first
    | with_reducible assumption
    | with_reducible apply State.cacheRange_kept
    | with_reducible apply State.countEvent_kept
    | with_reducible apply State.stkWrite_kept
    | with_reducible apply kept_foldl
    | intro _
    | with_reducible apply kept_ite)

theorem execBar2Write_kept (offset : Nat) (data : List Byte) {s : State} {t : State} (e : execBar2Write offset data s = .next t) (h : Kept K F s) : Kept K F t := by
  unfold execBar2Write at e
  injection e with e
  subst e
  repeat' (first
    | with_reducible assumption
    | with_reducible apply State.bar2Store_kept
    | with_reducible apply State.access_kept)

theorem State.hostReadEnd_kept (addr : Nat) (ok : Bool) {s : State} (h : Kept K F s) : Kept K F (State.hostReadEnd s addr ok) := by
  unfold State.hostReadEnd
  repeat' (first
    | with_reducible assumption
    | with_reducible apply kept_foldl
    | intro _
    | with_reducible apply kept_ite
    | dsimp only
    | split
    | with_reducible apply KeptM.back
    | (show KeptM _ _ _ _ _ _ _ _; dsimp only))

theorem execHostReadCompletion_kept (addr : Nat) (ok : Bool) {s : State} {t : State} (e : execHostReadCompletion addr ok s = .next t) (h : Kept K F s) : Kept K F t := by
  unfold execHostReadCompletion at e
  injection e with e
  subst e
  repeat' (first
    | with_reducible assumption
    | with_reducible apply State.hostReadEnd_kept)

theorem State.holdoffEnd_kept (v : Nat) {s : State} (h : Kept K F s) : Kept K F (State.holdoffEnd s v) := by
  unfold State.holdoffEnd
  repeat' (first
    | with_reducible assumption
    | with_reducible apply State.msixSend_kept
    | with_reducible apply kept_foldl
    | intro _
    | with_reducible apply kept_ite
    | dsimp only
    | split
    | with_reducible apply KeptM.back
    | (show KeptM _ _ _ _ _ _ _ _; dsimp only))

theorem execMsixHoldoffEnd_kept (vector : Nat) {s : State} {t : State} (e : execMsixHoldoffEnd vector s = .next t) (h : Kept K F s) : Kept K F t := by
  unfold execMsixHoldoffEnd at e
  injection e with e
  subst e
  repeat' (first
    | with_reducible assumption
    | with_reducible apply State.holdoffEnd_kept)

theorem execPcieLinkDown_kept {s : State} {t : State} (e : execPcieLinkDown s = .next t) (h : Kept K F s) : Kept K F t := by
  unfold execPcieLinkDown at e
  injection e with e
  subst e
  repeat' (first
    | with_reducible assumption
    | with_reducible apply kept_foldl
    | intro _
    | with_reducible apply kept_ite
    | dsimp only
    | split
    | with_reducible apply KeptM.back
    | (show KeptM _ _ _ _ _ _ _ _; dsimp only))

theorem execConfigurationRequest_kept {s : State} {t : State} (e : execConfigurationRequest s = .next t) (h : Kept K F s) : Kept K F t := by
  unfold execConfigurationRequest at e
  injection e with e
  subst e
  repeat' (first
    | with_reducible assumption
    | with_reducible apply State.emit_kept
    | with_reducible apply kept_foldl
    | intro _
    | with_reducible apply kept_ite)

/-! Machine/Thermal.lean. -/

theorem State.settleDie_kept (old : State) (d : Nat) {s : State} (h : Kept K F s) : Kept K F (State.settleDie s old d) := by
  unfold State.settleDie
  repeat' (first
    | with_reducible assumption
    | with_reducible apply State.settle_kept)

theorem State.powerFloor_kept (mask : Nat) {s : State} (h : Kept K F s) : Kept K F (State.powerFloor s mask) := by
  unfold State.powerFloor
  repeat' (first
    | with_reducible assumption
    | with_reducible apply State.tick_kept
    | with_reducible apply State.event_kept
    | with_reducible apply kept_foldl
    | intro _
    | with_reducible apply kept_ite)

theorem State.lowerPwr_kept (d : Nat) {s : State} (h : Kept K F s) : Kept K F (State.lowerPwr s d) := by
  unfold State.lowerPwr
  repeat' (first
    | with_reducible assumption
    | with_reducible apply State.settleDie_kept
    | with_reducible apply State.powerFloor_kept
    | with_reducible apply State.modDie_kept
    | with_reducible apply kept_foldl
    | intro _
    | with_reducible apply kept_ite)

theorem State.lowerThm_kept (d : Nat) {s : State} (h : Kept K F s) : Kept K F (State.lowerThm s d) := by
  unfold State.lowerThm
  repeat' (first
    | with_reducible assumption
    | with_reducible apply State.settleDie_kept
    | with_reducible apply State.powerFloor_kept
    | with_reducible apply State.modDie_kept
    | with_reducible apply kept_foldl
    | intro _
    | with_reducible apply kept_ite)

theorem State.lowerPkg_kept {s : State} (h : Kept K F s) : Kept K F (State.lowerPkg s) := by
  unfold State.lowerPkg
  repeat' (first
    | with_reducible assumption
    | with_reducible apply State.powerFloor_kept
    | with_reducible apply State.settle_kept
    | with_reducible apply kept_foldl
    | intro _
    | with_reducible apply kept_ite
    | dsimp only
    | split
    | with_reducible apply KeptM.back
    | (show KeptM _ _ _ _ _ _ _ _; dsimp only))

theorem State.raisePwr_kept (d : Nat) {s : State} (h : Kept K F s) : Kept K F (State.raisePwr s d) := by
  unfold State.raisePwr
  repeat' (first
    | with_reducible assumption
    | with_reducible apply State.settleDie_kept
    | with_reducible apply State.modDie_kept)

theorem State.raiseThm_kept (d : Nat) {s : State} (h : Kept K F s) : Kept K F (State.raiseThm s d) := by
  unfold State.raiseThm
  repeat' (first
    | with_reducible assumption
    | with_reducible apply State.settleDie_kept
    | with_reducible apply State.modDie_kept)

theorem State.raisePkg_kept {s : State} (h : Kept K F s) : Kept K F (State.raisePkg s) := by
  unfold State.raisePkg
  repeat' (first
    | with_reducible assumption
    | with_reducible apply State.settle_kept
    | with_reducible apply kept_foldl
    | intro _
    | with_reducible apply kept_ite
    | dsimp only
    | split
    | with_reducible apply KeptM.back
    | (show KeptM _ _ _ _ _ _ _ _; dsimp only))

theorem State.setCool_kept (d : Nat) (n : Nat) {s : State} (h : Kept K F s) : Kept K F (State.setCool s d n) := by
  unfold State.setCool
  repeat' (first
    | with_reducible assumption
    | with_reducible apply State.modDie_kept
    | with_reducible apply kept_foldl
    | intro _
    | with_reducible apply kept_ite
    | dsimp only
    | split
    | with_reducible apply KeptM.back
    | (show KeptM _ _ _ _ _ _ _ _; dsimp only))

theorem State.thmDie_kept (d : Nat) (temp : Nat) {s : State} (h : Kept K F s) : Kept K F (State.thmDie s d temp) := by
  unfold State.thmDie
  repeat' (first
    | with_reducible assumption
    | with_reducible apply State.setRegField_kept
    | with_reducible apply State.event_kept
    | with_reducible apply kept_foldl
    | intro _
    | with_reducible apply kept_ite)

theorem execDieReadout_kept (die : Nat) (temp : Nat) {s : State} {t : State} (e : execDieReadout die temp s = .next t) (h : Kept K F s) : Kept K F t := by
  unfold execDieReadout at e
  injection e with e
  subst e
  repeat' (first
    | with_reducible assumption
    | with_reducible apply State.thmDie_kept
    | with_reducible apply State.raisePkg_kept
    | with_reducible apply State.lowerThm_kept
    | with_reducible apply State.lowerPkg_kept
    | with_reducible apply State.raiseThm_kept
    | with_reducible apply State.setCool_kept
    | with_reducible apply kept_foldl
    | intro _
    | with_reducible apply kept_ite)

theorem execPowerWindow_kept (die : Nat) (energy : Nat) {s : State} {t : State} (e : execPowerWindow die energy s = .next t) (h : Kept K F s) : Kept K F t := by
  unfold execPowerWindow at e
  injection e with e
  subst e
  repeat' (first
    | with_reducible assumption
    | with_reducible apply State.setReg_kept
    | with_reducible apply State.incReg_kept
    | with_reducible apply State.modDie_kept
    | with_reducible apply State.raisePwr_kept
    | with_reducible apply State.lowerPwr_kept
    | with_reducible apply kept_foldl
    | intro _
    | with_reducible apply kept_ite)

theorem execPkgPowerSample_kept (watts : Nat) {s : State} {t : State} (e : execPkgPowerSample watts s = .next t) (h : Kept K F s) : Kept K F t := by
  unfold execPkgPowerSample at e
  injection e with e
  subst e
  repeat' (first
    | with_reducible assumption
    | with_reducible apply State.setReg_kept
    | with_reducible apply State.lowerPkg_kept
    | with_reducible apply kept_foldl
    | intro _
    | with_reducible apply kept_ite
    | dsimp only
    | split
    | with_reducible apply KeptM.back
    | (show KeptM _ _ _ _ _ _ _ _; dsimp only))

theorem execPkgPowerAverage_kept (watts : Nat) {s : State} {t : State} (e : execPkgPowerAverage watts s = .next t) (h : Kept K F s) : Kept K F t := by
  unfold execPkgPowerAverage at e
  injection e with e
  subst e
  repeat' (first
    | with_reducible assumption
    | with_reducible apply State.setReg_kept
    | with_reducible apply State.raisePkg_kept
    | with_reducible apply State.lowerPkg_kept
    | with_reducible apply kept_foldl
    | intro _
    | with_reducible apply kept_ite
    | dsimp only
    | split
    | with_reducible apply KeptM.back
    | (show KeptM _ _ _ _ _ _ _ _; dsimp only))

theorem execShutterPauseEnd_kept (y0 : Nat) (y1 : Nat) {s : State} {t : State} (e : execShutterPauseEnd y0 y1 s = .next t) (h : Kept K F s) : Kept K F t := by
  unfold execShutterPauseEnd at e
  injection e with e
  subst e
  repeat' (first
    | with_reducible assumption
    | with_reducible apply kept_foldl
    | intro _
    | with_reducible apply kept_ite
    | dsimp only
    | split
    | with_reducible apply KeptM.back
    | (show KeptM _ _ _ _ _ _ _ _; dsimp only))

theorem execClockSettleEnd_kept (die : Nat) (pos : Nat) {s : State} {t : State} (e : execClockSettleEnd die pos s = .next t) (h : Kept K F s) : Kept K F t := by
  unfold execClockSettleEnd at e
  injection e with e
  subst e
  repeat' (first
    | with_reducible assumption
    | (with_reducible apply State.modTile_kept (by intro _ w; exact w))
    | with_reducible apply kept_foldl
    | intro _
    | with_reducible apply kept_ite)

/-! Machine/Operands.lean. -/

theorem State.elPut_kept (v : Env) (d : Desc) (lin : Nat) (x : Nat) {s : State} (h : Kept K F s) : Kept K F (State.elPut s v d lin x) := by
  unfold State.elPut
  repeat' (first
    | with_reducible assumption
    | with_reducible apply State.spPut_kept
    | with_reducible apply kept_foldl
    | intro _
    | with_reducible apply kept_ite)

theorem State.mxBlockWrite_kept (v : Env) (d : Desc) (els : List OutEl) (blk : List Nat) {s : State} (h : Kept K F s) : Kept K F (State.mxBlockWrite s v d els blk).1 := by
  unfold State.mxBlockWrite
  repeat' (first
    | with_reducible assumption
    | with_reducible apply State.elPut_kept
    | with_reducible apply kept_foldl
    | intro _
    | with_reducible apply kept_ite
    | dsimp only
    | split)

theorem State.elWrite_kept (v : Env) (d : Desc) (o : OutEl) {s : State} (h : Kept K F s) : Kept K F (State.elWrite s v d o).1 := by
  unfold State.elWrite
  repeat' (first
    | with_reducible assumption
    | with_reducible apply State.elPut_kept
    | with_reducible apply kept_foldl
    | intro _
    | with_reducible apply kept_ite
    | dsimp only
    | split)

theorem State.writeEls_kept (v : Env) (d : Desc) (els : List OutEl) {s : State} (h : Kept K F s) : Kept K F (State.writeEls s v d els).1 := by
  unfold State.writeEls
  repeat' (first
    | with_reducible assumption
    | with_reducible apply State.spClean_kept
    | with_reducible apply State.mxBlockWrite_kept
    | with_reducible apply State.elWrite_kept
    | with_reducible apply kept_foldl
    | with_reducible apply kept_foldl_fst
    | intro _
    | with_reducible apply kept_ite
    | dsimp only
    | split)

end Sys2Proof.Machine
end

