-- ==== Sys2Proof/Laws/KeptStep.lean ====
section
/-! SUPPORT. What the operations of step control, plates, security, host commands, rotation, power, management and the fabric keep (Laws/Kept.lean): one lemma per function, named after it. -/

namespace Sys2Proof.Machine

variable {K : List (Option Committed) → Prop} {F : Mem → Prop}

/-! Machine/StepCtl.lean. -/

theorem State.modRun_kept (c : Ctx) (f : StepRun → StepRun) {s : State} (h : Kept K F s) : Kept K F (State.modRun s c f) := by
  unfold State.modRun
  repeat' (first
    | with_reducible assumption
    | (with_reducible apply State.modCx_kept (by intro _; rfl)))

theorem State.dropArb_kept (c : Ctx) {s : State} (h : Kept K F s) : Kept K F (State.dropArb s c) := by
  unfold State.dropArb
  repeat' (first
    | with_reducible assumption
    | with_reducible apply kept_foldl
    | intro _
    | with_reducible apply kept_ite
    | dsimp only
    | split
    | with_reducible apply KeptM.back
    | (show KeptM _ _ _ _ _ _ _ _; dsimp only)
    | with_reducible apply KeptM.stkN
    | with_reducible apply KeptM.stk1
    | with_reducible apply KeptM.rsvN
    | with_reducible apply KeptM.rsvClear
    | with_reducible apply KeptM.hostN
    | with_reducible apply KeptM.tilesMap)

theorem State.abandon_kept (c : Ctx) {s : State} (h : Kept K F s) : Kept K F (State.abandon s c) := by
  unfold State.abandon
  repeat' (first
    | with_reducible assumption
    | with_reducible apply State.dropArb_kept
    | (with_reducible apply State.modCx_kept (by intro _; rfl))
    | with_reducible apply kept_foldl
    | intro _
    | with_reducible apply kept_ite
    | dsimp only
    | split)

theorem State.faultDown_kept (c : Ctx) (kind : Nat) (rank : Nat) (m : Nat × Nat) {s : State} (h : Kept K F s) : Kept K F (State.faultDown s c kind rank m) := by
  unfold State.faultDown
  repeat' (first
    | with_reducible assumption
    | with_reducible apply State.emit_kept
    | with_reducible apply kept_foldl
    | intro _
    | with_reducible apply kept_ite)

theorem State.faultSend_kept (c : Ctx) (kind : Nat) (m : Nat × Nat) {s : State} (h : Kept K F s) : Kept K F (State.faultSend s c kind m) := by
  unfold State.faultSend
  repeat' (first
    | with_reducible assumption
    | with_reducible apply State.faultDown_kept
    | with_reducible apply State.emit_kept
    | with_reducible apply kept_foldl
    | intro _
    | with_reducible apply kept_ite)

theorem State.postMarker_kept (c : Ctx) (code : Nat) (seq : Nat) {s : State} (h : Kept K F s) : Kept K F (State.postMarker s c code seq) := by
  unfold State.postMarker
  repeat' (first
    | with_reducible assumption
    | with_reducible apply State.modRun_kept
    | with_reducible apply State.abandon_kept
    | with_reducible apply State.faultSend_kept
    | with_reducible apply kept_foldl
    | intro _
    | with_reducible apply kept_ite
    | dsimp only
    | split)

theorem State.killHw_kept (page : Nat) (c : Ctx) (r : FRec) {s : State} (h : Kept K F s) : Kept K F (State.killHw s page c r) := by
  unfold State.killHw
  repeat' (first
    | with_reducible assumption
    | with_reducible apply State.postMarker_kept
    | with_reducible apply State.event_kept)

theorem State.stepLost_kept (page : Nat) (c : Ctx) (r : FRec) (cause : Nat) {s : State} (h : Kept K F s) : Kept K F (State.stepLost s page c r cause) := by
  unfold State.stepLost
  repeat' (first
    | with_reducible assumption
    | with_reducible apply State.killHw_kept)

theorem State.allTctx_kept (c : Ctx) (f : TileCtx → TileCtx) {s : State} (h : Kept K F s) : Kept K F (State.allTctx s c f) := by
  unfold State.allTctx
  repeat' (first
    | with_reducible assumption
    | with_reducible apply kept_foldl
    | intro _
    | with_reducible apply kept_ite
    | dsimp only
    | split
    | with_reducible apply KeptM.back
    | (show KeptM _ _ _ _ _ _ _ _; dsimp only)
    | with_reducible apply KeptM.stkN
    | with_reducible apply KeptM.stk1
    | with_reducible apply KeptM.rsvN
    | with_reducible apply KeptM.rsvClear
    | with_reducible apply KeptM.hostN
    | with_reducible apply KeptM.tilesMap
    | (show TileSt.ok _; first | assumption | exact ⟨rfl, rfl⟩ | exact TilesOk.get ‹TilesOk _› _)
    | (rename_i w; exact ⟨w.1, (length_modAt _ _ _).trans w.2⟩))

theorem State.restartTiles_kept (c : Ctx) {s : State} (h : Kept K F s) : Kept K F (State.restartTiles s c) := by
  unfold State.restartTiles
  repeat' (first
    | with_reducible assumption
    | with_reducible apply State.allTctx_kept
    | (with_reducible apply State.modCx_kept (by intro _; rfl)))

theorem State.sendArrival_kept (c : Ctx) {s : State} (h : Kept K F s) : Kept K F (State.sendArrival s c) := by
  unfold State.sendArrival
  repeat' (first
    | with_reducible assumption
    | with_reducible apply State.restartTiles_kept
    | with_reducible apply State.modRun_kept
    | (with_reducible apply State.modCx_kept (by intro _; rfl))
    | with_reducible apply kept_foldl
    | intro _
    | with_reducible apply kept_ite
    | dsimp only
    | split)

theorem State.raiseBarrier_kept (c : Ctx) (num : Nat) {s : State} (h : Kept K F s) : Kept K F (State.raiseBarrier s c num) := by
  unfold State.raiseBarrier
  repeat' (first
    | with_reducible assumption
    | with_reducible apply State.modTctx_kept
    | (with_reducible apply State.modCx_kept (by intro _; rfl))
    | with_reducible apply kept_foldl
    | intro _
    | with_reducible apply kept_ite
    | dsimp only
    | split)

theorem State.countPhase_kept (c : Ctx) (lo : Nat) {s : State} (h : Kept K F s) : Kept K F (State.countPhase s c lo) := by
  unfold State.countPhase
  repeat' (first
    | with_reducible assumption
    | with_reducible apply State.setRegField_kept
    | with_reducible apply kept_foldl
    | intro _)

theorem State.deliverResult_kept (c : Ctx) (gate : Bool) (key : Option AttKey) (marker : Bool) {s : State} (h : Kept K F s) : Kept K F (State.deliverResult s c gate key marker) := by
  unfold State.deliverResult
  repeat' (first
    | with_reducible assumption
    | with_reducible apply State.dropArb_kept
    | with_reducible apply State.raiseBarrier_kept
    | with_reducible apply State.modRun_kept
    | with_reducible apply State.countPhase_kept
    | (with_reducible apply State.modCx_kept (by intro _; rfl))
    | with_reducible apply State.emit_kept
    | with_reducible apply kept_foldl
    | intro _
    | with_reducible apply kept_ite
    | dsimp only
    | split)

theorem State.stepCheck_kept (c : Ctx) {s : State} (h : Kept K F s) : Kept K F (State.stepCheck s c) := by
  unfold State.stepCheck
  repeat' (first
    | with_reducible assumption
    | with_reducible apply State.emit_kept
    | with_reducible apply State.deliverResult_kept
    | with_reducible apply kept_foldl
    | intro _
    | with_reducible apply kept_ite
    | dsimp only
    | split)

theorem State.lineEnded_kept (c : Ctx) {s : State} (h : Kept K F s) : Kept K F (State.lineEnded s c) := by
  unfold State.lineEnded
  repeat' (first
    | with_reducible assumption
    | with_reducible apply State.sendArrival_kept
    | with_reducible apply State.stepCheck_kept)

theorem State.dropTraffic_kept (c : Ctx) {s : State} (h : Kept K F s) : Kept K F (State.dropTraffic s c) := by
  unfold State.dropTraffic
  repeat' (first
    | with_reducible assumption
    | with_reducible apply kept_foldl
    | intro _
    | with_reducible apply kept_ite
    | dsimp only
    | split
    | with_reducible apply KeptM.back
    | (show KeptM _ _ _ _ _ _ _ _; dsimp only))

theorem State.startReplay_kept (c : Ctx) {s : State} (h : Kept K F s) : Kept K F (State.startReplay s c) := by
  unfold State.startReplay
  repeat' (first
    | with_reducible assumption
    | with_reducible apply State.dropTraffic_kept
    | with_reducible apply State.dropArb_kept
    | (with_reducible apply State.modCx_kept (by intro _; rfl))
    | with_reducible apply kept_foldl
    | intro _
    | with_reducible apply kept_ite
    | dsimp only
    | split)

theorem State.actFault_kept (c : Ctx) (kind : Nat) (attempt : Nat) (stepLo : Nat) {s : State} (h : Kept K F s) : Kept K F (State.actFault s c kind attempt stepLo) := by
  unfold State.actFault
  repeat' (first
    | with_reducible assumption
    | with_reducible apply State.lineEnded_kept
    | with_reducible apply State.startReplay_kept
    | with_reducible apply State.abandon_kept
    | with_reducible apply kept_foldl
    | intro _
    | with_reducible apply kept_ite
    | dsimp only
    | split)

theorem State.askReplay_kept (page : Nat) (c : Ctx) (r : FRec) (cause : Nat) {s : State} (h : Kept K F s) : Kept K F (State.askReplay s page c r cause) := by
  unfold State.askReplay
  repeat' (first
    | with_reducible assumption
    | with_reducible apply State.stepLost_kept
    | with_reducible apply State.actFault_kept
    | with_reducible apply State.faultSend_kept
    | with_reducible apply State.event_kept
    | with_reducible apply kept_foldl
    | intro _
    | with_reducible apply kept_ite
    | dsimp only
    | split)

theorem State.countPerms_kept (y1 : Nat) (n : Nat) {s : State} (h : Kept K F s) : Kept K F (State.countPerms s y1 n) := by
  unfold State.countPerms
  repeat' (first
    | with_reducible assumption
    | with_reducible apply State.incReg64_kept)

theorem State.refuseStep_kept (c : Ctx) (code : Nat) (rank : Nat) (coords : List Nat) {s : State} (h : Kept K F s) : Kept K F (State.refuseStep s c code rank coords) := by
  unfold State.refuseStep
  repeat' (first
    | with_reducible assumption
    | with_reducible apply State.cplPush_kept
    | with_reducible apply State.ctxRecord_kept
    | (with_reducible apply State.modCx_kept (by intro _; rfl))
    | with_reducible apply kept_foldl
    | intro _
    | with_reducible apply kept_ite
    | dsimp only
    | split)

theorem State.deliverBatch_kept (c : Ctx) (digest : Digest) (refusal : Option RefusalMark) {s : State} (h : Kept K F s) : Kept K F (State.deliverBatch s c digest refusal) := by
  unfold State.deliverBatch
  repeat' (first
    | with_reducible assumption
    | with_reducible apply State.restartTiles_kept
    | with_reducible apply State.countPerms_kept
    | with_reducible apply State.refuseStep_kept
    | (with_reducible apply State.modCx_kept (by intro _; rfl))
    | with_reducible apply State.emit_kept
    | with_reducible apply kept_foldl
    | intro _
    | with_reducible apply kept_ite
    | dsimp only
    | split)

theorem State.shardCheck_kept (c : Ctx) {s : State} (h : Kept K F s) : Kept K F (State.shardCheck s c) := by
  unfold State.shardCheck
  repeat' (first
    | with_reducible assumption
    | with_reducible apply State.deliverBatch_kept
    | with_reducible apply State.countPerms_kept
    | with_reducible apply State.emit_kept
    | with_reducible apply kept_foldl
    | intro _
    | with_reducible apply kept_ite
    | dsimp only
    | split)

theorem State.almPush_kept (c : Ctx) (bs : List Byte) {s : State} (h : Kept K F s) : Kept K F (State.almPush s c bs) := by
  unfold State.almPush
  repeat' (first
    | with_reducible assumption
    | with_reducible apply State.hostWrite_kept
    | (with_reducible apply State.modCx_kept (by intro _; rfl))
    | with_reducible apply State.writeTails_kept
    | with_reducible apply State.signal_kept)

theorem State.loadInput_kept (c : Ctx) (j : Nat) (src : Nat) {s : State} (h : Kept K F s) : Kept K F (State.loadInput s c j src) := by
  unfold State.loadInput
  repeat' (first
    | with_reducible assumption
    | with_reducible apply State.spMark_kept
    | with_reducible apply State.spWrite_kept
    | with_reducible apply kept_foldl
    | intro _)

theorem State.kill_kept (c : Ctx) (r : FRec) {s : State} (h : Kept K F s) : Kept K F (State.kill s c r) := by
  unfold State.kill
  repeat' (first
    | with_reducible assumption
    | with_reducible apply State.ctxRecord_kept
    | with_reducible apply State.postMarker_kept)

theorem State.raiseFlags_kept (c : Ctx) (f : Flags) {s : State} (h : Kept K F s) : Kept K F (State.raiseFlags s c f) := by
  unfold State.raiseFlags
  repeat' (first
    | with_reducible assumption
    | (with_reducible apply State.modCx_kept (by intro _; rfl)))

theorem State.endStep_kept (c : Ctx) {s : State} (h : Kept K F s) : Kept K F (State.endStep s c) := by
  unfold State.endStep
  repeat' (first
    | with_reducible assumption
    | with_reducible apply State.dropTraffic_kept
    | with_reducible apply State.closeWindows_kept
    | with_reducible apply State.restartTiles_kept
    | (with_reducible apply State.modCx_kept (by intro _; rfl)))

theorem State.commitStep_kept (c : Ctx) (r : StepRun) {s : State} (h : Kept (fun k => k.length = 4) F s) : Kept (fun k => k.length = 4) F (State.commitStep s c r) := by
  unfold State.commitStep
  repeat' (first
    | with_reducible assumption
    | with_reducible apply State.cplPush_kept
    | with_reducible apply State.almPush_kept
    | with_reducible apply State.endStep_kept
    | with_reducible apply State.modCx_number)

theorem State.gateCheck_kept (c : Ctx) {s : State} (h : Kept K F s) : Kept K F (State.gateCheck s c) := by
  unfold State.gateCheck
  repeat' (first
    | with_reducible assumption
    | with_reducible apply State.emit_kept
    | with_reducible apply State.deliverResult_kept
    | with_reducible apply kept_foldl
    | intro _
    | with_reducible apply kept_ite
    | dsimp only
    | split)

theorem execBatchLoadComplete_kept (c : Ctx) {s : State} {t : State} (e : execBatchLoadComplete c s = .next t) (h : Kept K F s) : Kept K F t := by
  unfold execBatchLoadComplete at e
  injection e with e
  subst e
  repeat' (first
    | with_reducible assumption
    | with_reducible apply State.countPerms_kept
    | with_reducible apply State.modRun_kept
    | with_reducible apply State.loadInput_kept
    | with_reducible apply State.shardCheck_kept
    | with_reducible apply kept_foldl
    | intro _
    | with_reducible apply kept_ite
    | dsimp only
    | split)

theorem execShard_kept (c : Ctx) (child : Nat) (stepLo : Nat) (digests : List (Nat × Digest)) (refusal : Option RefusalMark) {s : State} {t : State} (e : execShard c child digests refusal s stepLo = .next t) (h : Kept K F s) : Kept K F t := by
  unfold execShard at e
  injection e with e
  subst e
  repeat' (first
    | with_reducible assumption
    | with_reducible apply State.countEvent_kept
    | (with_reducible apply State.modCx_kept (by intro _; rfl))
    | with_reducible apply State.shardCheck_kept
    | with_reducible apply kept_foldl
    | intro _
    | with_reducible apply kept_ite)

theorem execBatch_kept (c : Ctx) (digest : Digest) (refusal : Option RefusalMark) {s : State} {t : State} (e : execBatch c digest refusal s = .next t) (h : Kept K F s) : Kept K F t := by
  unfold execBatch at e
  injection e with e
  subst e
  repeat' (first
    | with_reducible assumption
    | with_reducible apply State.deliverBatch_kept
    | with_reducible apply kept_foldl
    | intro _
    | with_reducible apply kept_ite)

theorem execGateUp_kept (c : Ctx) (child : Nat) (attempt : Nat) (key : Option AttKey) (marker : Bool) {s : State} {t : State} (e : execGateUp c child attempt key marker s = .next t) (h : Kept K F s) : Kept K F t := by
  unfold execGateUp at e
  injection e with e
  subst e
  repeat' (first
    | with_reducible assumption
    | with_reducible apply State.gateCheck_kept
    | with_reducible apply State.modRun_kept
    | with_reducible apply kept_foldl
    | intro _
    | with_reducible apply kept_ite)

theorem execStepUp_kept (c : Ctx) (child : Nat) (attempt : Nat) (key : Option AttKey) (marker : Bool) {s : State} {t : State} (e : execStepUp c child attempt key marker s = .next t) (h : Kept K F s) : Kept K F t := by
  unfold execStepUp at e
  injection e with e
  subst e
  repeat' (first
    | with_reducible assumption
    | with_reducible apply State.modRun_kept
    | with_reducible apply State.stepCheck_kept
    | with_reducible apply kept_foldl
    | intro _
    | with_reducible apply kept_ite)

theorem execResult_kept (c : Ctx) (gate : Bool) (key : Option AttKey) (marker : Bool) {s : State} {t : State} (e : execResult c gate key marker s = .next t) (h : Kept K F s) : Kept K F t := by
  unfold execResult at e
  injection e with e
  subst e
  repeat' (first
    | with_reducible assumption
    | with_reducible apply State.deliverResult_kept
    | with_reducible apply kept_foldl
    | intro _
    | with_reducible apply kept_ite
    | dsimp only
    | split)

theorem execFault_kept (c : Ctx) (kind : Nat) (rank : Nat) (attempt : Nat) (stepLo : Nat) (fromChild : Bool) {s : State} {t : State} (e : execFault c kind rank fromChild s attempt stepLo = .next t) (h : Kept K F s) : Kept K F t := by
  unfold execFault at e
  injection e with e
  subst e
  repeat' (first
    | with_reducible assumption
    | with_reducible apply State.actFault_kept
    | with_reducible apply State.faultDown_kept
    | with_reducible apply State.emit_kept
    | with_reducible apply kept_foldl
    | intro _
    | with_reducible apply kept_ite)

theorem State.boundary_kept (c : Ctx) {s : State} (h : Kept K F s) : Kept K F (State.boundary s c) := by
  unfold State.boundary
  repeat' (first
    | with_reducible assumption
    | with_reducible apply State.modRun_kept
    | (with_reducible apply State.modCx_kept (by intro _; rfl))
    | with_reducible apply State.stepCheck_kept
    | with_reducible apply kept_foldl
    | intro _
    | with_reducible apply kept_ite)

theorem execStepBoundary_kept (c : Ctx) {s : State} {t : State} (e : execStepBoundary c s = .next t) (h : Kept K F s) : Kept K F t := by
  unfold execStepBoundary at e
  injection e with e
  subst e
  repeat' (first
    | with_reducible assumption
    | with_reducible apply State.boundary_kept)

theorem execMeridianPhaseComplete_kept (c : Ctx) (num : Nat) {s : State} {t : State} (e : execMeridianPhaseComplete c num s = .next t) (h : Kept K F s) : Kept K F t := by
  unfold execMeridianPhaseComplete at e
  injection e with e
  subst e
  repeat' (first
    | with_reducible assumption
    | with_reducible apply State.raiseBarrier_kept
    | with_reducible apply State.boundary_kept
    | with_reducible apply State.gateCheck_kept
    | with_reducible apply State.modRun_kept
    | with_reducible apply kept_foldl
    | intro _
    | with_reducible apply kept_ite
    | dsimp only
    | split)

theorem execAttestTimeout_kept (c : Ctx) {s : State} {t : State} (e : execAttestTimeout c s = .next t) (h : Kept K F s) : Kept K F t := by
  unfold execAttestTimeout at e
  injection e with e
  subst e
  repeat' (first
    | with_reducible assumption
    | with_reducible apply State.dropArb_kept
    | with_reducible apply State.ctxRecord_kept
    | (with_reducible apply State.modCx_kept (by intro _; rfl))
    | with_reducible apply kept_foldl
    | intro _
    | with_reducible apply kept_ite
    | dsimp only
    | split)

/-! Machine/Plates.lean. -/

theorem State.dropReader_kept (id : Nat) {s : State} (h : Kept K F s) : Kept K F (State.dropReader s id) := by
  unfold State.dropReader
  repeat' (first
    | with_reducible assumption
    | with_reducible apply kept_foldl
    | intro _
    | with_reducible apply kept_ite
    | dsimp only
    | split
    | with_reducible apply KeptM.back
    | (show KeptM _ _ _ _ _ _ _ _; dsimp only))

theorem State.cutReader_kept (r : Reader) (code : Nat) (seq : Nat) {s : State} (h : Kept K F s) : Kept K F (State.cutReader s r code seq) := by
  unfold State.cutReader
  repeat' (first
    | with_reducible assumption
    | with_reducible apply State.dropReader_kept
    | with_reducible apply State.complete_kept
    | (with_reducible apply State.modCx_kept (by intro _; rfl))
    | with_reducible apply kept_foldl
    | intro _
    | with_reducible apply kept_ite
    | dsimp only
    | split)

theorem State.cutReaders_kept (p : Reader → Bool) {s : State} (h : Kept K F s) : Kept K F (State.cutReaders s p) := by
  unfold State.cutReaders
  repeat' (first
    | with_reducible assumption
    | with_reducible apply State.cutReader_kept
    | with_reducible apply kept_foldl
    | intro _)

theorem State.modReader_kept (id : Nat) (f : Reader → Reader) {s : State} (h : Kept K F s) : Kept K F (State.modReader s id f) := by
  unfold State.modReader
  repeat' (first
    | with_reducible assumption
    | with_reducible apply kept_foldl
    | intro _
    | with_reducible apply kept_ite
    | dsimp only
    | split
    | with_reducible apply KeptM.back
    | (show KeptM _ _ _ _ _ _ _ _; dsimp only))

theorem State.targetFail_kept (r : Reader) {s : State} (h : Kept K F s) : Kept K F (State.targetFail s r) := by
  unfold State.targetFail
  repeat' (first
    | with_reducible assumption
    | with_reducible apply State.signal_kept
    | with_reducible apply State.modReader_kept
    | with_reducible apply State.event_kept)

theorem State.holdWrite_kept (p : Space) (a : Nat) (n : Nat) {s : State} (h : Kept K F s) : Kept K F (State.holdWrite s p a n).1 := by
  unfold State.holdWrite
  repeat' (first
    | with_reducible assumption
    | with_reducible apply kept_foldl
    | intro _
    | with_reducible apply kept_ite
    | dsimp only
    | split
    | with_reducible apply KeptM.back
    | (show KeptM _ _ _ _ _ _ _ _; dsimp only))

theorem State.startDrain_kept (c : Ctx) (host : Option Nat) (buddy : Bool) (digest : Bool) (tag : Option CmdTag) {s : State} (h : Kept K F s) : Kept K F (State.startDrain s c host buddy digest tag) := by
  unfold State.startDrain
  repeat' (first
    | with_reducible assumption
    | with_reducible apply State.hostWrite_kept
    | (with_reducible apply State.modCx_kept (by intro _; rfl))
    | with_reducible apply State.emit_kept
    | with_reducible apply kept_foldl
    | intro _
    | with_reducible apply kept_ite
    | dsimp only
    | split
    | with_reducible apply KeptM.back
    | (show KeptM _ _ _ _ _ _ _ _; dsimp only))

theorem State.hostChunk_kept (r : Reader) (i : Nat) {s : State} (h : Kept K F s) : Kept K F (State.hostChunk s r i) := by
  unfold State.hostChunk
  repeat' (first
    | with_reducible assumption
    | with_reducible apply State.hostWrite_kept
    | with_reducible apply kept_foldl
    | intro _
    | with_reducible apply kept_ite
    | dsimp only
    | split)

theorem State.buddySend_kept (r : Reader) (i : Nat) (bs : List Byte) {s : State} (h : Kept K F s) : Kept K F (State.buddySend s r i bs) := by
  unfold State.buddySend
  repeat' (first
    | with_reducible assumption
    | with_reducible apply State.modReader_kept
    | with_reducible apply State.emit_kept
    | with_reducible apply kept_foldl
    | intro _
    | with_reducible apply kept_ite
    | dsimp only
    | split)

theorem State.flushLate_kept (r : Reader) {s : State} (h : Kept K F s) : Kept K F (State.flushLate s r) := by
  unfold State.flushLate
  repeat' (first
    | with_reducible assumption
    | with_reducible apply State.buddySend_kept
    | with_reducible apply State.hostChunk_kept
    | with_reducible apply State.modReader_kept
    | with_reducible apply kept_foldl
    | intro _
    | with_reducible apply kept_ite)

theorem State.digestSend_kept (c : Ctx) (stepNo : Nat) (d : Digest) {s : State} (h : Kept K F s) : Kept K F (State.digestSend s c stepNo d) := by
  unfold State.digestSend
  repeat' (first
    | with_reducible assumption
    | with_reducible apply State.emit_kept)

theorem State.drainChunk_kept (r : Reader) (i : Nat) {s : State} (h : Kept K F s) : Kept K F (State.drainChunk s r i) := by
  unfold State.drainChunk
  repeat' (first
    | with_reducible assumption
    | with_reducible apply State.buddySend_kept
    | with_reducible apply State.readRange_kept
    | with_reducible apply State.hostChunk_kept
    | with_reducible apply State.digestSend_kept
    | with_reducible apply State.modReader_kept
    | with_reducible apply kept_foldl
    | intro _
    | with_reducible apply kept_ite)

theorem State.copyChunk_kept (r : Reader) (dst : Ctx) (i : Nat) {s : State} (h : Kept K F s) : Kept K F (State.copyChunk s r dst i) := by
  unfold State.copyChunk
  repeat' (first
    | with_reducible assumption
    | (with_reducible apply kept_of_pair; assumption)
    | with_reducible apply State.spMark_kept
    | with_reducible apply State.readRange_kept
    | with_reducible apply State.modReader_kept
    | with_reducible apply State.holdWrite_kept
    | with_reducible apply State.spWrite_kept
    | with_reducible apply kept_foldl
    | with_reducible apply kept_foldl_fst
    | intro _
    | with_reducible apply kept_ite)

theorem State.readChunk_kept (r : Reader) {s : State} (h : Kept K F s) : Kept K F (State.readChunk s r) := by
  unfold State.readChunk
  repeat' (first
    | with_reducible assumption
    | with_reducible apply State.copyChunk_kept
    | with_reducible apply State.drainChunk_kept
    | with_reducible apply kept_foldl
    | intro _
    | with_reducible apply kept_ite
    | dsimp only
    | split)

theorem execPlateChunkRead_kept (reader : Nat) {s : State} {t : State} (e : execPlateChunkRead reader s = .next t) (h : Kept K F s) : Kept K F t := by
  unfold execPlateChunkRead at e
  injection e with e
  subst e
  repeat' (first
    | with_reducible assumption
    | with_reducible apply State.readChunk_kept
    | with_reducible apply State.flushLate_kept
    | with_reducible apply kept_foldl
    | intro _
    | with_reducible apply kept_ite
    | dsimp only
    | split)

theorem State.drainEnd_kept (r : Reader) {s : State} (h : Kept K F s) : Kept K F (State.drainEnd s r) := by
  unfold State.drainEnd
  repeat' (first
    | with_reducible assumption
    | with_reducible apply State.dropReader_kept
    | with_reducible apply State.hostChunk_kept
    | with_reducible apply State.hostWrite_kept
    | (with_reducible apply State.modCx_kept (by intro _; rfl))
    | with_reducible apply State.done_kept
    | with_reducible apply State.signal_kept
    | with_reducible apply kept_foldl
    | intro _
    | with_reducible apply kept_ite
    | dsimp only
    | split)

theorem execPlateDrainComplete_kept (reader : Nat) {s : State} {t : State} (e : execPlateDrainComplete reader s = .next t) (h : Kept K F s) : Kept K F t := by
  unfold execPlateDrainComplete at e
  injection e with e
  subst e
  repeat' (first
    | with_reducible assumption
    | with_reducible apply State.drainEnd_kept
    | with_reducible apply kept_foldl
    | intro _
    | with_reducible apply kept_ite
    | dsimp only
    | split)

theorem execPltWaitLimit_kept (c : Ctx) {s : State} {t : State} (e : execPltWaitLimit c s = .next t) (h : Kept K F s) : Kept K F t := by
  unfold execPltWaitLimit at e
  injection e with e
  subst e
  repeat' (first
    | with_reducible assumption
    | with_reducible apply State.cutReader_kept
    | with_reducible apply State.event_kept
    | with_reducible apply kept_foldl
    | intro _)

theorem execBuddyAck_kept (c : Ctx) (ok : Bool) {s : State} {t : State} (e : execBuddyAck c ok s = .next t) (h : Kept K F s) : Kept K F t := by
  unfold execBuddyAck at e
  injection e with e
  subst e
  repeat' (first
    | with_reducible assumption
    | with_reducible apply State.targetFail_kept
    | with_reducible apply State.modReader_kept
    | with_reducible apply kept_foldl
    | intro _
    | with_reducible apply kept_ite
    | dsimp only
    | split)

theorem State.rxFail_kept (rx : BuddyRx) {s : State} (h : Kept K F s) : Kept K F (State.rxFail s rx) := by
  unfold State.rxFail
  repeat' (first
    | with_reducible assumption
    | with_reducible apply State.emit_kept
    | with_reducible apply kept_foldl
    | intro _
    | with_reducible apply kept_ite
    | dsimp only
    | split
    | with_reducible apply KeptM.back
    | (show KeptM _ _ _ _ _ _ _ _; dsimp only))

theorem State.rxStart_kept (sender : Nat) (y2 : List Byte) {s : State} (h : Kept K F s) : Kept K F (State.rxStart s sender y2) := by
  unfold State.rxStart
  repeat' (first
    | with_reducible assumption
    | with_reducible apply State.stkWrite_kept
    | with_reducible apply kept_foldl
    | intro _
    | with_reducible apply kept_ite
    | dsimp only
    | split
    | with_reducible apply KeptM.back
    | (show KeptM _ _ _ _ _ _ _ _; dsimp only))

theorem State.rxEnd_kept (rx : BuddyRx) {s : State} (h : Kept K F s) : Kept K F (State.rxEnd s rx) := by
  unfold State.rxEnd
  repeat' (first
    | with_reducible assumption
    | with_reducible apply State.stkWrite_kept
    | with_reducible apply State.emit_kept
    | with_reducible apply kept_foldl
    | intro _
    | with_reducible apply kept_ite
    | dsimp only
    | split
    | with_reducible apply KeptM.back
    | (show KeptM _ _ _ _ _ _ _ _; dsimp only))

theorem State.rxChunk_kept (rx : BuddyRx) (i : Nat) (data : List Byte) {s : State} (h : Kept K F s) : Kept K F (State.rxChunk s rx i data) := by
  unfold State.rxChunk
  repeat' (first
    | with_reducible assumption
    | with_reducible apply State.injectFires_kept
    | with_reducible apply State.rxEnd_kept
    | with_reducible apply State.stkWrite_kept
    | with_reducible apply State.rxFail_kept
    | with_reducible apply State.emit_kept
    | with_reducible apply kept_foldl
    | with_reducible apply kept_foldl_fst
    | intro _
    | with_reducible apply kept_ite
    | dsimp only
    | split
    | with_reducible apply KeptM.back
    | (show KeptM _ _ _ _ _ _ _ _; dsimp only))

theorem State.rxHeader_kept (header : List Byte) {s : State} (h : Kept K F s) : Kept K F (State.rxHeader s header) := by
  unfold State.rxHeader
  repeat' (first
    | with_reducible assumption
    | with_reducible apply State.stkWrite_kept)

theorem execBuddyChunkReceive_kept (sender : Nat) (header : List Byte) (chunk : Nat) (data : List Byte) {s : State} {t : State} (e : execBuddyChunkReceive sender header chunk data s = .next t) (h : Kept K F s) : Kept K F t := by
  unfold execBuddyChunkReceive at e
  injection e with e
  subst e
  repeat' (first
    | with_reducible assumption
    | with_reducible apply State.rxHeader_kept
    | with_reducible apply State.rxFail_kept
    | with_reducible apply State.rxChunk_kept
    | with_reducible apply State.rxStart_kept
    | with_reducible apply State.emit_kept
    | with_reducible apply kept_foldl
    | intro _
    | with_reducible apply kept_ite
    | dsimp only
    | split
    | with_reducible apply KeptM.back
    | (show KeptM _ _ _ _ _ _ _ _; dsimp only))

theorem execRestoreChunkRequest_kept (port : Nat) (rank : Nat) (c : Ctx) (stepNo : Nat) (chunk : Nat) {s : State} {t : State} (e : execRestoreChunkRequest port rank c stepNo chunk s = .next t) (h : Kept K F s) : Kept K F t := by
  unfold execRestoreChunkRequest at e
  injection e with e
  subst e
  repeat' (first
    | with_reducible assumption
    | with_reducible apply State.buddySend_kept
    | with_reducible apply State.readRange_kept
    | with_reducible apply State.emit_kept
    | with_reducible apply kept_foldl
    | intro _
    | with_reducible apply kept_ite
    | dsimp only
    | split)

theorem State.plateCmd_kept (c : Ctx) (y2 : CmdTag) (p : List Byte) {s : State} (h : Kept K F s) : Kept K F (State.plateCmd s c y2 p) := by
  unfold State.plateCmd
  repeat' (first
    | with_reducible assumption
    | with_reducible apply State.done_kept
    | with_reducible apply State.refuseCode_kept
    | with_reducible apply State.startDrain_kept
    | with_reducible apply kept_foldl
    | intro _
    | with_reducible apply kept_ite)

theorem execPlate_kept (c : Ctx) {s : State} {t : State} (e : execPlate c s = .next t) (h : Kept K F s) : Kept K F t := by
  unfold execPlate at e
  injection e with e
  subst e
  repeat' (first
    | with_reducible assumption
    | with_reducible apply State.plateCmd_kept
    | with_reducible apply State.takeIf_kept
    | with_reducible apply kept_foldl
    | intro _)

theorem State.cutContext_kept (c : Ctx) {s : State} (h : Kept K F s) : Kept K F (State.cutContext s c) := by
  unfold State.cutContext
  repeat' (first
    | with_reducible assumption
    | with_reducible apply State.cutReaders_kept)

theorem State.cutStage_kept (c : Ctx) {s : State} (h : Kept K F s) : Kept K F (State.cutStage s c) := by
  unfold State.cutStage
  repeat' (first
    | with_reducible assumption
    | with_reducible apply State.complete_kept
    | with_reducible apply kept_foldl
    | intro _
    | with_reducible apply kept_ite
    | dsimp only
    | split
    | with_reducible apply KeptM.back
    | (show KeptM _ _ _ _ _ _ _ _; dsimp only))

theorem State.askChunk_kept (c : Ctx) (r : Restoring) (i : Nat) {s : State} (h : Kept K F s) : Kept K F (State.askChunk s c r i) := by
  unfold State.askChunk
  repeat' (first
    | with_reducible assumption
    | with_reducible apply State.emit_kept
    | with_reducible apply kept_foldl
    | intro _
    | with_reducible apply kept_ite)

theorem State.restoreCmd_kept (c : Ctx) (reply : List Byte) (y3 : CmdTag) (p : List Byte) {s : State} (h : Kept K F s) : Kept K F (State.restoreCmd s c reply y3 p) := by
  unfold State.restoreCmd
  repeat' (first
    | with_reducible assumption
    | with_reducible apply State.cutStage_kept
    | with_reducible apply State.cutContext_kept
    | (with_reducible apply State.modCx_kept (by intro _; rfl))
    | with_reducible apply State.refuseCode_kept
    | with_reducible apply State.askChunk_kept
    | with_reducible apply kept_foldl
    | intro _
    | with_reducible apply kept_ite
    | dsimp only
    | split
    | with_reducible apply KeptM.back
    | (show KeptM _ _ _ _ _ _ _ _; dsimp only))

theorem execRestore_kept (c : Ctx) (reply : List Byte) {s : State} {t : State} (e : execRestore c reply s = .next t) (h : Kept K F s) : Kept K F t := by
  unfold execRestore at e
  injection e with e
  subst e
  repeat' (first
    | with_reducible assumption
    | with_reducible apply State.takeIf_kept
    | with_reducible apply State.restoreCmd_kept
    | with_reducible apply kept_foldl
    | intro _)

theorem State.restoreEnd_kept (c : Ctx) (r : Restoring) (code : Nat) {s : State} (h : Kept K F s) : Kept K F (State.restoreEnd s c r code) := by
  unfold State.restoreEnd
  repeat' (first
    | with_reducible assumption
    | with_reducible apply State.skipBad_kept
    | with_reducible apply State.complete_kept
    | (with_reducible apply State.modCx_kept (by intro _; rfl))
    | with_reducible apply kept_foldl
    | intro _
    | with_reducible apply kept_ite
    | dsimp only
    | split
    | with_reducible apply KeptM.back
    | (show KeptM _ _ _ _ _ _ _ _; dsimp only))

theorem State.restoreFail_kept (c : Ctx) (r : Restoring) (code : Nat) {s : State} (h : Kept K F s) : Kept K F (State.restoreFail s c r code) := by
  unfold State.restoreFail
  repeat' (first
    | with_reducible assumption
    | with_reducible apply State.restoreEnd_kept
    | with_reducible apply State.ctxRecord_kept)

theorem State.restorePoison_kept (c : Ctx) (r : Restoring) (u : Nat) {s : State} (h : Kept K F s) : Kept K F (State.restorePoison s c r u) := by
  unfold State.restorePoison
  repeat' (first
    | with_reducible assumption
    | with_reducible apply State.restoreEnd_kept
    | with_reducible apply State.killHw_kept)

theorem execRestoreChunkArrival_kept (c : Ctx) (chunk : Nat) (data : List Byte) {s : State} {t : State} (e : execRestoreChunkArrival c chunk data s = .next t) (h : Kept K F s) : Kept K F t := by
  unfold execRestoreChunkArrival at e
  injection e with e
  subst e
  repeat' (first
    | with_reducible assumption
    | (with_reducible apply kept_of_pair; assumption)
    | with_reducible apply State.restoreFail_kept
    | with_reducible apply State.digestSend_kept
    | with_reducible apply State.askChunk_kept
    | with_reducible apply State.holdWrite_kept
    | with_reducible apply State.restorePoison_kept
    | with_reducible apply State.spWrite_kept
    | with_reducible apply kept_foldl
    | with_reducible apply kept_foldl_fst
    | intro _
    | with_reducible apply kept_ite
    | dsimp only
    | split
    | with_reducible apply KeptM.back
    | (show KeptM _ _ _ _ _ _ _ _; dsimp only))

theorem execRankDigestGather_kept (c : Ctx) (stepNo : Nat) (digests : List (Nat × Digest)) {s : State} {t : State} (e : execRankDigestGather c digests s stepNo = .next t) (h : Kept K F s) : Kept K F t := by
  unfold execRankDigestGather at e
  injection e with e
  subst e
  repeat' (first
    | with_reducible assumption
    | with_reducible apply State.modReader_kept
    | with_reducible apply State.emit_kept
    | with_reducible apply kept_foldl
    | intro _
    | with_reducible apply kept_ite
    | dsimp only
    | split
    | with_reducible apply KeptM.back
    | (show KeptM _ _ _ _ _ _ _ _; dsimp only))

theorem execRestoreComplete_kept (c : Ctx) {s : State} {t : State} (e : execRestoreComplete c s = .next t) (h : Kept (fun k => k.length = 4) F s) : Kept (fun k => k.length = 4) F t := by
  unfold execRestoreComplete at e
  injection e with e
  subst e
  repeat' (first
    | with_reducible assumption
    | with_reducible apply State.skipBad_kept
    | with_reducible apply State.restoreFail_kept
    | with_reducible apply State.done_kept
    | with_reducible apply State.modCx_number
    | with_reducible apply kept_foldl
    | intro _
    | with_reducible apply kept_ite
    | dsimp only
    | split
    | with_reducible apply KeptM.back
    | (show KeptM _ _ _ _ _ _ _ _; dsimp only))

theorem execStageComplete_kept (c : Ctx) {s : State} {t : State} (e : execStageComplete c s = .next t) (h : Kept K F s) : Kept K F t := by
  unfold execStageComplete at e
  injection e with e
  subst e
  repeat' (first
    | with_reducible assumption
    | with_reducible apply State.restoreFail_kept
    | (with_reducible apply State.modCx_kept (by intro _; rfl))
    | with_reducible apply State.done_kept
    | with_reducible apply kept_foldl
    | intro _
    | with_reducible apply kept_ite
    | dsimp only
    | split
    | with_reducible apply KeptM.back
    | (show KeptM _ _ _ _ _ _ _ _; dsimp only))

theorem State.switchCmd_kept (c : Ctx) (y2 : CmdTag) (p : List Byte) {s : State} (h : Kept (fun k => k.length = 4) F s) : Kept (fun k => k.length = 4) F (State.switchCmd s c y2 p) := by
  unfold State.switchCmd
  repeat' (first
    | with_reducible assumption
    | with_reducible apply State.done_kept
    | with_reducible apply State.refuseCode_kept
    | with_reducible apply State.modCx_number
    | with_reducible apply kept_foldl
    | intro _
    | with_reducible apply kept_ite
    | dsimp only
    | split)

theorem execSwitch_kept (c : Ctx) {s : State} {t : State} (e : execSwitch c s = .next t) (h : Kept (fun k => k.length = 4) F s) : Kept (fun k => k.length = 4) F t := by
  unfold execSwitch at e
  injection e with e
  subst e
  repeat' (first
    | with_reducible assumption
    | with_reducible apply State.takeIf_kept
    | with_reducible apply State.switchCmd_kept
    | with_reducible apply kept_foldl
    | intro _)

theorem State.pairCopyCmd_kept (c : Ctx) (y2 : CmdTag) (p : List Byte) {s : State} (h : Kept K F s) : Kept K F (State.pairCopyCmd s c y2 p) := by
  unfold State.pairCopyCmd
  repeat' (first
    | with_reducible assumption
    | (with_reducible apply State.modCx_kept (by intro _; rfl))
    | with_reducible apply State.refuseCode_kept
    | with_reducible apply kept_foldl
    | intro _
    | with_reducible apply kept_ite
    | dsimp only
    | split
    | with_reducible apply KeptM.back
    | (show KeptM _ _ _ _ _ _ _ _; dsimp only))

theorem execPairCopy_kept (c : Ctx) {s : State} {t : State} (e : execPairCopy c s = .next t) (h : Kept K F s) : Kept K F t := by
  unfold execPairCopy at e
  injection e with e
  subst e
  repeat' (first
    | with_reducible assumption
    | with_reducible apply State.takeIf_kept
    | with_reducible apply State.pairCopyCmd_kept
    | with_reducible apply kept_foldl
    | intro _)

theorem execPairCopyComplete_kept (c : Ctx) {s : State} {t : State} (e : execPairCopyComplete c s = .next t) (h : Kept (fun k => k.length = 4) F s) : Kept (fun k => k.length = 4) F t := by
  unfold execPairCopyComplete at e
  injection e with e
  subst e
  repeat' (first
    | with_reducible assumption
    | with_reducible apply State.skipBad_kept
    | with_reducible apply State.dropReader_kept
    | with_reducible apply State.done_kept
    | with_reducible apply State.modCx_number
    | with_reducible apply kept_foldl
    | intro _
    | with_reducible apply kept_ite
    | dsimp only
    | split)

theorem State.abortStep_kept (c : Ctx) (r : StepRun) (key : Option AttKey) (marker : Bool) {s : State} (h : Kept K F s) : Kept K F (State.abortStep s c r key marker) := by
  unfold State.abortStep
  repeat' (first
    | with_reducible assumption
    | with_reducible apply State.cplPush_kept
    | with_reducible apply State.almPush_kept
    | with_reducible apply State.ctxRecord_kept
    | with_reducible apply State.endStep_kept
    | (with_reducible apply State.modCx_kept (by intro _; rfl))
    | with_reducible apply State.loseKeys_kept
    | with_reducible apply kept_foldl
    | intro _
    | with_reducible apply kept_ite
    | dsimp only
    | split)

theorem execStepAbort_kept (c : Ctx) {s : State} {t : State} (e : execStepAbort c s = .next t) (h : Kept K F s) : Kept K F t := by
  unfold execStepAbort at e
  injection e with e
  subst e
  repeat' (first
    | with_reducible assumption
    | with_reducible apply State.abortStep_kept
    | with_reducible apply kept_foldl
    | intro _
    | with_reducible apply kept_ite
    | dsimp only
    | split)

theorem State.cadencePlates_kept (c : Ctx) (m : Nat) {s : State} (h : Kept K F s) : Kept K F (State.cadencePlates s c m) := by
  unfold State.cadencePlates
  repeat' (first
    | with_reducible assumption
    | with_reducible apply State.startDrain_kept
    | with_reducible apply kept_foldl
    | intro _
    | with_reducible apply kept_ite)

theorem execStepCommit_kept (c : Ctx) {s : State} {t : State} (e : execStepCommit c s = .next t) (h : Kept (fun k => k.length = 4) F s) : Kept (fun k => k.length = 4) F t := by
  unfold execStepCommit at e
  injection e with e
  subst e
  repeat' (first
    | with_reducible assumption
    | with_reducible apply State.skipBad_kept
    | with_reducible apply State.cadencePlates_kept
    | with_reducible apply State.commitStep_kept
    | with_reducible apply kept_foldl
    | intro _
    | with_reducible apply kept_ite
    | dsimp only
    | split)

/-! Machine/Commands.lean. -/

theorem State.endCoel_kept {s : State} (h : Kept K F s) : Kept K F (State.endCoel s) := by
  unfold State.endCoel
  repeat' (first
    | with_reducible assumption
    | with_reducible apply State.setReg_kept
    | with_reducible apply kept_foldl
    | intro _
    | with_reducible apply kept_ite
    | dsimp only
    | split
    | with_reducible apply KeptM.back
    | (show KeptM _ _ _ _ _ _ _ _; dsimp only))

theorem State.dbRange_kept {s : State} (h : Kept K F s) : Kept K F (State.dbRange s) := by
  unfold State.dbRange
  repeat' (first
    | with_reducible assumption
    | with_reducible apply State.errBit_kept)

theorem State.writeCmdTail_kept (c : Ctx) (idx : Nat) {s : State} (h : Kept K F s) : Kept K F (State.writeCmdTail s c idx) := by
  unfold State.writeCmdTail
  repeat' (first
    | with_reducible assumption
    | with_reducible apply State.skipBad_kept
    | with_reducible apply State.dbRange_kept
    | ((with_reducible apply State.modCx_kept); (intro _; rfl))
    | with_reducible apply kept_foldl
    | intro _
    | with_reducible apply kept_ite)

theorem execCmdTail_kept (c : Ctx) (idx : W32) {s : State} {t : State} (e : execCmdTail c idx s = .next t) (h : Kept K F s) : Kept K F t := by
  unfold execCmdTail at e
  injection e with e
  subst e
  repeat' (first
    | with_reducible assumption
    | with_reducible apply State.writeCmdTail_kept
    | with_reducible apply State.access_kept)

theorem State.writeHead_kept (r : Ring) (idx : Nat) {s : State} (h : Kept K F s) : Kept K F (State.writeHead s r idx) := by
  unfold State.writeHead
  repeat' (first
    | with_reducible assumption
    | with_reducible apply State.skipBad_kept
    | with_reducible apply State.dbRange_kept
    | ((with_reducible apply State.modCx_kept); (intro _; rfl))
    | with_reducible apply State.flushCpl_kept
    | with_reducible apply kept_foldl
    | intro _
    | with_reducible apply kept_ite
    | dsimp only
    | split
    | with_reducible apply KeptM.back
    | (show KeptM _ _ _ _ _ _ _ _; dsimp only))

theorem execRingHead_kept (r : Ring) (idx : W32) {s : State} {t : State} (e : execRingHead r idx s = .next t) (h : Kept K F s) : Kept K F t := by
  unfold execRingHead at e
  injection e with e
  subst e
  repeat' (first
    | with_reducible assumption
    | with_reducible apply State.writeHead_kept
    | with_reducible apply State.access_kept)

theorem State.dropRegs_kept (p : Nat → RegRow → Bool) {s : State} (h : Kept K F s) : Kept K F (State.dropRegs s p) := by
  unfold State.dropRegs
  repeat' (first
    | with_reducible assumption
    | with_reducible apply kept_foldl
    | intro _
    | with_reducible apply kept_ite
    | dsimp only
    | split
    | with_reducible apply KeptM.back
    | (show KeptM _ _ _ _ _ _ _ _; dsimp only))

theorem State.wipeCtx_kept (c : Ctx) {s : State} (h : Kept K F s) : Kept K F (State.wipeCtx s c) := by
  unfold State.wipeCtx
  repeat' (first
    | with_reducible assumption
    | with_reducible apply State.loseKeys_kept
    | with_reducible apply State.dropTraffic_kept
    | with_reducible apply State.closeWindows_kept
    | with_reducible apply State.endCoel_kept
    | with_reducible apply State.cutReaders_kept
    | with_reducible apply kept_foldl
    | intro _
    | with_reducible apply kept_ite
    | dsimp only
    | split
    | with_reducible apply KeptM.back
    | (show KeptM _ _ _ _ _ _ _ _; dsimp only)
    | with_reducible apply KeptM.stkN
    | with_reducible apply KeptM.stk1
    | with_reducible apply KeptM.rsvN
    | with_reducible apply KeptM.rsvClear
    | with_reducible apply KeptM.hostN
    | with_reducible apply KeptM.tilesMap
    | with_reducible apply KeptM.tilesSet
    | exact h
    | (show TileSt.ok _; first | assumption | exact ⟨rfl, rfl⟩ | exact TilesOk.get ‹TilesOk _› _)
    | (rename_i w; exact ⟨w.1, (length_modAt _ _ _).trans w.2⟩))

theorem State.ctxWipe_kept (c : Ctx) {s : State} (h : Kept K F s) : Kept K F (State.ctxWipe s c) := by
  unfold State.ctxWipe
  repeat' (first
    | with_reducible assumption
    | with_reducible apply State.wipeCtx_kept
    | with_reducible apply State.dropRegs_kept
    | ((with_reducible apply State.modCx_kept); (intro _; rfl)))

theorem State.ctxCtrl_kept (c : Ctx) (v : Nat) {s : State} (h : Kept K F s) : Kept K F (State.ctxCtrl s c v) := by
  unfold State.ctxCtrl
  repeat' (first
    | with_reducible assumption
    | with_reducible apply State.ctxWipe_kept
    | ((with_reducible apply State.modCx_kept); (intro _; rfl))
    | with_reducible apply kept_foldl
    | intro _
    | with_reducible apply kept_ite
    | dsimp only
    | split
    | with_reducible apply KeptM.back
    | (show KeptM _ _ _ _ _ _ _ _; dsimp only))

theorem State.ctxWrite_kept (c : Ctx) (v : Nat) (b : Nat) {s : State} (h : Kept K F s) : Kept K F (State.ctxWrite s c v b) := by
  unfold State.ctxWrite
  repeat' (first
    | with_reducible assumption
    | with_reducible apply State.ctxCtrl_kept
    | with_reducible apply State.access_kept
    | with_reducible apply kept_foldl
    | intro _
    | with_reducible apply kept_ite)

theorem execCtxReset_kept (c : Ctx) (v : W32) {s : State} {t : State} (e : execCtxReset c v s = .next t) (h : Kept K F s) : Kept K F t := by
  unfold execCtxReset at e
  injection e with e
  subst e
  repeat' (first
    | with_reducible assumption
    | with_reducible apply State.ctxWrite_kept)

theorem execPause_kept (c : Ctx) (v : W32) {s : State} {t : State} (e : execPause c v s = .next t) (h : Kept K F s) : Kept K F t := by
  unfold execPause at e
  injection e with e
  subst e
  repeat' (first
    | with_reducible assumption
    | with_reducible apply State.ctxWrite_kept)

theorem execResume_kept (c : Ctx) (v : W32) {s : State} {t : State} (e : execResume c v s = .next t) (h : Kept K F s) : Kept K F t := by
  unfold execResume at e
  injection e with e
  subst e
  repeat' (first
    | with_reducible assumption
    | with_reducible apply State.ctxWrite_kept)

theorem State.armCmd_kept (c : Ctx) (y2 : CmdTag) (p : List Byte) {s : State} (h : Kept K F s) : Kept K F (State.armCmd s c y2 p) := by
  unfold State.armCmd
  repeat' (first
    | with_reducible assumption
    | ((with_reducible apply State.modCx_kept); (intro _; rfl))
    | with_reducible apply State.done_kept
    | with_reducible apply State.refuseCode_kept
    | with_reducible apply kept_foldl
    | intro _
    | with_reducible apply kept_ite)

theorem execArm_kept (c : Ctx) {s : State} {t : State} (e : execArm c s = .next t) (h : Kept K F s) : Kept K F t := by
  unfold execArm at e
  injection e with e
  subst e
  repeat' (first
    | with_reducible assumption
    | with_reducible apply State.takeIf_kept
    | with_reducible apply State.armCmd_kept
    | with_reducible apply kept_foldl
    | intro _)

theorem State.disarmCmd_kept (c : Ctx) (y2 : CmdTag) (p : List Byte) {s : State} (h : Kept K F s) : Kept K F (State.disarmCmd s c y2 p) := by
  unfold State.disarmCmd
  repeat' (first
    | with_reducible assumption
    | ((with_reducible apply State.modCx_kept); (intro _; rfl))
    | with_reducible apply State.done_kept
    | with_reducible apply State.refuseCode_kept
    | with_reducible apply kept_foldl
    | intro _
    | with_reducible apply kept_ite)

theorem execDisarm_kept (c : Ctx) {s : State} {t : State} (e : execDisarm c s = .next t) (h : Kept K F s) : Kept K F t := by
  unfold execDisarm at e
  injection e with e
  subst e
  repeat' (first
    | with_reducible assumption
    | with_reducible apply State.takeIf_kept
    | with_reducible apply State.disarmCmd_kept
    | with_reducible apply kept_foldl
    | intro _)

theorem State.stepCmd_kept (c : Ctx) (y2 : CmdTag) (p : List Byte) {s : State} (h : Kept K F s) : Kept K F (State.stepCmd s c y2 p) := by
  unfold State.stepCmd
  repeat' (first
    | with_reducible assumption
    | ((with_reducible apply State.modCx_kept); (intro _; rfl))
    | with_reducible apply State.refuseCode_kept
    | with_reducible apply State.shardCheck_kept
    | with_reducible apply kept_foldl
    | intro _
    | with_reducible apply kept_ite)

theorem execStep_kept (c : Ctx) {s : State} {t : State} (e : execStep c s = .next t) (h : Kept K F s) : Kept K F t := by
  unfold execStep at e
  injection e with e
  subst e
  repeat' (first
    | with_reducible assumption
    | with_reducible apply State.takeIf_kept
    | with_reducible apply State.stepCmd_kept
    | with_reducible apply kept_foldl
    | intro _)

theorem State.revertCmd_kept (c : Ctx) (y2 : CmdTag) (p : List Byte) {s : State} (h : Kept (fun k => k.length = 4) F s) : Kept (fun k => k.length = 4) F (State.revertCmd s c y2 p) := by
  unfold State.revertCmd
  repeat' (first
    | with_reducible assumption
    | with_reducible apply State.almPush_kept
    | with_reducible apply State.complete_kept
    | with_reducible apply State.refuseCode_kept
    | with_reducible apply State.cutReaders_kept
    | with_reducible apply State.modCx_number
    | with_reducible apply kept_foldl
    | intro _
    | with_reducible apply kept_ite
    | dsimp only
    | split)

theorem execRevert_kept (c : Ctx) {s : State} {t : State} (e : execRevert c s = .next t) (h : Kept (fun k => k.length = 4) F s) : Kept (fun k => k.length = 4) F t := by
  unfold execRevert at e
  injection e with e
  subst e
  repeat' (first
    | with_reducible assumption
    | with_reducible apply State.revertCmd_kept
    | with_reducible apply State.takeIf_kept
    | with_reducible apply kept_foldl
    | intro _)

/-! Machine/Rotation.lean. -/

theorem State.tileDue_kept (k : Nat) (limit : Nat) {s : State} (h : Kept K F s) : Kept K F (State.tileDue s k limit) := by
  unfold State.tileDue
  repeat' (first
    | with_reducible assumption
    | with_reducible apply State.modRole_kept
    | with_reducible apply kept_foldl
    | intro _
    | with_reducible apply kept_ite
    | dsimp only
    | split
    | with_reducible apply KeptM.back
    | (show KeptM _ _ _ _ _ _ _ _; dsimp only))

theorem State.tileSuspect_kept (k : Nat) {s : State} (h : Kept K F s) : Kept K F (State.tileSuspect s k) := by
  unfold State.tileSuspect
  repeat' (first
    | with_reducible assumption
    | with_reducible apply State.tileDue_kept
    | with_reducible apply State.modRole_kept)

theorem State.tileQuarantine_kept (k : Nat) {s : State} (h : Kept K F s) : Kept K F (State.tileQuarantine s k) := by
  unfold State.tileQuarantine
  repeat' (first
    | with_reducible assumption
    | with_reducible apply State.tileDue_kept
    | with_reducible apply State.modRole_kept)

theorem State.buildMap_kept (last : Option (List Byte)) (d : Nat) {s : State} (h : Kept K F s) : Kept K F (State.buildMap s last d) := by
  unfold State.buildMap
  repeat' (first
    | with_reducible assumption
    | with_reducible apply State.modRole_kept
    | with_reducible apply kept_foldl
    | intro _)

theorem State.tileUnusable_kept (k : Nat) {s : State} (h : Kept K F s) : Kept K F (State.tileUnusable s k) := by
  unfold State.tileUnusable
  repeat' (first
    | with_reducible assumption
    | with_reducible apply State.modRole_kept)

theorem State.exclude_kept (die : Nat) (kind : Nat) (number : Nat) {s : State} (h : Kept K F s) : Kept K F (State.exclude s die kind number) := by
  unfold State.exclude
  repeat' (first
    | with_reducible assumption
    | with_reducible apply State.modPort_kept
    | with_reducible apply State.tileUnusable_kept
    | with_reducible apply kept_foldl
    | intro _
    | with_reducible apply kept_ite
    | dsimp only
    | split
    | with_reducible apply KeptM.back
    | (show KeptM _ _ _ _ _ _ _ _; dsimp only))

theorem State.bstRepair_kept (f : BstFailure) (fixed : Nat) (number : Nat) {s : State} (h : Kept K F s) : Kept K F (State.bstRepair s f fixed number) := by
  unfold State.bstRepair
  repeat' (first
    | with_reducible assumption
    | with_reducible apply State.repairAdd_kept
    | with_reducible apply State.event_kept)

theorem State.bstRetire_kept (die : Nat) (tile : Nat) (mem : Nat) (kind : Nat) (number : Nat) {s : State} (h : Kept K F s) : Kept K F (State.bstRetire s die tile mem kind number) := by
  unfold State.bstRetire
  repeat' (first
    | with_reducible assumption
    | with_reducible apply State.repairAdd_kept
    | with_reducible apply State.event_kept)

theorem State.bstFix_kept (l : List BstFailure) {s : State} (h : Kept K F s) : Kept K F (State.bstFix s l) := by
  unfold State.bstFix
  repeat' (first
    | with_reducible assumption
    | with_reducible apply State.exclude_kept
    | with_reducible apply State.bstRepair_kept
    | with_reducible apply State.bstRetire_kept
    | with_reducible apply kept_foldl
    | intro _)

theorem State.bstFails_kept (y1 : List (Nat × Nat × Nat)) (y2 : List BadRead) {s : State} (h : Kept K F s) : Kept K F (State.bstFails s y1 y2) := by
  induction y2 generalizing s y1 with
  | nil => exact h
  | cons f t ih =>
    simp only [State.bstFails]
    apply ih
    apply kept_ite
    · exact State.countEvent_kept _ (State.setReg_kept _ _ h)
    · exact State.event_kept _ _ (State.setReg_kept _ _ h)

theorem State.bstRuns_kept (algo : Nat) (y1 : Nat) (y2 : Nat) (y3 : List (Nat × Nat × Nat)) (y4 : List BstFailure) {s : State} (h : Kept K F s) : Kept K F (State.bstRuns algo y1 y2 y3 y4 s) := by
  induction y1 generalizing y2 y3 y4 s with
  | zero => exact h
  | succ n ih =>
    unfold State.bstRuns
    dsimp only
    split
    · exact h
    · exact ih _ _ _ (State.bstFix_kept _ (State.bstFails_kept _ _ h))

theorem State.bstTest_kept (algo : Nat) (fs : List BstFailure) {s : State} (h : Kept K F s) : Kept K F (State.bstTest s algo fs) := by
  unfold State.bstTest
  repeat' (first
    | with_reducible assumption
    | with_reducible apply State.bstRuns_kept)

theorem State.degraded_kept {s : State} (h : Kept K F s) : Kept K F (State.degraded s) := by
  unfold State.degraded
  repeat' (first
    | with_reducible assumption
    | with_reducible apply State.event_kept
    | with_reducible apply kept_foldl
    | intro _
    | with_reducible apply kept_ite
    | dsimp only
    | split
    | with_reducible apply KeptM.back
    | (show KeptM _ _ _ _ _ _ _ _; dsimp only))

theorem State.rotationWrite_kept {s : State} (h : Kept K F s) : Kept K F (State.rotationWrite s) := by
  unfold State.rotationWrite
  repeat' (first
    | with_reducible assumption
    | with_reducible apply State.logQueue_kept)

theorem State.bstLogic_kept (k : Nat) {s : State} (h : Kept K F s) : Kept K F (State.bstLogic s k) := by
  unfold State.bstLogic
  repeat' (first
    | with_reducible assumption
    | with_reducible apply State.setReg_kept
    | with_reducible apply State.tileUnusable_kept
    | with_reducible apply State.bstRetire_kept)

theorem State.startTest_kept (algo : Nat) (failures : List BstFailure) (logicFail : List Nat) {s : State} (h : Kept K F s) : Kept K F (State.startTest s algo failures logicFail) := by
  unfold State.startTest
  repeat' (first
    | with_reducible assumption
    | with_reducible apply State.buildMap_kept
    | with_reducible apply State.bstTest_kept
    | with_reducible apply State.exclude_kept
    | with_reducible apply State.degraded_kept
    | with_reducible apply State.rotationWrite_kept
    | with_reducible apply State.bstLogic_kept
    | with_reducible apply kept_foldl
    | intro _
    | with_reducible apply kept_ite
    | dsimp only
    | split
    | with_reducible apply KeptM.back
    | (show KeptM _ _ _ _ _ _ _ _; dsimp only))

theorem execTestAgeDue_kept (die : Nat) (pos : Nat) {s : State} {t : State} (e : execTestAgeDue die pos s = .next t) (h : Kept K F s) : Kept K F t := by
  unfold execTestAgeDue at e
  injection e with e
  subst e
  repeat' (first
    | with_reducible assumption
    | with_reducible apply State.tileDue_kept
    | with_reducible apply State.modRole_kept
    | with_reducible apply kept_foldl
    | intro _
    | with_reducible apply kept_ite)

theorem execRotationRequest_kept {s : State} {t : State} (e : execRotationRequest s = .next t) (h : Kept K F s) : Kept K F t := by
  unfold execRotationRequest at e
  injection e with e
  subst e
  repeat' (first
    | with_reducible assumption
    | with_reducible apply kept_foldl
    | intro _
    | with_reducible apply kept_ite
    | dsimp only
    | split
    | with_reducible apply KeptM.back
    | (show KeptM _ _ _ _ _ _ _ _; dsimp only))

theorem State.rotateDie_kept (d : Nat) {s : State} (h : Kept K F s) : Kept K F (State.rotateDie s d) := by
  unfold State.rotateDie
  repeat' (first
    | with_reducible assumption
    | with_reducible apply State.modDie_kept
    | with_reducible apply State.degraded_kept
    | with_reducible apply kept_foldl
    | intro _
    | with_reducible apply kept_ite
    | dsimp only
    | split)

theorem execRotationPoint_kept {s : State} {t : State} (e : execRotationPoint s = .next t) (h : Kept K F s) : Kept K F t := by
  unfold execRotationPoint at e
  injection e with e
  subst e
  repeat' (first
    | with_reducible assumption
    | with_reducible apply State.rotateDie_kept
    | with_reducible apply kept_foldl
    | intro _
    | with_reducible apply kept_ite
    | dsimp only
    | split
    | with_reducible apply KeptM.back
    | (show KeptM _ _ _ _ _ _ _ _; dsimp only))

theorem State.tileReset_kept (k : Nat) {s : State} (h : Kept K F s) : Kept K F (State.tileReset s k) := by
  unfold State.tileReset
  repeat' (first
    | with_reducible assumption
    | with_reducible apply State.settle_kept
    | with_reducible apply State.dropRegs_kept
    | with_reducible apply kept_foldl
    | intro _
    | with_reducible apply kept_ite
    | dsimp only
    | split
    | with_reducible apply KeptM.back
    | (show KeptM _ _ _ _ _ _ _ _; dsimp only)
    | with_reducible apply KeptM.stkN
    | with_reducible apply KeptM.stk1
    | with_reducible apply KeptM.rsvN
    | with_reducible apply KeptM.rsvClear
    | with_reducible apply KeptM.hostN
    | with_reducible apply KeptM.tilesMap
    | with_reducible apply KeptM.tilesSet
    | exact h
    | (rename_i w; exact ⟨w.1, (length_modAt _ _ _).trans w.2⟩)
    | (show TileSt.ok _; first | assumption | exact ⟨rfl, rfl⟩ | exact TilesOk.get ‹TilesOk _› _))

theorem State.migrate_kept (a : Nat) (b : Nat) {s : State} (h : Kept K F s) : Kept K F (State.migrate s a b) := by
  unfold State.migrate
  repeat' (first
    | with_reducible assumption
    | with_reducible apply State.tileReset_kept
    | with_reducible apply State.modRole_kept
    | with_reducible apply kept_foldl
    | intro _
    | with_reducible apply kept_ite
    | dsimp only
    | split
    | with_reducible apply KeptM.back
    | (show KeptM _ _ _ _ _ _ _ _; dsimp only)
    | with_reducible apply KeptM.stkN
    | with_reducible apply KeptM.stk1
    | with_reducible apply KeptM.rsvN
    | with_reducible apply KeptM.rsvClear
    | with_reducible apply KeptM.hostN
    | with_reducible apply KeptM.tilesMap
    | with_reducible apply KeptM.tilesSet
    | exact h
    | (show TileSt.ok _; first | assumption | exact ⟨rfl, rfl⟩ | exact TilesOk.get ‹TilesOk _› _))

theorem execMigrationComplete_kept (die : Nat) {s : State} {t : State} (e : execMigrationComplete die s = .next t) (h : Kept K F s) : Kept K F t := by
  unfold execMigrationComplete at e
  injection e with e
  subst e
  repeat' (first
    | with_reducible assumption
    | with_reducible apply State.modDie_kept
    | with_reducible apply State.migrate_kept
    | with_reducible apply State.rotationWrite_kept
    | with_reducible apply kept_foldl
    | intro _
    | with_reducible apply kept_ite
    | dsimp only
    | split
    | with_reducible apply KeptM.back
    | (show KeptM _ _ _ _ _ _ _ _; dsimp only))

theorem execFieldTestComplete_kept (die : Nat) (pos : Nat) (failures : List BstFailure) (logicOk : Bool) {s : State} {t : State} (e : execFieldTestComplete die pos failures logicOk s = .next t) (h : Kept K F s) : Kept K F t := by
  unfold execFieldTestComplete at e
  injection e with e
  subst e
  repeat' (first
    | with_reducible assumption
    | with_reducible apply State.bstTest_kept
    | with_reducible apply State.modRole_kept
    | with_reducible apply State.rotationWrite_kept
    | with_reducible apply State.bstLogic_kept
    | with_reducible apply kept_foldl
    | intro _
    | with_reducible apply kept_ite)

/-! Machine/Security.lean. -/

theorem State.measure_kept (slot : Nat) (index : Nat) (d : Digest) {s : State} (h : Kept K F s) : Kept K F (State.measure s slot index d) := by
  unfold State.measure
  repeat' (first
    | with_reducible assumption
    | with_reducible apply kept_foldl
    | intro _
    | with_reducible apply kept_ite
    | dsimp only
    | split
    | with_reducible apply KeptM.back
    | (show KeptM _ _ _ _ _ _ _ _; dsimp only))

theorem State.clearMeas_kept (slot : Nat) {s : State} (h : Kept K F s) : Kept K F (State.clearMeas s slot) := by
  unfold State.clearMeas
  repeat' (first
    | with_reducible assumption
    | with_reducible apply kept_foldl
    | intro _
    | with_reducible apply kept_ite
    | dsimp only
    | split
    | with_reducible apply KeptM.back
    | (show KeptM _ _ _ _ _ _ _ _; dsimp only))

theorem State.raiseCounters_kept (v : List Nat) {s : State} (h : Kept K F s) : Kept K F (State.raiseCounters s v) := by
  unfold State.raiseCounters
  repeat' (first
    | with_reducible assumption
    | with_reducible apply State.logQueue_kept
    | with_reducible apply kept_foldl
    | intro _
    | with_reducible apply kept_ite)

theorem State.secRec_kept (code : Nat) (c0 : Nat) (c1 : Nat) {s : State} (h : Kept K F s) : Kept K F (State.secRec s code c0 c1) := by
  unfold State.secRec
  repeat' (first
    | with_reducible assumption
    | with_reducible apply State.event_kept)

theorem State.bootRecords_kept (root : List Byte) {s : State} (h : Kept K F s) : Kept K F (State.bootRecords s root) := by
  unfold State.bootRecords
  repeat' (first
    | with_reducible assumption
    | with_reducible apply State.raiseCounters_kept
    | with_reducible apply State.measure_kept
    | with_reducible apply State.secRec_kept
    | with_reducible apply kept_foldl
    | intro _
    | with_reducible apply kept_ite
    | dsimp only
    | split
    | with_reducible apply KeptM.back
    | (show KeptM _ _ _ _ _ _ _ _; dsimp only))

theorem State.bootIdentity_kept {s : State} (h : Kept K F s) : Kept K F (State.bootIdentity s) := by
  unfold State.bootIdentity
  repeat' (first
    | with_reducible assumption
    | with_reducible apply State.setReg_kept
    | with_reducible apply State.secRec_kept
    | with_reducible apply kept_foldl
    | intro _
    | with_reducible apply kept_ite
    | dsimp only
    | split
    | with_reducible apply KeptM.back
    | (show KeptM _ _ _ _ _ _ _ _; dsimp only))

theorem State.applyConfig_kept {s : State} (h : Kept K F s) : Kept K F (State.applyConfig s) := by
  unfold State.applyConfig
  repeat' (first
    | with_reducible assumption
    | with_reducible apply State.setReg_kept
    | with_reducible apply kept_foldl
    | intro _
    | with_reducible apply kept_ite
    | dsimp only
    | split
    | with_reducible apply KeptM.back
    | (show KeptM _ _ _ _ _ _ _ _; dsimp only))

theorem State.boot_kept {s : State} (h : Kept K F s) : Kept K F (State.boot s) := by
  unfold State.boot
  repeat' (first
    | with_reducible assumption
    | with_reducible apply State.bootRecords_kept
    | with_reducible apply State.measure_kept
    | with_reducible apply State.bootIdentity_kept
    | with_reducible apply State.applyConfig_kept
    | with_reducible apply State.secRec_kept
    | with_reducible apply kept_foldl
    | intro _
    | with_reducible apply kept_ite
    | dsimp only
    | split
    | with_reducible apply KeptM.back
    | (show KeptM _ _ _ _ _ _ _ _; dsimp only))

theorem State.logNow_kept (type : Nat) (payload : List Byte) {s : State} (h : Kept K (fun m => m.wf = true) s) : Kept K (fun m => m.wf = true) (State.logNow s type payload) := by
  unfold State.logNow
  repeat' (first
    | with_reducible assumption
    | with_reducible apply State.logEnd_kept
    | with_reducible apply kept_foldl
    | intro _
    | with_reducible apply kept_ite
    | dsimp only
    | split
    | with_reducible apply KeptM.back
    | (show KeptM _ _ _ _ _ _ _ _; dsimp only))

theorem execTrialGood_kept {s : State} {t : State} (e : execTrialGood s = .next t) (h : Kept K F s) : Kept K F t := by
  unfold execTrialGood at e
  injection e with e
  subst e
  repeat' (first
    | with_reducible assumption
    | with_reducible apply State.logQueue_kept
    | with_reducible apply State.raiseCounters_kept
    | with_reducible apply kept_foldl
    | intro _
    | with_reducible apply kept_ite
    | dsimp only
    | split
    | with_reducible apply KeptM.back
    | (show KeptM _ _ _ _ _ _ _ _; dsimp only))

/-! Machine/Power.lean. -/

theorem State.coelFail_kept (p : Nat) {s : State} (h : Kept K F s) : Kept K F (State.coelFail s p) := by
  unfold State.coelFail
  repeat' (first
    | with_reducible assumption
    | with_reducible apply State.event_kept)

theorem State.coelRangeLost_kept (k : Coel) {s : State} (h : Kept K F s) : Kept K F (State.coelRangeLost s k) := State.loseKeys_kept _ h

theorem State.coelLost_kept (p : Nat) {s : State} (h : Kept K F s) : Kept K F (State.coelLost s p) := by
  unfold State.coelLost
  repeat' (first
    | with_reducible assumption
    | with_reducible apply State.endCoel_kept
    | with_reducible apply State.complete_kept
    | with_reducible apply State.coelFail_kept
    | with_reducible apply State.coelRangeLost_kept
    | with_reducible apply State.emit_kept
    | with_reducible apply kept_foldl
    | intro _
    | with_reducible apply kept_ite
    | dsimp only
    | split)

theorem State.buddyLost_kept (p : Nat) {s : State} (h : Kept K F s) : Kept K F (State.buddyLost s p) := by
  unfold State.buddyLost
  repeat' (first
    | with_reducible assumption
    | with_reducible apply State.targetFail_kept
    | with_reducible apply kept_foldl
    | intro _
    | with_reducible apply kept_ite)

theorem State.portDown_kept (p : Nat) {s : State} (h : Kept K F s) : Kept K F (State.portDown s p) := by
  unfold State.portDown
  repeat' (first
    | with_reducible assumption
    | with_reducible apply State.modPort_kept
    | with_reducible apply State.coelLost_kept
    | with_reducible apply State.buddyLost_kept
    | with_reducible apply State.event_kept
    | with_reducible apply kept_foldl
    | intro _
    | with_reducible apply kept_ite)

theorem State.pkgCore_kept (cause : Nat) {s : State} (h : Kept (fun k => k.length = 4) F s) : Kept (fun k => k.length = 4) F (State.pkgCore s cause) := by
  unfold State.pkgCore
  exact ⟨rfl, rfl, h.2.2.1, h.2.2.2.1, TilesOk.nil, rfl⟩

theorem State.pkgReset_kept (cause : Nat) {s : State} (h : Kept (fun k => k.length = 4) F s) : Kept (fun k => k.length = 4) F (State.pkgReset s cause) := by
  unfold State.pkgReset
  repeat' (first
    | with_reducible assumption
    | with_reducible apply State.pkgCore_kept)

theorem State.rstRefused_kept {s : State} (h : Kept K F s) : Kept K F (State.rstRefused s) := by
  unfold State.rstRefused
  repeat' (first
    | with_reducible assumption
    | with_reducible apply State.setReg_kept)

theorem State.unparkReq_kept {s : State} (h : Kept K F s) : Kept K F (State.unparkReq s) := by
  unfold State.unparkReq
  repeat' (first
    | with_reducible assumption
    | with_reducible apply State.rstRefused_kept
    | with_reducible apply kept_foldl
    | intro _
    | with_reducible apply kept_ite
    | dsimp only
    | split
    | with_reducible apply KeptM.back
    | (show KeptM _ _ _ _ _ _ _ _; dsimp only))

theorem State.darkReq_kept {s : State} (h : Kept (fun k => k.length = 4) F s) : Kept (fun k => k.length = 4) F (State.darkReq s) := by
  unfold State.darkReq
  repeat' (first
    | with_reducible assumption
    | with_reducible apply State.pkgCore_kept
    | with_reducible apply State.rstRefused_kept
    | with_reducible apply kept_foldl
    | intro _
    | with_reducible apply kept_ite
    | dsimp only
    | split
    | with_reducible apply KeptM.back
    | (show KeptM _ _ _ _ _ _ _ _; dsimp only))

theorem State.railsOn_kept {s : State} (h : Kept K F s) : Kept K F (State.railsOn s) := by
  unfold State.railsOn
  repeat' (first
    | with_reducible assumption
    | with_reducible apply kept_foldl
    | intro _
    | with_reducible apply kept_ite
    | dsimp only
    | split
    | with_reducible apply KeptM.back
    | (show KeptM _ _ _ _ _ _ _ _; dsimp only))

theorem State.porReset_kept {s : State} (h : Kept (fun k => k.length = 4) F s) : Kept (fun k => k.length = 4) F (State.porReset s) := by
  unfold State.porReset
  repeat' (first
    | with_reducible assumption
    | with_reducible apply State.pkgCore_kept
    | with_reducible apply kept_foldl
    | intro _
    | with_reducible apply kept_ite
    | dsimp only
    | split
    | with_reducible apply KeptM.back
    | (show KeptM _ _ _ _ _ _ _ _; dsimp only))

theorem execPor_kept {s : State} {t : State} (e : execPor s = .next t) (h : Kept (fun k => k.length = 4) F s) : Kept (fun k => k.length = 4) F t := by
  unfold execPor at e
  injection e with e
  subst e
  repeat' (first
    | with_reducible assumption
    | with_reducible apply State.porReset_kept)

theorem execMrst_kept {s : State} {t : State} (e : execMrst s = .next t) (h : Kept (fun k => k.length = 4) F s) : Kept (fun k => k.length = 4) F t := by
  unfold execMrst at e
  injection e with e
  subst e
  repeat' (first
    | with_reducible assumption
    | with_reducible apply State.pkgReset_kept
    | with_reducible apply kept_foldl
    | intro _
    | with_reducible apply kept_ite
    | dsimp only
    | split
    | with_reducible apply KeptM.back
    | (show KeptM _ _ _ _ _ _ _ _; dsimp only))

theorem execMrstRise_kept {s : State} {t : State} (e : execMrstRise s = .next t) (h : Kept K F s) : Kept K F t := by
  unfold execMrstRise at e
  injection e with e
  subst e
  repeat' (first
    | with_reducible assumption
    | with_reducible apply kept_foldl
    | intro _
    | with_reducible apply kept_ite
    | dsimp only
    | split
    | with_reducible apply KeptM.back
    | (show KeptM _ _ _ _ _ _ _ _; dsimp only))

theorem State.flushCaches_kept {s : State} (h : Kept K F s) : Kept K F (State.flushCaches s) := by
  unfold State.flushCaches
  repeat' (first
    | with_reducible assumption
    | with_reducible apply kept_foldl
    | intro _
    | with_reducible apply kept_ite
    | dsimp only
    | split
    | with_reducible apply KeptM.back
    | (show KeptM _ _ _ _ _ _ _ _; dsimp only))

theorem State.leaveA2_kept {s : State} (h : Kept K F s) : Kept K F (State.leaveA2 s) := by
  unfold State.leaveA2
  repeat' (first
    | with_reducible assumption
    | with_reducible apply kept_foldl
    | intro _
    | with_reducible apply kept_ite
    | dsimp only
    | split
    | with_reducible apply KeptM.back
    | (show KeptM _ _ _ _ _ _ _ _; dsimp only))

theorem State.flrReset_kept  {s : State} (h : Kept (fun k => k.length = 4) F s) : Kept (fun k => k.length = 4) F (State.flrReset s) := by
  unfold State.flrReset
  repeat' (first
    | with_reducible assumption
    | with_reducible apply State.leaveA2_kept
    | with_reducible apply State.ctxWipe_kept
    | with_reducible apply State.endCoel_kept
    | with_reducible apply State.settle_kept
    | with_reducible apply State.flushCaches_kept
    | with_reducible apply State.dropRegs_kept
    | (with_reducible apply State.modCx_kept (by intro _; rfl))
    | with_reducible apply State.clearMeas_kept
    | with_reducible apply State.modCx_number
    | with_reducible apply kept_foldl
    | intro _
    | with_reducible apply kept_ite
    | dsimp only
    | split
    | with_reducible apply KeptM.back
    | (show KeptM _ _ _ _ _ _ _ _; dsimp only)
    | with_reducible apply KeptM.stkN
    | with_reducible apply KeptM.stk1
    | with_reducible apply KeptM.rsvN
    | with_reducible apply KeptM.rsvClear
    | with_reducible apply KeptM.hostN
    | with_reducible apply KeptM.tilesMap
    | with_reducible apply KeptM.tilesSet
    | exact h
    | (rename_i w; exact ⟨w.1, (length_modAt _ _ _).trans w.2⟩)
    | (show TileSt.ok _; first | assumption | exact ⟨rfl, rfl⟩ | exact TilesOk.get ‹TilesOk _› _))

theorem execFlr_kept {s : State} {t : State} (e : execFlr s = .next t) (h : Kept (fun k => k.length = 4) F s) : Kept (fun k => k.length = 4) F t := by
  unfold execFlr at e
  injection e with e
  subst e
  repeat' (first
    | with_reducible assumption
    | with_reducible apply State.flrReset_kept
    | with_reducible apply kept_foldl
    | intro _
    | with_reducible apply kept_ite)

theorem execPerst_kept {s : State} {t : State} (e : execPerst s = .next t) (h : Kept (fun k => k.length = 4) F s) : Kept (fun k => k.length = 4) F t := by
  unfold execPerst at e
  injection e with e
  subst e
  repeat' (first
    | with_reducible assumption
    | with_reducible apply State.flrReset_kept
    | with_reducible apply kept_foldl
    | intro _
    | with_reducible apply kept_ite
    | dsimp only
    | split
    | with_reducible apply KeptM.back
    | (show KeptM _ _ _ _ _ _ _ _; dsimp only))

theorem State.parkReq_kept {s : State} (h : Kept K F s) : Kept K F (State.parkReq s) := by
  unfold State.parkReq
  repeat' (first
    | with_reducible assumption
    | with_reducible apply State.rstRefused_kept
    | with_reducible apply kept_foldl
    | intro _
    | with_reducible apply kept_ite
    | dsimp only
    | split
    | with_reducible apply KeptM.back
    | (show KeptM _ _ _ _ _ _ _ _; dsimp only))

theorem State.rstCtrl_kept (v : Nat) {s : State} (h : Kept (fun k => k.length = 4) F s) : Kept (fun k => k.length = 4) F (State.rstCtrl s v) := by
  unfold State.rstCtrl
  repeat' (first
    | with_reducible assumption
    | with_reducible apply State.pkgReset_kept
    | with_reducible apply State.darkReq_kept
    | with_reducible apply State.unparkReq_kept
    | with_reducible apply State.parkReq_kept
    | with_reducible apply State.rstRefused_kept
    | with_reducible apply kept_foldl
    | intro _
    | with_reducible apply kept_ite)

theorem State.rstWrite_kept (v : Nat) (b : Nat) {s : State} (h : Kept (fun k => k.length = 4) F s) : Kept (fun k => k.length = 4) F (State.rstWrite s v b) := by
  unfold State.rstWrite
  repeat' (first
    | with_reducible assumption
    | with_reducible apply State.rstCtrl_kept
    | with_reducible apply State.access_kept
    | with_reducible apply kept_foldl
    | intro _
    | with_reducible apply kept_ite)

theorem execPkg_kept (v : W32) {s : State} {t : State} (e : execPkg v s = .next t) (h : Kept (fun k => k.length = 4) F s) : Kept (fun k => k.length = 4) F t := by
  unfold execPkg at e
  injection e with e
  subst e
  repeat' (first
    | with_reducible assumption
    | with_reducible apply State.rstWrite_kept)

theorem execPark_kept (v : W32) {s : State} {t : State} (e : execPark v s = .next t) (h : Kept (fun k => k.length = 4) F s) : Kept (fun k => k.length = 4) F t := by
  unfold execPark at e
  injection e with e
  subst e
  repeat' (first
    | with_reducible assumption
    | with_reducible apply State.rstWrite_kept)

theorem execUnpark_kept (v : W32) {s : State} {t : State} (e : execUnpark v s = .next t) (h : Kept (fun k => k.length = 4) F s) : Kept (fun k => k.length = 4) F t := by
  unfold execUnpark at e
  injection e with e
  subst e
  repeat' (first
    | with_reducible assumption
    | with_reducible apply State.rstWrite_kept)

theorem execDark_kept (v : W32) {s : State} {t : State} (e : execDark v s = .next t) (h : Kept (fun k => k.length = 4) F s) : Kept (fun k => k.length = 4) F t := by
  unfold execDark at e
  injection e with e
  subst e
  repeat' (first
    | with_reducible assumption
    | with_reducible apply State.rstWrite_kept)

theorem execA2Entry_kept {s : State} {t : State} (e : execA2Entry s = .next t) (h : Kept K F s) : Kept K F t := by
  unfold execA2Entry at e
  injection e with e
  subst e
  repeat' (first
    | with_reducible assumption
    | with_reducible apply State.flushCaches_kept
    | exact KeptM.tiles0 (KeptM.same (by rw [List.map_map]; rfl) (State.flushCaches_kept h))
    | with_reducible apply kept_foldl
    | intro _
    | with_reducible apply kept_ite)

theorem execA2ExitComplete_kept {s : State} {t : State} (e : execA2ExitComplete s = .next t) (h : Kept K F s) : Kept K F t := by
  unfold execA2ExitComplete at e
  injection e with e
  subst e
  repeat' (first
    | with_reducible assumption
    | with_reducible apply State.leaveA2_kept
    | with_reducible apply State.skipBad_kept
    | with_reducible apply kept_foldl
    | intro _
    | with_reducible apply kept_ite)

theorem execA1Entry_kept {s : State} {t : State} (e : execA1Entry s = .next t) (h : Kept K F s) : Kept K F t := by
  unfold execA1Entry at e
  injection e with e
  subst e
  repeat' (first
    | with_reducible assumption
    | with_reducible apply kept_foldl
    | intro _
    | with_reducible apply kept_ite
    | dsimp only
    | split
    | with_reducible apply KeptM.back
    | (show KeptM _ _ _ _ _ _ _ _; dsimp only))

theorem execA1Exit_kept {s : State} {t : State} (e : execA1Exit s = .next t) (h : Kept K F s) : Kept K F t := by
  unfold execA1Exit at e
  injection e with e
  subst e
  repeat' (first
    | with_reducible assumption
    | with_reducible apply State.wake_kept)

theorem State.stopAll_kept (kind : Nat) (which : Nat) (rails : Rails) {s : State} (h : Kept (fun k => k.length = 4) F s) : Kept (fun k => k.length = 4) F (State.stopAll s kind which rails) := by
  unfold State.stopAll
  repeat' (first
    | with_reducible assumption
    | with_reducible apply State.pkgCore_kept
    | with_reducible apply kept_foldl
    | intro _
    | with_reducible apply kept_ite
    | dsimp only
    | split
    | with_reducible apply KeptM.back
    | (show KeptM _ _ _ _ _ _ _ _; dsimp only))

theorem State.railFault_kept (kind : Nat) (which : Nat) {s : State} (h : Kept (fun k => k.length = 4) F s) : Kept (fun k => k.length = 4) F (State.railFault s kind which) := by
  unfold State.railFault
  repeat' (first
    | with_reducible assumption
    | with_reducible apply State.stopAll_kept
    | with_reducible apply kept_foldl
    | intro _
    | with_reducible apply kept_ite)

theorem execRailPgRise_kept (r : Nat) {s : State} {t : State} (e : execRailPgRise r s = .next t) (h : Kept K F s) : Kept K F t := by
  unfold execRailPgRise at e
  injection e with e
  subst e
  repeat' (first
    | with_reducible assumption
    | with_reducible apply State.railsOn_kept
    | with_reducible apply kept_foldl
    | intro _
    | with_reducible apply kept_ite
    | dsimp only
    | split
    | with_reducible apply KeptM.back
    | (show KeptM _ _ _ _ _ _ _ _; dsimp only))

theorem execRailPgTimeout_kept (r : Nat) {s : State} {t : State} (e : execRailPgTimeout r s = .next t) (h : Kept (fun k => k.length = 4) F s) : Kept (fun k => k.length = 4) F t := by
  unfold execRailPgTimeout at e
  injection e with e
  subst e
  repeat' (first
    | with_reducible assumption
    | with_reducible apply State.railFault_kept
    | with_reducible apply kept_foldl
    | intro _
    | with_reducible apply kept_ite)

theorem execRailPgFall_kept (r : Nat) {s : State} {t : State} (e : execRailPgFall r s = .next t) (h : Kept (fun k => k.length = 4) F s) : Kept (fun k => k.length = 4) F t := by
  unfold execRailPgFall at e
  injection e with e
  subst e
  repeat' (first
    | with_reducible assumption
    | with_reducible apply State.railFault_kept
    | with_reducible apply kept_foldl
    | intro _
    | with_reducible apply kept_ite)

theorem execRailPgFallAtPowerDown_kept (r : Nat) {s : State} {t : State} (e : execRailPgFallAtPowerDown r s = .next t) (h : Kept K F s) : Kept K F t := by
  unfold execRailPgFallAtPowerDown at e
  injection e with e
  subst e
  repeat' (first
    | with_reducible assumption
    | with_reducible apply kept_foldl
    | intro _
    | with_reducible apply kept_ite
    | dsimp only
    | split
    | with_reducible apply KeptM.back
    | (show KeptM _ _ _ _ _ _ _ _; dsimp only))

theorem execThermalTrip_kept (die : Nat) {s : State} {t : State} (e : execThermalTrip die s = .next t) (h : Kept (fun k => k.length = 4) F s) : Kept (fun k => k.length = 4) F t := by
  unfold execThermalTrip at e
  injection e with e
  subst e
  repeat' (first
    | with_reducible assumption
    | with_reducible apply State.stopAll_kept
    | with_reducible apply kept_foldl
    | intro _
    | with_reducible apply kept_ite
    | dsimp only
    | split
    | with_reducible apply KeptM.back
    | (show KeptM _ _ _ _ _ _ _ _; dsimp only))

theorem execClockLoss_kept (clk : Nat) {s : State} {t : State} (e : execClockLoss clk s = .next t) (h : Kept (fun k => k.length = 4) F s) : Kept (fun k => k.length = 4) F t := by
  unfold execClockLoss at e
  injection e with e
  subst e
  repeat' (first
    | with_reducible assumption
    | with_reducible apply State.portDown_kept
    | with_reducible apply State.railFault_kept
    | with_reducible apply kept_foldl
    | intro _
    | with_reducible apply kept_ite
    | dsimp only
    | split
    | with_reducible apply KeptM.back
    | (show KeptM _ _ _ _ _ _ _ _; dsimp only))

theorem State.recordTrip_kept {s : State} (h : Kept K F s) : Kept K F (State.recordTrip s) := by
  unfold State.recordTrip
  repeat' (first
    | with_reducible assumption
    | with_reducible apply State.event_kept
    | with_reducible apply kept_foldl
    | intro _
    | with_reducible apply kept_ite
    | dsimp only
    | split
    | with_reducible apply KeptM.back
    | (show KeptM _ _ _ _ _ _ _ _; dsimp only))

theorem State.loadRepair_kept {s : State} (h : Kept K F s) : Kept K F (State.loadRepair s) := by
  unfold State.loadRepair
  repeat' (first
    | with_reducible assumption
    | with_reducible apply kept_foldl
    | intro _
    | with_reducible apply kept_ite
    | dsimp only
    | split
    | with_reducible apply KeptM.back
    | (show KeptM _ _ _ _ _ _ _ _; dsimp only))

theorem State.trainPort_kept (p : Nat) (ok : Bool) (rtt : Nat) {s : State} (h : Kept K F s) : Kept K F (State.trainPort s p ok rtt) := by
  unfold State.trainPort
  repeat' (first
    | with_reducible assumption
    | with_reducible apply State.modPort_kept
    | with_reducible apply State.setReg_kept
    | with_reducible apply State.portDown_kept
    | with_reducible apply State.event_kept
    | with_reducible apply kept_foldl
    | intro _
    | with_reducible apply kept_ite)

theorem State.bringupDo_kept (k : Nat) (rep : BringupReport) {s : State} (h : Kept K F s) : Kept K F (State.bringupDo s k rep) := by
  unfold State.bringupDo
  repeat' (first
    | with_reducible assumption
    | with_reducible apply State.flushEarly_kept
    | with_reducible apply State.railsOn_kept
    | with_reducible apply State.startTest_kept
    | with_reducible apply State.boot_kept
    | with_reducible apply State.loadRepair_kept
    | with_reducible apply State.recordTrip_kept
    | with_reducible apply State.stackInit_kept
    | with_reducible apply State.trainPort_kept
    | with_reducible apply kept_foldl
    | intro _
    | with_reducible apply kept_ite
    | dsimp only
    | split
    | with_reducible apply KeptM.back
    | (show KeptM _ _ _ _ _ _ _ _; dsimp only))

theorem execBringupStepComplete_kept (rep : BringupReport) {s : State} {t : State} (e : execBringupStepComplete rep s = .next t) (h : Kept K F s) : Kept K F t := by
  unfold execBringupStepComplete at e
  injection e with e
  subst e
  repeat' (first
    | with_reducible assumption
    | with_reducible apply State.bringupDo_kept
    | with_reducible apply State.event_kept
    | with_reducible apply kept_foldl
    | intro _
    | with_reducible apply kept_ite
    | dsimp only
    | split
    | with_reducible apply KeptM.back
    | (show KeptM _ _ _ _ _ _ _ _; dsimp only))

theorem execTrialTimeout_kept {s : State} {t : State} (e : execTrialTimeout s = .next t) (h : Kept (fun k => k.length = 4) (fun m => m.wf = true) s) : Kept (fun k => k.length = 4) (fun m => m.wf = true) t := by
  unfold execTrialTimeout at e
  injection e with e
  subst e
  repeat' (first
    | with_reducible assumption
    | with_reducible apply State.pkgReset_kept
    | with_reducible apply State.logNow_kept
    | with_reducible apply State.secRec_kept
    | with_reducible apply kept_foldl
    | intro _
    | with_reducible apply kept_ite
    | dsimp only
    | split)

/-! Machine/Mgmt.lean. -/

theorem State.spdmAnswer_kept (code : Nat) (payload : List Byte) {s : State} (h : Kept K F s) : Kept K F (State.spdmAnswer s code payload) := by
  unfold State.spdmAnswer
  repeat' (first
    | with_reducible assumption
    | with_reducible apply State.emit_kept
    | with_reducible apply kept_foldl
    | intro _
    | with_reducible apply kept_ite
    | dsimp only
    | split
    | with_reducible apply KeptM.back
    | (show KeptM _ _ _ _ _ _ _ _; dsimp only))

theorem State.spdm_kept (f : State → State) (w : ∀ x0, Kept K F x0 → Kept K F (f x0)) {s : State} (h : Kept K F s) : Kept K F (State.spdm s f) := by
  unfold State.spdm
  repeat' (first
    | with_reducible assumption
    | with_reducible apply State.wake_kept
    | with_reducible apply State.emit_kept
    | apply w
    | with_reducible apply kept_foldl
    | intro _
    | with_reducible apply kept_ite)

theorem execMctpSetEndpointId_kept (eid : Byte) {s : State} {t : State} (e : execMctpSetEndpointId eid s = .next t) (h : Kept K F s) : Kept K F t := by
  unfold execMctpSetEndpointId at e
  injection e with e
  subst e
  repeat' (first
    | with_reducible assumption
    | with_reducible apply State.wake_kept
    | with_reducible apply State.emit_kept
    | with_reducible apply kept_foldl
    | intro _
    | with_reducible apply kept_ite
    | dsimp only
    | split
    | with_reducible apply KeptM.back
    | (show KeptM _ _ _ _ _ _ _ _; dsimp only))

theorem execGetVersion_kept {s : State} {t : State} (e : execGetVersion s = .next t) (h : Kept K F s) : Kept K F t := by
  unfold execGetVersion at e
  injection e with e
  subst e
  repeat' (first
    | with_reducible assumption
    | with_reducible apply State.spdm_kept
    | with_reducible apply State.spdmAnswer_kept
    | with_reducible apply kept_foldl
    | intro _
    | with_reducible apply kept_ite
    | dsimp only
    | split
    | with_reducible apply KeptM.back
    | (show KeptM _ _ _ _ _ _ _ _; dsimp only))

theorem execGetCapabilities_kept {s : State} {t : State} (e : execGetCapabilities s = .next t) (h : Kept K F s) : Kept K F t := by
  unfold execGetCapabilities at e
  injection e with e
  subst e
  repeat' (first
    | with_reducible assumption
    | with_reducible apply State.spdm_kept
    | with_reducible apply State.spdmAnswer_kept)

theorem execNegotiateAlgorithms_kept (offered : Bool) {s : State} {t : State} (e : execNegotiateAlgorithms offered s = .next t) (h : Kept K F s) : Kept K F t := by
  unfold execNegotiateAlgorithms at e
  injection e with e
  subst e
  repeat' (first
    | with_reducible assumption
    | with_reducible apply State.spdm_kept
    | with_reducible apply State.spdmAnswer_kept
    | with_reducible apply State.emit_kept
    | with_reducible apply kept_foldl
    | intro _
    | with_reducible apply kept_ite)

theorem execGetDigests_kept {s : State} {t : State} (e : execGetDigests s = .next t) (h : Kept K F s) : Kept K F t := by
  unfold execGetDigests at e
  injection e with e
  subst e
  repeat' (first
    | with_reducible assumption
    | with_reducible apply State.spdm_kept
    | with_reducible apply State.spdmAnswer_kept
    | with_reducible apply kept_foldl
    | intro _)

theorem execGetCertificate_kept (slot : Nat) {s : State} {t : State} (e : execGetCertificate slot s = .next t) (h : Kept K F s) : Kept K F t := by
  unfold execGetCertificate at e
  injection e with e
  subst e
  repeat' (first
    | with_reducible assumption
    | with_reducible apply State.spdm_kept
    | with_reducible apply State.spdmAnswer_kept
    | with_reducible apply State.emit_kept
    | with_reducible apply kept_foldl
    | intro _
    | with_reducible apply kept_ite)

theorem State.signed_kept (code : Nat) (payload : List Byte) (nonce : List Byte) {s : State} (h : Kept K F s) : Kept K F (State.signed s code payload nonce) := by
  unfold State.signed
  repeat' (first
    | with_reducible assumption
    | with_reducible apply State.spdmAnswer_kept
    | with_reducible apply State.emit_kept
    | with_reducible apply kept_foldl
    | intro _
    | with_reducible apply kept_ite)

theorem execChallenge_kept (nonce : List Byte) {s : State} {t : State} (e : execChallenge nonce s = .next t) (h : Kept K F s) : Kept K F t := by
  unfold execChallenge at e
  injection e with e
  subst e
  repeat' (first
    | with_reducible assumption
    | with_reducible apply State.signed_kept
    | with_reducible apply State.spdm_kept
    | with_reducible apply kept_foldl
    | intro _)

theorem execGetMeasurements_kept (index : Nat) (nonce : List Byte) {s : State} {t : State} (e : execGetMeasurements index nonce s = .next t) (h : Kept K F s) : Kept K F t := by
  unfold execGetMeasurements at e
  injection e with e
  subst e
  repeat' (first
    | with_reducible assumption
    | with_reducible apply State.signed_kept
    | with_reducible apply State.spdm_kept
    | with_reducible apply State.emit_kept
    | with_reducible apply kept_foldl
    | intro _
    | with_reducible apply kept_ite)

theorem execSpdmUnsupportedRequest_kept (y0 : Byte) (inProgress : Bool) {s : State} {t : State} (e : execSpdmUnsupportedRequest y0 inProgress s = .next t) (h : Kept K F s) : Kept K F t := by
  unfold execSpdmUnsupportedRequest at e
  injection e with e
  subst e
  repeat' (first
    | with_reducible assumption
    | with_reducible apply State.spdm_kept
    | with_reducible apply State.emit_kept)

theorem State.pldmUpdate_kept (component : Nat) (bytes : List Byte) {s : State} (h : Kept K F s) : Kept K F (State.pldmUpdate s component bytes) := by
  unfold State.pldmUpdate
  repeat' (first
    | with_reducible assumption
    | with_reducible apply State.logQueue_kept
    | with_reducible apply State.emit_kept
    | with_reducible apply kept_foldl
    | intro _
    | with_reducible apply kept_ite)

theorem execPldmFirmwareUpdate_kept (component : Nat) (bytes : List Byte) {s : State} {t : State} (e : execPldmFirmwareUpdate component bytes s = .next t) (h : Kept K F s) : Kept K F t := by
  unfold execPldmFirmwareUpdate at e
  injection e with e
  subst e
  repeat' (first
    | with_reducible assumption
    | with_reducible apply State.wake_kept
    | with_reducible apply State.pldmUpdate_kept
    | with_reducible apply kept_foldl
    | intro _
    | with_reducible apply kept_ite)

theorem execPldmMonitorRead_kept {s : State} {t : State} (e : execPldmMonitorRead s = .next t) (h : Kept K F s) : Kept K F t := by
  unfold execPldmMonitorRead at e
  injection e with e
  subst e
  repeat' (first
    | with_reducible assumption
    | with_reducible apply State.wake_kept
    | with_reducible apply State.emit_kept
    | with_reducible apply kept_foldl
    | intro _
    | with_reducible apply kept_ite)

theorem execPldmPkgRequest_kept {s : State} {t : State} (e : execPldmPkgRequest s = .next t) (h : Kept (fun k => k.length = 4) F s) : Kept (fun k => k.length = 4) F t := by
  unfold execPldmPkgRequest at e
  injection e with e
  subst e
  repeat' (first
    | with_reducible assumption
    | with_reducible apply State.pkgReset_kept
    | with_reducible apply kept_foldl
    | intro _
    | with_reducible apply kept_ite)

theorem execPldmUnparkRequest_kept {s : State} {t : State} (e : execPldmUnparkRequest s = .next t) (h : Kept K F s) : Kept K F t := by
  unfold execPldmUnparkRequest at e
  injection e with e
  subst e
  repeat' (first
    | with_reducible assumption
    | with_reducible apply State.wake_kept
    | with_reducible apply State.unparkReq_kept
    | with_reducible apply kept_foldl
    | intro _
    | with_reducible apply kept_ite)

theorem execPldmDarkRequest_kept {s : State} {t : State} (e : execPldmDarkRequest s = .next t) (h : Kept (fun k => k.length = 4) F s) : Kept (fun k => k.length = 4) F t := by
  unfold execPldmDarkRequest at e
  injection e with e
  subst e
  repeat' (first
    | with_reducible assumption
    | with_reducible apply State.wake_kept
    | with_reducible apply State.darkReq_kept
    | with_reducible apply kept_foldl
    | intro _
    | with_reducible apply kept_ite)

/-! Machine/Tap.lean. -/

theorem State.modTap_kept (x : Nat) (f : Tap → Tap) {s : State} (h : Kept K F s) : Kept K F (State.modTap s x f) := by
  unfold State.modTap
  repeat' (first
    | with_reducible assumption
    | with_reducible apply kept_foldl
    | intro _
    | with_reducible apply kept_ite
    | dsimp only
    | split
    | with_reducible apply KeptM.back
    | (show KeptM _ _ _ _ _ _ _ _; dsimp only))

theorem State.tap_kept (x : Nat) (op : Nat) {s : State} (h : Kept K F s) : Kept K F (State.tap s x op) := by
  unfold State.tap
  repeat' (first
    | with_reducible assumption
    | with_reducible apply State.tick_kept
    | with_reducible apply State.modTap_kept
    | with_reducible apply State.emit_kept
    | with_reducible apply kept_foldl
    | intro _
    | with_reducible apply kept_ite)

theorem execIdcode_kept (x : Nat) {s : State} {t : State} (e : execIdcode x s = .next t) (h : Kept K F s) : Kept K F t := by
  unfold execIdcode at e
  injection e with e
  subst e
  repeat' (first
    | with_reducible assumption
    | with_reducible apply State.tap_kept)

theorem execSamplePreload_kept (x : Nat) (cells : List Bool) {s : State} {t : State} (e : execSamplePreload x cells s = .next t) (h : Kept K F s) : Kept K F t := by
  unfold execSamplePreload at e
  injection e with e
  subst e
  repeat' (first
    | with_reducible assumption
    | with_reducible apply State.tap_kept
    | with_reducible apply State.modTap_kept
    | with_reducible apply kept_foldl
    | intro _
    | with_reducible apply kept_ite)

theorem execExtest_kept (x : Nat) {s : State} {t : State} (e : execExtest x s = .next t) (h : Kept K F s) : Kept K F t := by
  unfold execExtest at e
  injection e with e
  subst e
  repeat' (first
    | with_reducible assumption
    | with_reducible apply State.tap_kept)

theorem execHighz_kept (x : Nat) {s : State} {t : State} (e : execHighz x s = .next t) (h : Kept K F s) : Kept K F t := by
  unfold execHighz at e
  injection e with e
  subst e
  repeat' (first
    | with_reducible assumption
    | with_reducible apply State.tap_kept)

theorem execClamp_kept (x : Nat) {s : State} {t : State} (e : execClamp x s = .next t) (h : Kept K F s) : Kept K F t := by
  unfold execClamp at e
  injection e with e
  subst e
  repeat' (first
    | with_reducible assumption
    | with_reducible apply State.tap_kept)

theorem execBypass_kept (x : Nat) (opcode : Nat) {s : State} {t : State} (e : execBypass x opcode s = .next t) (h : Kept K F s) : Kept K F t := by
  unfold execBypass at e
  injection e with e
  subst e
  repeat' (first
    | with_reducible assumption
    | with_reducible apply State.tap_kept)

theorem execTapReset_kept {s : State} {t : State} (e : execTapReset s = .next t) (h : Kept K F s) : Kept K F t := by
  unfold execTapReset at e
  injection e with e
  subst e
  repeat' (first
    | with_reducible assumption
    | with_reducible apply kept_foldl
    | intro _
    | with_reducible apply kept_ite
    | dsimp only
    | split
    | with_reducible apply KeptM.back
    | (show KeptM _ _ _ _ _ _ _ _; dsimp only))

/-! Machine/Fabric.lean. -/

theorem State.unroutable_kept (p : Nat) (vc : Nat) (dest : Nat) {s : State} (h : Kept K F s) : Kept K F (State.unroutable s p vc dest) := by
  unfold State.unroutable
  repeat' (first
    | with_reducible assumption
    | with_reducible apply State.event_kept)

theorem State.lnkFires_kept (p : Nat) (vc : Nat) {s : State} (h : Kept K F s) : Kept K F (State.lnkFires s p vc).1 := by
  unfold State.lnkFires
  repeat' (first
    | with_reducible assumption
    | with_reducible apply State.modPort_kept
    | with_reducible apply State.setReg_kept
    | with_reducible apply kept_foldl
    | intro _
    | with_reducible apply kept_ite
    | dsimp only
    | split)

theorem State.putFlit_kept (p : Nat) (b : List Byte) {s : State} (h : Kept K F s) : Kept K F (State.putFlit s p b) := by
  unfold State.putFlit
  repeat' (first
    | with_reducible assumption
    | (with_reducible apply kept_of_pair; assumption)
    | with_reducible apply State.modPort_kept
    | with_reducible apply State.lnkFires_kept
    | with_reducible apply State.emit_kept
    | with_reducible apply kept_foldl
    | with_reducible apply kept_foldl_fst
    | intro _
    | with_reducible apply kept_ite
    | dsimp only
    | split)

theorem State.freeRx_kept (p : Nat) (vc : Nat) (b : List Byte) {s : State} (h : Kept K F s) : Kept K F (State.freeRx s p vc b) := by
  unfold State.freeRx
  repeat' (first
    | with_reducible assumption
    | with_reducible apply State.modPort_kept)

theorem State.pump_kept (p : Nat) (y1 : Nat) {s : State} (h : Kept K F s) : Kept K F (State.pump p y1 s) := by
  induction y1 generalizing s with
  | zero => exact h
  | succ n ih =>
    simp only [State.pump]
    split
    · exact h
    · apply ih
      have g : ∀ q f, Kept K F (((s.modPort p q).putFlit p f).incReg64 (pgLNK p + 0x50) 1) := fun q f =>
        State.incReg64_kept _ _ (State.putFlit_kept _ _ (State.modPort_kept _ _ h))
      apply kept_ite
      · exact State.freeRx_kept _ _ _ (g _ _)
      · exact g _ _

theorem State.pumpAll_kept (p : Nat) {s : State} (h : Kept K F s) : Kept K F (State.pumpAll s p) := by
  unfold State.pumpAll
  repeat' (first
    | with_reducible assumption
    | with_reducible apply State.pump_kept)

theorem State.queueOwn_kept (p : Nat) (fs : List (List Byte)) {s : State} (h : Kept K F s) : Kept K F (State.queueOwn s p fs) := by
  unfold State.queueOwn
  repeat' (first
    | with_reducible assumption
    | with_reducible apply State.modPort_kept
    | with_reducible apply State.pumpAll_kept)

theorem State.sendTo_kept (x : Nat) (vc : Nat) (dest : Nat) (fs : List (List Byte)) {s : State} (h : Kept K F s) : Kept K F (State.sendTo s x vc dest fs) := by
  unfold State.sendTo
  repeat' (first
    | with_reducible assumption
    | with_reducible apply State.unroutable_kept
    | with_reducible apply State.queueOwn_kept
    | with_reducible apply kept_foldl
    | intro _
    | with_reducible apply kept_ite)

theorem State.sendBare_kept (p : Nat) (kind : Nat) (seq : Nat) {s : State} (h : Kept K F s) : Kept K F (State.sendBare s p kind seq) := by
  unfold State.sendBare
  repeat' (first
    | with_reducible assumption
    | with_reducible apply State.modPort_kept
    | with_reducible apply State.emit_kept)

/-! Machine/Coelostat.lean. -/

theorem State.coelWrite_kept (k : Coel) (off : Nat) (bs : List Byte) (poison : List Nat) {s : State} (h : Kept K F s) : Kept K F (State.coelWrite s k off bs poison) := by
  unfold State.coelWrite
  repeat' (first
    | with_reducible assumption
    | with_reducible apply State.cacheRange_kept
    | with_reducible apply State.stkWrite_kept
    | with_reducible apply State.stkPoison_kept
    | with_reducible apply State.emit_kept
    | with_reducible apply kept_foldl
    | intro _
    | with_reducible apply kept_ite
    | dsimp only
    | split
    | with_reducible apply KeptM.back
    | (show KeptM _ _ _ _ _ _ _ _; dsimp only))

theorem State.coelRead_kept (k : Coel) (host : Nat) {s : State} (h : Kept K F s) : Kept K F (State.coelRead s k host) := by
  unfold State.coelRead
  repeat' (first
    | with_reducible assumption
    | with_reducible apply State.coelWrite_kept
    | with_reducible apply kept_foldl
    | intro _
    | with_reducible apply kept_ite
    | dsimp only
    | split)

theorem State.coelCmd_kept (c : Ctx) (y2 : CmdTag) (p : List Byte) {s : State} (h : Kept K F s) : Kept K F (State.coelCmd s c y2 p) := by
  unfold State.coelCmd
  repeat' (first
    | with_reducible assumption
    | with_reducible apply State.coelRead_kept
    | with_reducible apply State.refuseCode_kept
    | with_reducible apply kept_foldl
    | intro _
    | with_reducible apply kept_ite
    | dsimp only
    | split
    | with_reducible apply KeptM.back
    | (show KeptM _ _ _ _ _ _ _ _; dsimp only))

theorem execCoelostat_kept (c : Ctx) {s : State} {t : State} (e : execCoelostat c s = .next t) (h : Kept K F s) : Kept K F t := by
  unfold execCoelostat at e
  injection e with e
  subst e
  repeat' (first
    | with_reducible assumption
    | with_reducible apply State.takeIf_kept
    | with_reducible apply State.coelCmd_kept
    | with_reducible apply kept_foldl
    | intro _)

theorem execCoelostatMessage_kept (offset : Nat) (data : List Byte) (poison : List Nat) {s : State} {t : State} (e : execCoelostatMessage offset data s poison = .next t) (h : Kept K F s) : Kept K F t := by
  unfold execCoelostatMessage at e
  injection e with e
  subst e
  repeat' (first
    | with_reducible assumption
    | with_reducible apply State.coelWrite_kept
    | with_reducible apply kept_foldl
    | intro _
    | with_reducible apply kept_ite
    | dsimp only
    | split)

theorem State.coelEnd_kept {s : State} (h : Kept K F s) : Kept K F (State.coelEnd s) := by
  unfold State.coelEnd
  repeat' (first
    | with_reducible assumption
    | with_reducible apply State.endCoel_kept
    | with_reducible apply State.complete_kept
    | with_reducible apply State.done_kept
    | with_reducible apply State.emit_kept
    | with_reducible apply kept_foldl
    | intro _
    | with_reducible apply kept_ite
    | dsimp only
    | split)

theorem State.coelCheck_kept (k : Coel) {s : State} (h : Kept K F s) : Kept K F (State.coelCheck s k) := by
  unfold State.coelCheck
  repeat' (first
    | with_reducible assumption
    | with_reducible apply State.coelRangeLost_kept
    | with_reducible apply State.coelEnd_kept
    | with_reducible apply State.coelFail_kept
    | with_reducible apply kept_foldl
    | intro _
    | with_reducible apply kept_ite
    | dsimp only
    | split
    | with_reducible apply KeptM.back
    | (show KeptM _ _ _ _ _ _ _ _; dsimp only))

theorem execCoelostatReport_kept (child : Option Nat) (failed : List Nat) {s : State} {t : State} (e : execCoelostatReport child failed s = .next t) (h : Kept K F s) : Kept K F t := by
  unfold execCoelostatReport at e
  injection e with e
  subst e
  repeat' (first
    | with_reducible assumption
    | with_reducible apply State.coelCheck_kept
    | with_reducible apply State.coelEnd_kept
    | with_reducible apply kept_foldl
    | intro _
    | with_reducible apply kept_ite
    | dsimp only
    | split
    | with_reducible apply KeptM.back
    | (show KeptM _ _ _ _ _ _ _ _; dsimp only))

end Sys2Proof.Machine
end

