-- ==== Sys2Proof/Laws/KeptLine.lean ====
section
/-! SUPPORT. What the operations of the Ephemeris lines and of the links that their messages take keep (Laws/Kept.lean): one lemma per function, named after it. -/

namespace Sys2Proof.Machine

variable {K : List (Option Committed) → Prop} {F : Mem → Prop}

/-! Machine/Arrays.lean. -/

theorem State.fillBank_kept (k : Nat) (key : Nat) (y3 : BankTag) {s : State} (h : Kept K F s) : Kept K F (State.fillBank s k key y3) := by
  unfold State.fillBank
  repeat' (first
    | with_reducible assumption
    | ((with_reducible apply State.modTile_kept); (intro _ w; exact w)))

theorem State.reload_kept (x : LCtx) {s : State} (h : Kept K F s) : Kept K F (State.reload s x) := by
  unfold State.reload
  repeat' (first
    | with_reducible assumption
    | with_reducible apply State.fillBank_kept
    | with_reducible apply State.countEvent_kept
    | with_reducible apply kept_foldl
    | intro _)

theorem State.aldFx_kept (x : LCtx) (s0 : State) (us : List Upset) {s : State} (h : Kept K F s) : Kept K F ((State.aldFx s0 x).run us s).1 := by
  unfold State.aldFx
  repeat' (first
    | with_reducible assumption
    | with_reducible apply State.fillBank_kept
    | with_reducible apply State.modTctx_kept
    | with_reducible apply kept_foldl
    | intro _)

theorem State.aospFx_kept (x : LCtx) (s0 : State) (us : List Upset) {s : State} (h : Kept K F s) : Kept K F ((State.aospFx s0 x).run us s).1 := by
  unfold State.aospFx
  repeat' (first
    | with_reducible assumption
    | with_reducible apply State.modTctx_kept)

theorem State.passWrite_kept (x : LCtx) (p : Pass) (out : List (List OutEl × List OutEl)) {s : State} (h : Kept K F s) : Kept K F (State.passWrite s x p out).1 := by
  unfold State.passWrite
  repeat' (first
    | with_reducible assumption
    | (with_reducible apply kept_of_pair; assumption)
    | with_reducible apply State.writeEls_kept
    | with_reducible apply kept_foldl
    | with_reducible apply kept_foldl_fst
    | intro _
    | with_reducible apply kept_ite
    | dsimp only
    | split)

theorem State.keepRow_kept (x : LCtx) (p : Pass) (ups : List Upset) {s : State} (h : Kept K F s) : Kept K F (State.keepRow s x p ups) := by
  unfold State.keepRow
  repeat' (first
    | with_reducible assumption
    | (with_reducible apply State.modTile_kept (by intro _ w; exact w)))

theorem State.ammFx_kept (x : LCtx) (s0 : State) (us : List Upset) {s : State} (h : Kept K F s) : Kept K F ((State.ammFx s0 x).run us s).1 := by
  unfold State.ammFx
  repeat' (first
    | with_reducible assumption
    | (with_reducible apply kept_of_pair; assumption)
    | with_reducible apply State.incReg_kept
    | with_reducible apply State.passWrite_kept
    | with_reducible apply State.reload_kept
    | with_reducible apply State.keepRow_kept
    | with_reducible apply kept_foldl
    | with_reducible apply kept_foldl_fst
    | intro _
    | with_reducible apply kept_ite)

theorem State.aoutFx_kept (x : LCtx) (s0 : State) (us : List Upset) {s : State} (h : Kept K F s) : Kept K F ((State.aoutFx s0 x).run us s).1 := by
  unfold State.aoutFx
  repeat' (first
    | with_reducible assumption
    | (with_reducible apply kept_of_pair; assumption)
    | with_reducible apply State.passWrite_kept)

/-! Machine/Vector.lean. -/

theorem State.writeVec_kept (v : Env) (d : Desc) (fills : List OutEl) (els : List OutEl) {s : State} (h : Kept K F s) : Kept K F (State.writeVec s v d fills els).1 := by
  unfold State.writeVec
  repeat' (first
    | with_reducible assumption
    | (with_reducible apply kept_of_pair; assumption)
    | with_reducible apply State.writeEls_kept)

theorem State.vgthFx_kept (x : LCtx) (s0 : State) (us : List Upset) {s : State} (h : Kept K F s) : Kept K F ((State.vgthFx s0 x).run us s).1 := by
  unfold State.vgthFx
  repeat' (first
    | with_reducible assumption
    | (with_reducible apply kept_of_pair; assumption)
    | with_reducible apply State.incReg_kept
    | with_reducible apply State.writeVec_kept)

theorem State.setVreg_kept (k : Nat) (c : Ctx) (r : Nat) (v : BitVec 4096) {s : State} (h : Kept K F s) : Kept K F (State.setVreg s k c r v) := by
  unfold State.setVreg
  repeat' (first
    | with_reducible assumption
    | with_reducible apply State.modTctx_kept)

theorem State.vldFx_kept (x : LCtx) (s0 : State) (us : List Upset) {s : State} (h : Kept K F s) : Kept K F ((State.vldFx s0 x).run us s).1 := by
  unfold State.vldFx
  repeat' (first
    | with_reducible assumption
    | with_reducible apply State.setVreg_kept)

theorem State.vsctFx_kept (x : LCtx) (s0 : State) (us : List Upset) {s : State} (h : Kept K F s) : Kept K F ((State.vsctFx s0 x).run us s).1 := by
  unfold State.vsctFx
  repeat' (first
    | with_reducible assumption
    | (with_reducible apply kept_of_pair; assumption)
    | with_reducible apply State.writeVec_kept)

theorem State.vchWrite_kept (x : LCtx) (r : Chain) {s : State} (h : Kept K F s) : Kept K F (State.vchWrite s x r).1 := by
  unfold State.vchWrite
  repeat' (first
    | with_reducible assumption
    | (with_reducible apply kept_of_pair; assumption)
    | with_reducible apply State.writeEls_kept
    | with_reducible apply State.setVreg_kept
    | with_reducible apply State.writeVec_kept
    | with_reducible apply kept_foldl
    | with_reducible apply kept_foldl_fst
    | intro _
    | with_reducible apply kept_ite
    | dsimp only
    | split)

theorem State.vchFx_kept (x : LCtx) (s0 : State) (us : List Upset) {s : State} (h : Kept K F s) : Kept K F ((State.vchFx s0 x).run us s).1 := by
  unfold State.vchFx
  repeat' (first
    | with_reducible assumption
    | (with_reducible apply kept_of_pair; assumption)
    | with_reducible apply State.vchWrite_kept)

theorem State.vstFx_kept (x : LCtx) (s0 : State) (us : List Upset) {s : State} (h : Kept K F s) : Kept K F ((State.vstFx s0 x).run us s).1 := by
  unfold State.vstFx
  repeat' (first
    | with_reducible assumption
    | (with_reducible apply kept_of_pair; assumption)
    | with_reducible apply State.writeVec_kept)

theorem State.vsmxFx_kept (x : LCtx) (s0 : State) (us : List Upset) {s : State} (h : Kept K F s) : Kept K F ((State.vsmxFx s0 x).run us s).1 := by
  unfold State.vsmxFx
  repeat' (first
    | with_reducible assumption
    | (with_reducible apply kept_of_pair; assumption)
    | with_reducible apply State.writeEls_kept
    | with_reducible apply State.writeVec_kept
    | with_reducible apply kept_foldl
    | with_reducible apply kept_foldl_fst
    | intro _
    | with_reducible apply kept_ite
    | dsimp only
    | split)

/-! Machine/Transfer.lean. -/

theorem State.offload_kept (v : Env) (y2 : Stash) (bs : List Byte) {s : State} (h : Kept K F s) : Kept K F (State.offload s v y2 bs) := by
  unfold State.offload
  repeat' (first
    | with_reducible assumption
    | with_reducible apply State.spWrite_kept
    | with_reducible apply kept_foldl
    | intro _
    | with_reducible apply kept_ite)

theorem State.stashWrite_kept (v : Env) (y2 : Stash) {s : State} (h : Kept K F s) : Kept K F (State.stashWrite s v y2) := by
  unfold State.stashWrite
  repeat' (first
    | with_reducible assumption
    | with_reducible apply State.offload_kept
    | with_reducible apply State.spWrite_kept
    | with_reducible apply kept_foldl
    | intro _
    | with_reducible apply kept_ite)

theorem State.writeRaw_kept (v : Env) (d : Desc) (els : List OutEl) {s : State} (h : Kept K F s) : Kept K F (State.writeRaw s v d els).1 := by
  unfold State.writeRaw
  repeat' (first
    | with_reducible assumption
    | (with_reducible apply kept_of_pair; assumption)
    | with_reducible apply State.spClean_kept
    | with_reducible apply State.elWrite_kept
    | with_reducible apply kept_foldl
    | with_reducible apply kept_foldl_fst
    | intro _)

theorem State.stashRestore_kept (v : Env) (y2 : Env) (y3 : Stash) (win : Bool) (line : Nat) {s : State} (h : Kept K F s) : Kept K F (State.stashRestore s v y2 y3 win line).1 := by
  unfold State.stashRestore
  repeat' (first
    | with_reducible assumption
    | (with_reducible apply kept_of_pair; assumption)
    | with_reducible apply State.writeRaw_kept)

theorem State.pmovCopy_kept (x : LCtx) (lins : List Nat) {s : State} (h : Kept K F s) : Kept K F (State.pmovCopy s x lins).1 := by
  unfold State.pmovCopy
  repeat' (first
    | with_reducible assumption
    | (with_reducible apply kept_of_pair; assumption)
    | with_reducible apply State.writeEls_kept
    | with_reducible apply State.writeRaw_kept
    | with_reducible apply kept_foldl
    | with_reducible apply kept_foldl_fst
    | intro _
    | with_reducible apply kept_ite
    | dsimp only
    | split)

theorem State.pmovFx_kept (x : LCtx) (s0 : State) (us : List Upset) {s : State} (h : Kept K F s) : Kept K F ((State.pmovFx s0 x).run us s).1 := by
  unfold State.pmovFx
  repeat' (first
    | with_reducible assumption
    | (with_reducible apply kept_of_pair; assumption)
    | with_reducible apply State.modTctx_kept
    | with_reducible apply State.stashWrite_kept
    | with_reducible apply State.stashRestore_kept
    | with_reducible apply State.pmovCopy_kept
    | with_reducible apply State.spWrite_kept
    | with_reducible apply kept_foldl
    | with_reducible apply kept_foldl_fst
    | intro _
    | with_reducible apply kept_ite
    | dsimp only
    | split)

/-! Machine/Handoff.lean. -/

theorem State.sendMember_kept (p : Plan) (c : Ctx) (j : Nat) (r : StepRun) (data : List Byte) (poison : List Nat) (i : Nat) {s : State} (h : Kept K F s) : Kept K F (State.sendMember s p c j r data poison i) := by
  unfold State.sendMember
  repeat' (first
    | with_reducible assumption
    | with_reducible apply State.sendTo_kept
    | with_reducible apply kept_foldl
    | intro _)

theorem State.modPlan_kept (c : Ctx) (j : Nat) (f : PlanSt → PlanSt) {s : State} (h : Kept K F s) : Kept K F (State.modPlan s c j f) := by
  unfold State.modPlan
  repeat' (first
    | with_reducible assumption
    | with_reducible apply kept_foldl
    | intro _
    | with_reducible apply kept_ite
    | dsimp only
    | split
    | with_reducible apply KeptM.back
    | (show KeptM _ _ _ _ _ _ _ _; dsimp only))

theorem State.stagePart_kept (c : Ctx) (j : Nat) (offset : Nat) (q : Part) {s : State} (h : Kept K F s) : Kept K F (State.stagePart s c j offset q) := by
  unfold State.stagePart
  repeat' (first
    | with_reducible assumption
    | with_reducible apply State.modPlan_kept
    | with_reducible apply State.loseKeys_kept)

theorem State.planSend_kept (v : Env) (j : Nat) (d0 : Nat) (record : Option Nat) {s : State} (h : Kept K F s) : Kept K F (State.planSend s v j d0 record) := by
  unfold State.planSend
  repeat' (first
    | with_reducible assumption
    | (with_reducible apply kept_of_pair; assumption)
    | with_reducible apply State.injectAt_kept
    | with_reducible apply State.sendMember_kept
    | with_reducible apply State.stagePart_kept
    | with_reducible apply kept_foldl
    | with_reducible apply kept_foldl_fst
    | intro _
    | with_reducible apply kept_ite
    | dsimp only
    | split)

theorem State.sendFx_kept (x : LCtx) (record : Option Nat) (s0 : State) (us : List Upset) {s : State} (h : Kept K F s) : Kept K F ((State.sendFx s0 x record).run us s).1 := by
  unfold State.sendFx
  repeat' (first
    | with_reducible assumption
    | with_reducible apply State.planSend_kept)

theorem State.psendFx_kept (x : LCtx) (s0 : State) (us : List Upset) {s : State} (h : Kept K F s) : Kept K F ((State.psendFx s0 x).run us s).1 := by
  unfold State.psendFx
  repeat' (first
    | with_reducible assumption
    | with_reducible apply State.sendFx_kept)

theorem State.crecvFx_kept (x : LCtx) (s0 : State) (us : List Upset) {s : State} (h : Kept K F s) : Kept K F ((State.crecvFx s0 x).run us s).1 := by
  unfold State.crecvFx
  repeat' with_reducible assumption

theorem State.csendFx_kept (x : LCtx) (s0 : State) (us : List Upset) {s : State} (h : Kept K F s) : Kept K F ((State.csendFx s0 x).run us s).1 := by
  unfold State.csendFx
  repeat' (first
    | with_reducible assumption
    | with_reducible apply State.sendFx_kept)

theorem State.precvFx_kept (x : LCtx) (s0 : State) (us : List Upset) {s : State} (h : Kept K F s) : Kept K F ((State.precvFx s0 x).run us s).1 := by
  unfold State.precvFx
  repeat' (first
    | with_reducible assumption
    | with_reducible apply State.crecvFx_kept)

theorem State.cupdFx_kept (x : LCtx) (s0 : State) (us : List Upset) {s : State} (h : Kept K F s) : Kept K F ((State.cupdFx s0 x).run us s).1 := by
  unfold State.cupdFx
  repeat' (first
    | with_reducible assumption
    | with_reducible apply State.sendFx_kept)

theorem State.recvWrite_kept (v : Env) (j1 : Nat) (res : List Byte × List Nat) (n : Nat) {s : State} (h : Kept K F s) : Kept K F (State.recvWrite s v j1 res n).1 := by
  unfold State.recvWrite
  repeat' (first
    | with_reducible assumption
    | (with_reducible apply kept_of_pair; assumption)
    | with_reducible apply State.spMark_kept
    | with_reducible apply State.writeRaw_kept)

theorem State.reducePlan_kept (c : Ctx) (j : Nat) {s : State} (h : Kept K F s) : Kept K F (State.reducePlan s c j) := by
  unfold State.reducePlan
  repeat' (first
    | with_reducible assumption
    | with_reducible apply State.modPlan_kept
    | with_reducible apply kept_foldl
    | intro _
    | with_reducible apply kept_ite
    | dsimp only
    | split
    | with_reducible apply KeptM.back
    | (show KeptM _ _ _ _ _ _ _ _; dsimp only))

theorem execCollectiveReduce_kept (c : Ctx) (plan : Nat) {s : State} {t : State} (e : execCollectiveReduce c plan s = .next t) (h : Kept K F s) : Kept K F t := by
  unfold execCollectiveReduce at e
  injection e with e
  subst e
  repeat' (first
    | with_reducible assumption
    | with_reducible apply State.reducePlan_kept
    | with_reducible apply kept_foldl
    | intro _
    | with_reducible apply kept_ite
    | dsimp only
    | split)

theorem State.planArrive_kept (c : Ctx) (j : Nat) (member : Nat) (port : Nat) (m : Nat × Nat) (offset : Nat) (data : List Byte) (poison : List Nat) {s : State} (h : Kept K F s) : Kept K F (State.planArrive s c j member port m offset data poison) := by
  unfold State.planArrive
  repeat' (first
    | with_reducible assumption
    | with_reducible apply State.countEvent_kept
    | with_reducible apply State.stagePart_kept
    | with_reducible apply kept_foldl
    | intro _
    | with_reducible apply kept_ite)

theorem execPlanDataArrival_kept (c : Ctx) (plan : Nat) (member : Nat) (stepMsg : Bool) (attempt : Nat) (stepLo : Nat) (offset : Nat) (data : List Byte) (poison : List Nat) {s : State} {t : State} (e : execPlanDataArrival c plan member stepMsg attempt stepLo data poison s offset = .next t) (h : Kept K F s) : Kept K F t := by
  unfold execPlanDataArrival at e
  injection e with e
  subst e
  repeat' (first
    | with_reducible assumption
    | with_reducible apply State.planArrive_kept
    | with_reducible apply kept_foldl
    | intro _
    | with_reducible apply kept_ite
    | dsimp only
    | split)

theorem State.planFrom_kept (p : Nat) (c : Ctx) (y3 : MsgHdr) (data : List Byte) (poison : List Nat) {s : State} (h : Kept K F s) : Kept K F (State.planFrom s p c y3 data poison) := by
  unfold State.planFrom
  repeat' (first
    | with_reducible assumption
    | with_reducible apply State.planArrive_kept
    | with_reducible apply kept_foldl
    | intro _
    | with_reducible apply kept_ite
    | dsimp only
    | split)

/-! Machine/Link.lean. -/

theorem State.askRetry_kept (p : Nat) {s : State} (h : Kept K F s) : Kept K F (State.askRetry s p) := by
  unfold State.askRetry
  repeat' (first
    | with_reducible assumption
    | with_reducible apply State.modPort_kept
    | with_reducible apply State.incReg_kept
    | with_reducible apply State.sendBare_kept
    | with_reducible apply kept_foldl
    | intro _
    | with_reducible apply kept_ite)

theorem State.takeHeader_kept (p : Nat) (b : List Byte) {s : State} (h : Kept K F s) : Kept K F (State.takeHeader s p b) := by
  unfold State.takeHeader
  repeat' (first
    | with_reducible assumption
    | with_reducible apply State.modPort_kept
    | with_reducible apply State.pumpAll_kept)

theorem State.takeMsg_kept (p : Nat) (fs : List (List Byte)) {s : State} (h : Kept K F s) : Kept K F (State.takeMsg s p fs) := by
  unfold State.takeMsg
  repeat' (first
    | with_reducible assumption
    | with_reducible apply State.planFrom_kept)

theorem State.takeLocal_kept (p : Nat) (b : List Byte) {s : State} (h : Kept K F s) : Kept K F (State.takeLocal s p b) := by
  unfold State.takeLocal
  repeat' (first
    | with_reducible assumption
    | with_reducible apply State.modPort_kept
    | with_reducible apply State.takeMsg_kept
    | with_reducible apply State.freeRx_kept
    | with_reducible apply kept_foldl
    | intro _
    | with_reducible apply kept_ite)

theorem State.routeFlit_kept (p : Nat) (b : List Byte) {s : State} (h : Kept K F s) : Kept K F (State.routeFlit s p b) := by
  unfold State.routeFlit
  repeat' (first
    | with_reducible assumption
    | with_reducible apply State.modPort_kept
    | with_reducible apply State.takeLocal_kept
    | with_reducible apply State.unroutable_kept
    | with_reducible apply State.pumpAll_kept
    | with_reducible apply State.countEvent_kept
    | with_reducible apply State.freeRx_kept
    | with_reducible apply kept_foldl
    | intro _
    | with_reducible apply kept_ite)

theorem State.acceptFlit_kept (p : Nat) (b : List Byte) {s : State} (h : Kept K F s) : Kept K F (State.acceptFlit s p b) := by
  unfold State.acceptFlit
  repeat' (first
    | with_reducible assumption
    | with_reducible apply State.modPort_kept
    | with_reducible apply State.takeHeader_kept
    | with_reducible apply State.incReg64_kept
    | with_reducible apply State.routeFlit_kept
    | with_reducible apply State.sendBare_kept
    | with_reducible apply kept_foldl
    | intro _
    | with_reducible apply kept_ite)

theorem State.resend_kept (p : Nat) (seq : Nat) {s : State} (h : Kept K F s) : Kept K F (State.resend s p seq) := by
  unfold State.resend
  repeat' (first
    | with_reducible assumption
    | with_reducible apply State.putFlit_kept
    | with_reducible apply kept_foldl
    | intro _
    | with_reducible apply kept_ite
    | dsimp only
    | split)

theorem State.retrain_kept (p : Nat) {s : State} (h : Kept K F s) : Kept K F (State.retrain s p) := by
  unfold State.retrain
  repeat' (first
    | with_reducible assumption
    | with_reducible apply State.modPort_kept
    | with_reducible apply State.setRegField_kept
    | with_reducible apply State.event_kept)

theorem State.retryFor_kept (p : Nat) (seq : Nat) {s : State} (h : Kept K F s) : Kept K F (State.retryFor s p seq) := by
  unfold State.retryFor
  repeat' (first
    | with_reducible assumption
    | with_reducible apply State.modPort_kept
    | with_reducible apply State.resend_kept
    | with_reducible apply State.retrain_kept
    | with_reducible apply kept_foldl
    | intro _
    | with_reducible apply kept_ite)

theorem State.flitIn_kept (p : Nat) (b : List Byte) (fec : FecEnd) {s : State} (h : Kept K F s) : Kept K F (State.flitIn s p b fec) := by
  unfold State.flitIn
  repeat' (first
    | with_reducible assumption
    | with_reducible apply State.acceptFlit_kept
    | with_reducible apply State.takeHeader_kept
    | with_reducible apply State.retryFor_kept
    | with_reducible apply State.incReg_kept
    | with_reducible apply State.askRetry_kept
    | with_reducible apply kept_foldl
    | intro _
    | with_reducible apply kept_ite
    | dsimp only
    | split)

theorem execFlitReceive_kept (port : Nat) (bytes : List Byte) (fec : FecEnd) {s : State} {t : State} (e : execFlitReceive port bytes fec s = .next t) (h : Kept K F s) : Kept K F t := by
  unfold execFlitReceive at e
  injection e with e
  subst e
  repeat' (first
    | with_reducible assumption
    | with_reducible apply State.flitIn_kept
    | with_reducible apply kept_foldl
    | intro _
    | with_reducible apply kept_ite)

theorem execRetryRequest_kept (port : Nat) (seq : Nat) {s : State} {t : State} (e : execRetryRequest port seq s = .next t) (h : Kept K F s) : Kept K F t := by
  unfold execRetryRequest at e
  injection e with e
  subst e
  repeat' (first
    | with_reducible assumption
    | with_reducible apply State.retryFor_kept
    | with_reducible apply kept_foldl
    | intro _
    | with_reducible apply kept_ite)

theorem execRetryRequestTimer_kept (port : Nat) {s : State} {t : State} (e : execRetryRequestTimer port s = .next t) (h : Kept K F s) : Kept K F t := by
  unfold execRetryRequestTimer at e
  injection e with e
  subst e
  repeat' (first
    | with_reducible assumption
    | with_reducible apply State.incReg_kept
    | with_reducible apply State.sendBare_kept
    | with_reducible apply kept_foldl
    | intro _
    | with_reducible apply kept_ite)

theorem execAckTimer_kept (port : Nat) {s : State} {t : State} (e : execAckTimer port s = .next t) (h : Kept K F s) : Kept K F t := by
  unfold execAckTimer at e
  injection e with e
  subst e
  repeat' (first
    | with_reducible assumption
    | with_reducible apply State.sendBare_kept
    | with_reducible apply kept_foldl
    | intro _
    | with_reducible apply kept_ite)

theorem execLinkRetrain_kept (port : Nat) {s : State} {t : State} (e : execLinkRetrain port s = .next t) (h : Kept K F s) : Kept K F t := by
  unfold execLinkRetrain at e
  injection e with e
  subst e
  repeat' (first
    | with_reducible assumption
    | with_reducible apply State.retrain_kept
    | with_reducible apply kept_foldl
    | intro _
    | with_reducible apply kept_ite)

theorem execLinkRetrainComplete_kept (port : Nat) (ok : Bool) {s : State} {t : State} (e : execLinkRetrainComplete port ok s = .next t) (h : Kept K F s) : Kept K F t := by
  unfold execLinkRetrainComplete at e
  injection e with e
  subst e
  repeat' (first
    | with_reducible assumption
    | with_reducible apply State.modPort_kept
    | with_reducible apply State.resend_kept
    | with_reducible apply State.portDown_kept
    | with_reducible apply State.pumpAll_kept
    | with_reducible apply kept_foldl
    | intro _
    | with_reducible apply kept_ite
    | dsimp only
    | split)

/-! Machine/Issue.lean. -/

theorem State.transient_kept (k : Nat) {s : State} (h : Kept K F s) : Kept K F (State.transient s k) := by
  unfold State.transient
  repeat' (first
    | with_reducible assumption
    | with_reducible apply State.tileDue_kept
    | with_reducible apply State.tick_kept
    | with_reducible apply State.modRole_kept
    | with_reducible apply kept_foldl
    | intro _
    | with_reducible apply kept_ite)

theorem State.parityOf_kept (x : LCtx) (f : Fx) (ups : List Upset) {s : State} (h : Kept K F s) : Kept K F (State.parityOf s x f ups).1 := by
  unfold State.parityOf
  repeat' (first
    | with_reducible assumption
    | (with_reducible apply kept_of_pair; assumption)
    | with_reducible apply State.injectAt_kept
    | with_reducible apply kept_foldl
    | with_reducible apply kept_foldl_fst
    | intro _
    | with_reducible apply kept_ite
    | dsimp only
    | split)

theorem kept_run_ite (p : Prop) [Decidable p] {f g : Fx} {us : List Upset} {s : State} (hf : Kept K F (f.run us s).1)
    (hg : Kept K F (g.run us s).1) : Kept K F ((if p then f else g).run us s).1 := by
  by_cases c : p
  · rw [if_pos c]; exact hf
  · rw [if_neg c]; exact hg

theorem State.fxOf_kept (x : LCtx) (s0 : State) (us : List Upset) {s : State} (h : Kept K F s) : Kept K F ((State.fxOf s0 x).run us s).1 := by
  unfold State.fxOf
  dsimp only
  refine kept_run_ite _ (State.pmovFx_kept _ _ _ h) ?_
  refine kept_run_ite _ (State.aldFx_kept _ _ _ h) ?_
  refine kept_run_ite _ (State.aospFx_kept _ _ _ h) ?_
  refine kept_run_ite _ (State.ammFx_kept _ _ _ h) ?_
  refine kept_run_ite _ (State.aoutFx_kept _ _ _ h) ?_
  refine kept_run_ite _ (State.vchFx_kept _ _ _ h) ?_
  refine kept_run_ite _ (State.vldFx_kept _ _ _ h) ?_
  refine kept_run_ite _ (State.vstFx_kept _ _ _ h) ?_
  refine kept_run_ite _ (State.vsmxFx_kept _ _ _ h) ?_
  refine kept_run_ite _ (State.vgthFx_kept _ _ _ h) ?_
  refine kept_run_ite _ (State.vsctFx_kept _ _ _ h) ?_
  refine kept_run_ite _ (State.csendFx_kept _ _ _ h) ?_
  refine kept_run_ite _ (State.crecvFx_kept _ _ _ h) ?_
  refine kept_run_ite _ (State.cupdFx_kept _ _ _ h) ?_
  refine kept_run_ite _ (State.psendFx_kept _ _ _ h) ?_
  refine kept_run_ite _ (State.precvFx_kept _ _ _ h) ?_
  exact h

theorem State.upsetRead_kept (as : List Acc) (u : Upset) {s : State} (h : Kept K F s) : Kept K F (State.upsetRead s as u) := by
  unfold State.upsetRead
  repeat' (first
    | with_reducible assumption
    | with_reducible apply State.spMark_kept
    | with_reducible apply State.sectorEnd_kept
    | with_reducible apply State.countEvent_kept
    | with_reducible apply kept_foldl
    | intro _
    | with_reducible apply kept_ite
    | dsimp only
    | split)

theorem State.lineReads_kept (as : List Acc) (ups : List Upset) {s : State} (h : Kept K F s) : Kept K F (State.lineReads s as ups) := by
  unfold State.lineReads
  repeat' (first
    | with_reducible assumption
    | with_reducible apply State.readUnits_kept
    | with_reducible apply State.upsetRead_kept
    | with_reducible apply kept_foldl
    | intro _)

theorem State.passInject_kept (x : LCtx) {s : State} (h : Kept K F s) : Kept K F (State.passInject s x).1 := by
  unfold State.passInject
  repeat' (first
    | with_reducible assumption
    | (with_reducible apply kept_of_pair; assumption)
    | with_reducible apply State.injectAt_kept)

theorem State.powerDrop_kept (x : LCtx) {s : State} (h : Kept K F s) : Kept K F (State.powerDrop s x) := by
  unfold State.powerDrop
  repeat' (first
    | with_reducible assumption
    | with_reducible apply State.modDie_kept)

theorem State.powerSet_kept (x : LCtx) (keep : Bool) {s : State} (h : Kept K F s) : Kept K F (State.powerSet s x keep) := by
  unfold State.powerSet
  repeat' (first
    | with_reducible assumption
    | with_reducible apply State.modDie_kept)

theorem State.stallTick_kept (x : LCtx) (r : Stall) {s : State} (h : Kept K F s) : Kept K F (State.stallTick s x r) := by
  unfold State.stallTick
  repeat' (first
    | with_reducible assumption
    | with_reducible apply State.inc48_kept)

theorem State.firePost_kept (k : Nat) (c : Ctx) (key : Nat) {s : State} (h : Kept K F s) : Kept K F (State.firePost s k c key) := by
  unfold State.firePost
  repeat' (first
    | with_reducible assumption
    | with_reducible apply State.modTctx_kept
    | with_reducible apply kept_foldl
    | intro _
    | with_reducible apply kept_ite
    | dsimp only
    | split)

theorem State.completePosts_kept (k : Nat) (c : Ctx) (no : Nat) {s : State} (h : Kept K F s) : Kept K F (State.completePosts s k c no) := by
  unfold State.completePosts
  repeat' (first
    | with_reducible assumption
    | with_reducible apply State.modTctx_kept
    | with_reducible apply State.firePost_kept
    | with_reducible apply kept_foldl
    | intro _)

theorem State.postBarriers_kept (k : Nat) (c : Ctx) (posts : List Nat) {s : State} (h : Kept K F s) : Kept K F (State.postBarriers s k c posts) := by
  unfold State.postBarriers
  repeat' (first
    | with_reducible assumption
    | with_reducible apply State.modTctx_kept
    | with_reducible apply kept_foldl
    | intro _)

theorem State.takeHead_kept (x : LCtx) (f : Fx) {s : State} (h : Kept K F s) : Kept K F (State.takeHead s x f) := by
  unfold State.takeHead
  repeat' (first
    | with_reducible assumption
    | with_reducible apply State.modTctx_kept
    | with_reducible apply State.powerSet_kept
    | ((with_reducible apply State.modTile_kept); (intro _ w; exact w)))

theorem State.tryIssue_kept (y1 : TileId) (c : Ctx) (op : Nat) (go : LCtx → Fx → State → State) (w : ∀ x0 x1 x2, Kept K F x2 → Kept K F (go x0 x1 x2)) {s : State} (h : Kept K F s) : Kept K F (State.tryIssue s y1 c op go) := by
  unfold State.tryIssue
  repeat' (first
    | with_reducible assumption
    | with_reducible apply State.powerDrop_kept
    | with_reducible apply State.stallTick_kept
    | with_reducible apply State.fxOf_kept
    | with_reducible apply State.powerSet_kept
    | apply w
    | with_reducible apply kept_foldl
    | intro _
    | with_reducible apply kept_ite
    | dsimp only
    | split)

theorem State.instant_kept (x : LCtx) (f : Fx) {s : State} (h : Kept K F s) : Kept K F (State.instant s x f) := by
  unfold State.instant
  repeat' (first
    | with_reducible assumption
    | with_reducible apply State.completePosts_kept
    | with_reducible apply State.takeHead_kept
    | with_reducible apply State.postBarriers_kept)

theorem State.copyAgain_kept (c : Ctx) (y2 : Hit) {s : State} (h : Kept K F s) : Kept K F (State.copyAgain s c y2) := by
  unfold State.copyAgain
  repeat' (first
    | with_reducible assumption
    | (with_reducible apply kept_of_pair; assumption)
    | with_reducible apply State.writeRaw_kept
    | with_reducible apply kept_foldl
    | with_reducible apply kept_foldl_fst
    | intro _
    | with_reducible apply kept_ite
    | dsimp only
    | split)

theorem State.fetchAgain_kept (c : Ctx) (j : Nat) {s : State} (h : Kept K F s) : Kept K F (State.fetchAgain s c j) := by
  unfold State.fetchAgain
  repeat' (first
    | with_reducible assumption
    | with_reducible apply State.loadInput_kept
    | with_reducible apply kept_foldl
    | intro _
    | with_reducible apply kept_ite
    | dsimp only
    | split)

theorem State.recoverHit_kept (x : LCtx) (f : Fx) (y3 : Hit) {s : State} (h : Kept K F s) : Kept K F (State.recoverHit s x f y3) := by
  unfold State.recoverHit
  repeat' (first
    | with_reducible assumption
    | with_reducible apply State.fetchAgain_kept
    | with_reducible apply State.copyAgain_kept
    | with_reducible apply State.event_kept
    | with_reducible apply kept_foldl
    | intro _
    | with_reducible apply kept_ite)

theorem State.poisonStep_kept (x : LCtx) (f : Fx) {s : State} (h : Kept K F s) : Kept K F (State.poisonStep s x f).1 := by
  unfold State.poisonStep
  repeat' (first
    | with_reducible assumption
    | with_reducible apply State.recoverHit_kept
    | with_reducible apply State.askReplay_kept
    | with_reducible apply State.killHw_kept
    | with_reducible apply kept_foldl
    | intro _
    | with_reducible apply kept_ite
    | dsimp only
    | split)

theorem State.parityDone_kept (x : LCtx) (unitNo : Nat) {s : State} (h : Kept K F s) : Kept K F (State.parityDone s x unitNo) := by
  unfold State.parityDone
  repeat' (first
    | with_reducible assumption
    | with_reducible apply State.countEvent_kept
    | with_reducible apply State.event_kept)

theorem State.fetch_kept (x : LCtx) (ups : List Upset) {s : State} (h : Kept K F s) : Kept K F (State.fetch s x ups).1 := by
  unfold State.fetch
  repeat' (first
    | with_reducible assumption
    | (with_reducible apply kept_of_pair; assumption)
    | with_reducible apply State.parityOf_kept
    | with_reducible apply State.fxOf_kept
    | with_reducible apply State.kill_kept
    | with_reducible apply State.poisonStep_kept
    | with_reducible apply State.parityDone_kept
    | with_reducible apply Fx.run_kept
    | with_reducible apply kept_foldl
    | with_reducible apply kept_foldl_fst
    | intro _
    | with_reducible apply kept_ite
    | dsimp only
    | split)

theorem State.dropCopies_kept (c : Ctx) (y2 : List Nat) {s : State} (h : Kept K F s) : Kept K F (State.dropCopies s c y2) := by
  unfold State.dropCopies
  repeat' (first
    | with_reducible assumption
    | with_reducible apply kept_foldl
    | intro _
    | with_reducible apply kept_ite
    | dsimp only
    | split
    | with_reducible apply KeptM.back
    | (show KeptM _ _ _ _ _ _ _ _; dsimp only)
    | with_reducible apply KeptM.stkN
    | with_reducible apply KeptM.stk1
    | with_reducible apply KeptM.rsvN
    | with_reducible apply KeptM.rsvClear
    | with_reducible apply KeptM.hostN
    | with_reducible apply KeptM.tilesMap
    | (show TileSt.ok _; first | assumption | exact ⟨rfl, rfl⟩ | exact TilesOk.get ‹TilesOk _› _)
    | (rename_i w; exact ⟨w.1, (length_modAt _ _ _).trans w.2⟩))

theorem State.sealTag_kept (v : Env) (j : Nat) {s : State} (h : Kept K F s) : Kept K F (State.sealTag s v j) := by
  unfold State.sealTag
  repeat' (first
    | with_reducible assumption
    | with_reducible apply State.spWrite_kept
    | with_reducible apply kept_foldl
    | intro _
    | with_reducible apply kept_ite
    | dsimp only
    | split)

theorem State.sealTags_kept (as : List Acc) {s : State} (h : Kept K F s) : Kept K F (State.sealTags s as) := by
  unfold State.sealTags
  repeat' (first
    | with_reducible assumption
    | with_reducible apply State.sealTag_kept
    | with_reducible apply kept_foldl
    | intro _)

theorem State.enterColl_kept (x : LCtx) (no : Nat) (unitNo : Nat) (m : Mis) (sig : Nat) (tc : Nat) {s : State} (h : Kept K F s) : Kept K F (State.enterColl s x no unitNo m sig tc).1 := by
  unfold State.enterColl
  repeat' (first
    | with_reducible assumption
    | with_reducible apply State.askReplay_kept
    | with_reducible apply State.modDie_kept
    | with_reducible apply State.countEvent_kept
    | with_reducible apply State.event_kept
    | with_reducible apply kept_foldl
    | intro _
    | with_reducible apply kept_ite
    | dsimp only
    | split)

/-- Whatever an effect runs on, it keeps the parts. -/
abbrev FxKept (K : List (Option Committed) → Prop) (F : Mem → Prop) (f : Fx) : Prop :=
  ∀ us s, Kept K F s → Kept K F (f.run us s).1

/-- What a run finds after its fetch is the line's effect on the state that it finds. -/
theorem State.fetch_fx {s t : State} {x : LCtx} {us : List Upset} {f : Fx} (e : s.fetch x us = (t, some f)) : ∃ s0 : State, f = s0.fxOf x := by
  unfold State.fetch at e
  dsimp only at e
  split at e
  · cases e
  · split at e
    · cases e
    · cases e
      exact ⟨_, rfl⟩

theorem fetched_kept {s t : State} {x : LCtx} {us : List Upset} {f : Fx} (e : s.fetch x us = (t, some f)) : FxKept K F f := by
  obtain ⟨s0, rfl⟩ := State.fetch_fx e
  exact fun us _ h => State.fxOf_kept x s0 us h

theorem State.passRun_kept (x : LCtx) (f : Fx) (ups : List Upset) (no : Nat) (tc : Nat) (w : FxKept K F f) {s : State} (h : Kept K F s) :
    Kept K F (State.passRun s x f ups no tc).1 := by
  unfold State.passRun
  dsimp only
  have h1 : Kept K F (s.passInject x).1 := State.passInject_kept x h
  split
  · exact w _ _ h1
  · have h3 : Kept K F (if (s.passInject x).2 = [] then ((s.passInject x).1, tc)
        else ((s.passInject x).1.tick, Config.injectTc (s.passInject x).1.free)).1 := by
      split
      · exact h1
      · exact State.tick_kept h1
    split
    · with_reducible apply kept_of_pair
      · assumption
      · exact State.enterColl_kept _ _ _ _ _ _ (w _ _ h3)
    · exact State.enterColl_kept _ _ _ _ _ _ h3

theorem State.vecMis_kept (x : LCtx) (ups : List Upset) {s : State} (h : Kept K F s) : Kept K F (State.vecMis s x ups).1 := by
  unfold State.vecMis
  repeat' (first
    | with_reducible assumption
    | (with_reducible apply kept_of_pair; assumption)
    | with_reducible apply State.injectAt_kept
    | with_reducible apply kept_foldl
    | with_reducible apply kept_foldl_fst
    | intro _
    | with_reducible apply kept_ite
    | dsimp only
    | split)

theorem State.vecRun_kept (x : LCtx) (f : Fx) (ups : List Upset) (again : List Upset) (w : FxKept K F f) {s : State} (h : Kept K F s) :
    Kept K F (State.vecRun s x f ups again).1 := by
  unfold State.vecRun
  dsimp only
  split
  · rename_i s1 e1
    exact w _ _ (kept_of_pair e1 (State.vecMis_kept _ _ h))
  · rename_i s1 m e1
    have h1 : Kept K F s1 := kept_of_pair e1 (State.vecMis_kept _ _ h)
    split
    · split
      · rename_i s2 e2
        exact kept_of_pair e2 (State.fetch_kept _ _ (State.lineReads_kept _ _ (State.event_kept _ _ h1)))
      · rename_i s2 g e2
        have h2 : Kept K F s2 := kept_of_pair e2 (State.fetch_kept _ _ (State.lineReads_kept _ _ (State.event_kept _ _ h1)))
        split
        · rename_i s3 m3 e3
          exact State.askReplay_kept _ _ _ _ (State.event_kept _ _ (kept_of_pair e3 (State.vecMis_kept _ _ h2)))
        · rename_i s3 e3
          exact fetched_kept e2 _ _ (State.transient_kept _ (State.tick_kept (State.tick_kept (State.event_kept _ _
            (kept_of_pair e3 (State.vecMis_kept _ _ h2))))))
    · exact State.askReplay_kept _ _ _ _ (State.event_kept _ _ h1)

theorem State.pushRunning_kept (x : LCtx) (f : Fx) (flags : Flags) (arb : Option Arb) {s : State} (h : Kept K F s) : Kept K F (State.pushRunning s x f flags arb) := by
  unfold State.pushRunning
  repeat' (first
    | with_reducible assumption
    | ((with_reducible apply State.modTile_kept); (intro _ w; exact w)))

/-- A way to run a line keeps the parts with every effect that does. -/
abbrev RunnerKept (K : List (Option Committed) → Prop) (F : Mem → Prop) (go : Runner) : Prop :=
  ∀ f s, FxKept K F f → Kept K F s → Kept K F (go f s).1

theorem plainRun_kept : RunnerKept K F plainRun := fun _ _ w h => w _ _ h

theorem State.startLine_kept (x : LCtx) (f : Fx) (ups : List Upset) (go : Runner) (w : RunnerKept K F go) {s : State} (h : Kept K F s) :
    Kept K F (State.startLine s x f ups go) := by
  unfold State.startLine
  split
  · exact State.kill_kept _ _ (State.takeHead_kept _ _ h)
  · dsimp only
    have h1 : Kept K F (s.lineReads f.reads ups) := State.lineReads_kept _ _ h
    split
    · exact State.stallTick_kept _ _ h1
    · split
      · rename_i s2 e2
        exact kept_of_pair e2 (State.fetch_kept _ _ (State.takeHead_kept _ _ h1))
      · rename_i s2 g e2
        have h2 : Kept K F s2 := kept_of_pair e2 (State.fetch_kept _ _ (State.takeHead_kept _ _ h1))
        have h3 := w g _ (fetched_kept e2) (State.dropCopies_kept x.c g.writeKeys h2)
        split
        · rename_i s4 e4
          exact kept_of_pair e4 h3
        · rename_i s4 fl arb e4
          have h4 : Kept K F s4 := kept_of_pair e4 h3
          exact State.pushRunning_kept _ _ _ _ (kept_ite _ h4 (State.sealTags_kept _ h4))

theorem execNop_kept (y0 : TileId) (c : Ctx) {s : State} {t : State} (e : execNop y0 c s = .next t) (h : Kept K F s) : Kept K F t := by
  unfold execNop at e
  injection e with e
  subst e
  repeat' (first
    | with_reducible assumption
    | with_reducible apply State.instant_kept
    | with_reducible apply State.tryIssue_kept)

theorem execLoop_kept (y0 : TileId) (c : Ctx) {s : State} {t : State} (e : execLoop y0 c s = .next t) (h : Kept K F s) : Kept K F t := by
  unfold execLoop at e
  injection e with e
  subst e
  repeat' (first
    | with_reducible assumption
    | with_reducible apply State.instant_kept
    | with_reducible apply State.tryIssue_kept)

theorem State.qwin_kept (x : LCtx) {s : State} (h : Kept K F s) : Kept K F (State.qwin s x) := by
  unfold State.qwin
  repeat' (first
    | with_reducible assumption
    | with_reducible apply State.modStack_kept
    | with_reducible apply kept_foldl
    | intro _)

theorem execQwin_kept (y0 : TileId) (c : Ctx) {s : State} {t : State} (e : execQwin y0 c s = .next t) (h : Kept K F s) : Kept K F t := by
  unfold execQwin at e
  injection e with e
  subst e
  repeat' (first
    | with_reducible assumption
    | with_reducible apply State.qwin_kept
    | with_reducible apply State.instant_kept
    | with_reducible apply State.tryIssue_kept
    | with_reducible apply kept_foldl
    | intro _)

theorem execStepend_kept (y0 : TileId) (c : Ctx) {s : State} {t : State} (e : execStepend y0 c s = .next t) (h : Kept K F s) : Kept K F t := by
  unfold execStepend at e
  injection e with e
  subst e
  repeat' (first
    | with_reducible assumption
    | with_reducible apply State.instant_kept
    | with_reducible apply State.postBarriers_kept
    | with_reducible apply State.tryIssue_kept
    | with_reducible apply kept_foldl
    | intro _)

theorem State.issuePlain_kept (y1 : TileId) (c : Ctx) (op : Nat) (ups : List Upset) {s : State} (h : Kept K F s) : Kept K F (State.issuePlain s y1 c op ups) := by
  unfold State.issuePlain
  exact State.tryIssue_kept _ _ _ _ (fun _ _ _ h => State.startLine_kept _ _ _ _ plainRun_kept h) h

theorem State.issuePass_kept (y1 : TileId) (c : Ctx) (op : Nat) (ups : List Upset) (tc : Nat) {s : State} (h : Kept K F s) : Kept K F (State.issuePass s y1 c op ups tc) := by
  unfold State.issuePass
  exact State.tryIssue_kept _ _ _ _ (fun _ _ _ h => State.startLine_kept _ _ _ _ (fun _ _ w h => State.passRun_kept _ _ _ _ _ w h) h) h

theorem State.issueVec_kept (y1 : TileId) (c : Ctx) (op : Nat) (ups : List Upset) (again : List Upset) {s : State} (h : Kept K F s) : Kept K F (State.issueVec s y1 c op ups again) := by
  unfold State.issueVec
  exact State.tryIssue_kept _ _ _ _ (fun _ _ _ h => State.startLine_kept _ _ _ _ (fun _ _ w h => State.vecRun_kept _ _ _ _ w h) h) h

theorem execPmov_kept (y0 : TileId) (c : Ctx) (ups : List Upset) {s : State} {t : State} (e : execPmov y0 c ups s = .next t) (h : Kept K F s) : Kept K F t := by
  unfold execPmov at e
  injection e with e
  subst e
  repeat' (first
    | with_reducible assumption
    | with_reducible apply State.issuePlain_kept)

theorem execAld_kept (y0 : TileId) (c : Ctx) (ups : List Upset) {s : State} {t : State} (e : execAld y0 c s ups = .next t) (h : Kept K F s) : Kept K F t := by
  unfold execAld at e
  injection e with e
  subst e
  repeat' (first
    | with_reducible assumption
    | with_reducible apply State.issuePlain_kept)

theorem execAosp_kept (y0 : TileId) (c : Ctx) (ups : List Upset) {s : State} {t : State} (e : execAosp y0 c s ups = .next t) (h : Kept K F s) : Kept K F t := by
  unfold execAosp at e
  injection e with e
  subst e
  repeat' (first
    | with_reducible assumption
    | with_reducible apply State.issuePlain_kept)

theorem execAmm_kept (y0 : TileId) (c : Ctx) (ups : List Upset) (tc : Nat) {s : State} {t : State} (e : execAmm y0 c ups s tc = .next t) (h : Kept K F s) : Kept K F t := by
  unfold execAmm at e
  injection e with e
  subst e
  repeat' (first
    | with_reducible assumption
    | with_reducible apply State.issuePass_kept)

theorem execAout_kept (y0 : TileId) (c : Ctx) (ups : List Upset) (tc : Nat) {s : State} {t : State} (e : execAout y0 c ups s tc = .next t) (h : Kept K F s) : Kept K F t := by
  unfold execAout at e
  injection e with e
  subst e
  repeat' (first
    | with_reducible assumption
    | with_reducible apply State.issuePass_kept)

theorem execVch_kept (y0 : TileId) (c : Ctx) (ups : List Upset) (again : List Upset) {s : State} {t : State} (e : execVch y0 c ups s again = .next t) (h : Kept K F s) : Kept K F t := by
  unfold execVch at e
  injection e with e
  subst e
  repeat' (first
    | with_reducible assumption
    | with_reducible apply State.issueVec_kept)

theorem execVld_kept (y0 : TileId) (c : Ctx) (ups : List Upset) {s : State} {t : State} (e : execVld y0 c s ups = .next t) (h : Kept K F s) : Kept K F t := by
  unfold execVld at e
  injection e with e
  subst e
  repeat' (first
    | with_reducible assumption
    | with_reducible apply State.issuePlain_kept)

theorem execVst_kept (y0 : TileId) (c : Ctx) {s : State} {t : State} (e : execVst y0 c s = .next t) (h : Kept K F s) : Kept K F t := by
  unfold execVst at e
  injection e with e
  subst e
  repeat' (first
    | with_reducible assumption
    | with_reducible apply State.issuePlain_kept)

theorem execVsmx_kept (y0 : TileId) (c : Ctx) (ups : List Upset) (again : List Upset) {s : State} {t : State} (e : execVsmx y0 c ups s again = .next t) (h : Kept K F s) : Kept K F t := by
  unfold execVsmx at e
  injection e with e
  subst e
  repeat' (first
    | with_reducible assumption
    | with_reducible apply State.issueVec_kept)

theorem execVgth_kept (y0 : TileId) (c : Ctx) (ups : List Upset) {s : State} {t : State} (e : execVgth y0 c s ups = .next t) (h : Kept K F s) : Kept K F t := by
  unfold execVgth at e
  injection e with e
  subst e
  repeat' (first
    | with_reducible assumption
    | with_reducible apply State.issuePlain_kept)

theorem execVsct_kept (y0 : TileId) (c : Ctx) (ups : List Upset) {s : State} {t : State} (e : execVsct y0 c s ups = .next t) (h : Kept K F s) : Kept K F t := by
  unfold execVsct at e
  injection e with e
  subst e
  repeat' (first
    | with_reducible assumption
    | with_reducible apply State.issuePlain_kept)

theorem execCsend_kept (y0 : TileId) (c : Ctx) (ups : List Upset) {s : State} {t : State} (e : execCsend y0 c s ups = .next t) (h : Kept K F s) : Kept K F t := by
  unfold execCsend at e
  injection e with e
  subst e
  repeat' (first
    | with_reducible assumption
    | with_reducible apply State.issuePlain_kept)

theorem execCrecv_kept (y0 : TileId) (c : Ctx) {s : State} {t : State} (e : execCrecv y0 c s = .next t) (h : Kept K F s) : Kept K F t := by
  unfold execCrecv at e
  injection e with e
  subst e
  repeat' (first
    | with_reducible assumption
    | with_reducible apply State.issuePlain_kept)

theorem execCupd_kept (y0 : TileId) (c : Ctx) (ups : List Upset) {s : State} {t : State} (e : execCupd y0 c s ups = .next t) (h : Kept K F s) : Kept K F t := by
  unfold execCupd at e
  injection e with e
  subst e
  repeat' (first
    | with_reducible assumption
    | with_reducible apply State.issuePlain_kept)

theorem execPsend_kept (y0 : TileId) (c : Ctx) (ups : List Upset) {s : State} {t : State} (e : execPsend y0 c s ups = .next t) (h : Kept K F s) : Kept K F t := by
  unfold execPsend at e
  injection e with e
  subst e
  repeat' (first
    | with_reducible assumption
    | with_reducible apply State.issuePlain_kept)

theorem execPrecv_kept (y0 : TileId) (c : Ctx) {s : State} {t : State} (e : execPrecv y0 c s = .next t) (h : Kept K F s) : Kept K F t := by
  unfold execPrecv at e
  injection e with e
  subst e
  repeat' (first
    | with_reducible assumption
    | with_reducible apply State.issuePlain_kept)

theorem State.late_kept (k : Nat) (r : Running) (tc : Nat) {s : State} (h : Kept K F s) : Kept K F (State.late s k r tc) := by
  unfold State.late
  repeat' (first
    | with_reducible assumption
    | with_reducible apply State.setReg_kept
    | with_reducible apply State.inc48_kept
    | with_reducible apply kept_foldl
    | intro _
    | with_reducible apply kept_ite)

theorem State.takeResult_kept (k : Nat) (r : Running) {s : State} (h : Kept K F s) : Kept K F (State.takeResult s k r).1 := by
  unfold State.takeResult
  repeat' (first
    | with_reducible assumption
    | (with_reducible apply kept_of_pair; assumption)
    | with_reducible apply State.modPlan_kept
    | with_reducible apply State.dropCopies_kept
    | with_reducible apply State.recvWrite_kept
    | with_reducible apply State.sealTag_kept
    | with_reducible apply kept_foldl
    | with_reducible apply kept_foldl_fst
    | intro _
    | with_reducible apply kept_ite
    | dsimp only
    | split)

theorem State.countLine_kept (k : Nat) (r : Running) {s : State} (h : Kept K F s) : Kept K F (State.countLine s k r) := by
  unfold State.countLine
  repeat' (first
    | with_reducible assumption
    | with_reducible apply State.incReg_kept
    | with_reducible apply State.incReg64_kept
    | with_reducible apply kept_foldl
    | intro _
    | with_reducible apply kept_ite)

theorem State.finishLine_kept (k : Nat) (r : Running) (tc : Nat) {s : State} (h : Kept K F s) : Kept K F (State.finishLine s k r tc) := by
  unfold State.finishLine
  repeat' (first
    | with_reducible assumption
    | (with_reducible apply kept_of_pair; assumption)
    | with_reducible apply State.countLine_kept
    | with_reducible apply State.raiseFlags_kept
    | with_reducible apply State.completePosts_kept
    | with_reducible apply State.takeResult_kept
    | with_reducible apply State.lineEnded_kept
    | with_reducible apply State.modTctx_kept
    | with_reducible apply State.late_kept
    | with_reducible apply State.postBarriers_kept
    | ((with_reducible apply State.modTile_kept); (intro _ w; exact w))
    | with_reducible apply kept_foldl
    | with_reducible apply kept_foldl_fst
    | intro _
    | with_reducible apply kept_ite)

theorem execLineComplete_kept (y0 : TileId) (c : Ctx) (line : Nat) (iter : Nat) (tc : Nat) {s : State} {t : State} (e : execLineComplete y0 c line iter tc s = .next t) (h : Kept K F s) : Kept K F t := by
  unfold execLineComplete at e
  injection e with e
  subst e
  repeat' (first
    | with_reducible assumption
    | with_reducible apply State.finishLine_kept
    | with_reducible apply kept_foldl
    | intro _
    | with_reducible apply kept_ite
    | dsimp only
    | split)

theorem State.modPass_kept (k : Nat) (c : Ctx) (f : Running → Running) {s : State} (h : Kept K F s) : Kept K F (State.modPass s k c f) := by
  unfold State.modPass
  repeat' (first
    | with_reducible assumption
    | ((with_reducible apply State.modTile_kept); (intro _ w; exact w)))

theorem State.blockDone_kept (k : Nat) (c : Ctx) (b : Nat) (tc : Nat) {s : State} (h : Kept K F s) : Kept K F (State.blockDone s k c b tc) := by
  unfold State.blockDone
  repeat' (first
    | with_reducible assumption
    | with_reducible apply State.finishLine_kept
    | with_reducible apply State.modPass_kept
    | with_reducible apply kept_foldl
    | intro _
    | with_reducible apply kept_ite
    | dsimp only
    | split)

theorem execPassCommit_kept (y0 : TileId) (c : Ctx) (tc : Nat) {s : State} {t : State} (e : execPassCommit y0 c tc s = .next t) (h : Kept K F s) : Kept K F t := by
  unfold execPassCommit at e
  injection e with e
  subst e
  repeat' (first
    | with_reducible assumption
    | with_reducible apply State.modPass_kept
    | with_reducible apply State.blockDone_kept
    | ((with_reducible apply State.modTile_kept); (intro _ w; exact w))
    | with_reducible apply kept_foldl
    | intro _
    | with_reducible apply kept_ite
    | dsimp only
    | split)

theorem State.takeBlock_kept (k : Nat) (y2 : Nat) (c : Ctx) (r : Running) (b : Nat) (ups : List Upset) (tc : Nat) {s : State} (h : Kept K F s) : Kept K F (State.takeBlock s k y2 c r b ups tc) := by
  unfold State.takeBlock
  dsimp only
  split
  · rename_i s1 e1
    exact kept_of_pair e1 (State.fetch_kept _ _ (State.lineReads_kept _ _ h))
  · rename_i s1 g e1
    have h1 : Kept K F s1 := kept_of_pair e1 (State.fetch_kept _ _ (State.lineReads_kept _ _ h))
    split
    · rename_i s2 e2
      exact kept_of_pair e2 (State.passRun_kept _ _ _ _ _ (fetched_kept e1) h1)
    · rename_i s2 fl arb e2
      have h2 : Kept K F s2 := kept_of_pair e2 (State.passRun_kept _ _ _ _ _ (fetched_kept e1) h1)
      exact State.modTile_kept (by intro _ w; exact w) _ (State.modPass_kept _ _ _ h2)

theorem execTrimBlockTake_kept (donor : TileId) (helper : TileId) (c : Ctx) (ups : List Upset) (tc : Nat) {s : State} {t : State} (e : execTrimBlockTake donor helper c ups s tc = .next t) (h : Kept K F s) : Kept K F t := by
  unfold execTrimBlockTake at e
  injection e with e
  subst e
  repeat' (first
    | with_reducible assumption
    | with_reducible apply State.takeBlock_kept
    | with_reducible apply kept_foldl
    | intro _
    | with_reducible apply kept_ite
    | dsimp only
    | split)

theorem execEphStall_kept (y0 : TileId) (c : Ctx) {s : State} {t : State} (e : execEphStall y0 c s = .next t) (h : Kept K F s) : Kept K F t := by
  unfold execEphStall at e
  injection e with e
  subst e
  repeat' (first
    | with_reducible assumption
    | with_reducible apply State.fxOf_kept
    | with_reducible apply State.kill_kept
    | with_reducible apply kept_foldl
    | intro _
    | with_reducible apply kept_ite
    | dsimp only
    | split)

end Sys2Proof.Machine
end

