-- ==== Sys2Proof/Laws/KeptEngine.lean ====
section
/-! SUPPORT. What the operations of the update engines, the Collimator and the load keep (Laws/Kept.lean): one lemma per function, named after it. -/

namespace Sys2Proof.Machine

variable {K : List (Option Committed) → Prop} {F : Mem → Prop}

/-! Machine/Update.lean. -/

theorem State.holdPairs_kept (y1 : Env) (js : List Nat) {s : State} (h : Kept K F s) : Kept K F (State.holdPairs s y1 js).1 := by
  unfold State.holdPairs
  repeat' (first
    | with_reducible assumption
    | (with_reducible apply kept_of_pair; assumption)
    | with_reducible apply State.holdWrite_kept
    | with_reducible apply kept_foldl
    | with_reducible apply kept_foldl_fst
    | intro _)

theorem State.updStore_kept (y1 : Env) (r : Nat) (j : Nat) (vals : List Nat) {s : State} (h : Kept K F s) : Kept K F (State.updStore s y1 r j vals) := by
  unfold State.updStore
  repeat' (first
    | with_reducible assumption
    | (with_reducible apply kept_of_pair; assumption)
    | with_reducible apply State.raiseFlags_kept
    | with_reducible apply State.writeEls_kept)

theorem State.updApply_kept (v : Env) (u : URec) (g : Grad) {s : State} (h : Kept K F s) : Kept K F (State.updApply s v u g) := by
  unfold State.updApply
  repeat' (first
    | with_reducible assumption
    | with_reducible apply State.incReg64_kept
    | with_reducible apply State.updStore_kept
    | with_reducible apply kept_foldl
    | intro _
    | with_reducible apply kept_ite)

theorem State.updPoison_kept (v : Env) (u : URec) (g : Grad) {s : State} {t : State} (e : State.updPoison s v u g = some t) (h : Kept K F s) : Kept K F t := by
  unfold State.updPoison at e
  repeat' split at e
  all_goals first
    | exact State.chkShut_kept _ _ e h
    | (cases e; repeat' (first
    | with_reducible assumption
    | with_reducible apply State.askReplay_kept
    | with_reducible apply State.killHw_kept
    ))

theorem State.updMis_kept (u : URec) (g : Grad) (ups : List Upset) {s : State} (h : Kept K F s) : Kept K F (State.updMis s u g ups).1 := by
  unfold State.updMis
  repeat' (first
    | with_reducible assumption
    | (with_reducible apply kept_of_pair; assumption)
    | with_reducible apply State.injectAt_kept)

theorem State.updRun_kept (v : Env) (u : URec) (g : Grad) (ups : List Upset) {s : State} (h : Kept K F s) : Kept K F (State.updRun s v u g ups).1 := by
  unfold State.updRun
  repeat' (first
    | with_reducible assumption
    | (with_reducible apply kept_of_pair; assumption)
    | with_reducible apply State.lineReads_kept
    | (with_reducible apply State.updPoison_kept; assumption)
    | with_reducible apply State.updMis_kept
    | with_reducible apply kept_foldl
    | with_reducible apply kept_foldl_fst
    | intro _
    | with_reducible apply kept_ite
    | dsimp only
    | split)

theorem State.updShard_kept (v : Env) (u : URec) (g : Grad) (ups : List Upset) (again : List Upset) {s : State} (h : Kept K F s) : Kept K F (State.updShard s v u g ups again) := by
  unfold State.updShard
  repeat' (first
    | with_reducible assumption
    | (with_reducible apply kept_of_pair; assumption)
    | with_reducible apply State.incReg_kept
    | with_reducible apply State.askReplay_kept
    | with_reducible apply State.updApply_kept
    | with_reducible apply State.tick_kept
    | with_reducible apply State.updRun_kept
    | with_reducible apply State.event_kept
    | with_reducible apply kept_foldl
    | with_reducible apply kept_foldl_fst
    | intro _
    | with_reducible apply kept_ite
    | dsimp only
    | split
    | with_reducible apply KeptM.back
    | (show KeptM _ _ _ _ _ _ _ _; dsimp only))

theorem execUpdateShard_kept (c : Ctx) (record : Nat) (ups : List Upset) (again : List Upset) {s : State} {t : State} (e : execUpdateShard c record ups again s = .next t) (h : Kept K F s) : Kept K F t := by
  unfold execUpdateShard at e
  injection e with e
  subst e
  repeat' (first
    | with_reducible assumption
    | (with_reducible apply kept_of_pair; assumption)
    | with_reducible apply State.updShard_kept
    | with_reducible apply State.holdPairs_kept
    | with_reducible apply kept_foldl
    | with_reducible apply kept_foldl_fst
    | intro _
    | with_reducible apply kept_ite
    | dsimp only
    | split)

/-! Machine/Collimator.lean. -/

theorem State.modArb_kept (k : Nat) (c : Ctx) (no : Nat) (f : Running → Running) {s : State} (h : Kept K F s) : Kept K F (State.modArb s k c no f) := by
  unfold State.modArb
  repeat' (first
    | with_reducible assumption
    | (with_reducible apply State.modTile_kept (by intro _ w; exact w)))

theorem State.popColl_kept (d : Nat) {s : State} (h : Kept K F s) : Kept K F (State.popColl s d) := by
  unfold State.popColl
  repeat' (first
    | with_reducible assumption
    | with_reducible apply State.modDie_kept)

theorem State.acceptRun_kept (z : Trial) (code : Nat) (s2 : Nat) (s3 : Nat) (peer : Nat) (fl : Flags) {s : State} (h : Kept K F s) : Kept K F (State.acceptRun s z code s2 s3 peer fl) := by
  unfold State.acceptRun
  repeat' (first
    | with_reducible assumption
    | with_reducible apply State.popColl_kept
    | with_reducible apply State.transient_kept
    | with_reducible apply State.modArb_kept
    | with_reducible apply State.tileSuspect_kept
    | with_reducible apply State.event_kept
    | with_reducible apply kept_foldl
    | intro _
    | with_reducible apply kept_ite)

theorem State.noAgreement_kept (z : Trial) {s : State} (h : Kept K F s) : Kept K F (State.noAgreement s z) := by
  unfold State.noAgreement
  repeat' (first
    | with_reducible assumption
    | with_reducible apply State.tileQuarantine_kept
    | with_reducible apply State.popColl_kept
    | with_reducible apply State.stepLost_kept
    | with_reducible apply State.event_kept)

theorem State.decideRun_kept (z : Trial) (m : Option Mis) (sig : Nat) (fl : Flags) {s : State} (h : Kept K F s) : Kept K F (State.decideRun s z m sig fl) := by
  unfold State.decideRun
  repeat' (first
    | with_reducible assumption
    | with_reducible apply State.askReplay_kept
    | with_reducible apply State.popColl_kept
    | with_reducible apply State.noAgreement_kept
    | with_reducible apply State.countEvent_kept
    | with_reducible apply State.modArb_kept
    | with_reducible apply State.acceptRun_kept
    | with_reducible apply State.event_kept
    | with_reducible apply kept_foldl
    | intro _
    | with_reducible apply kept_ite
    | dsimp only
    | split)

theorem State.recoveryFault_kept (x : LCtx) (f : Fx) (ups : List Upset) (lost : Bool) {s : State} (h : Kept K F s) : Kept K F (State.recoveryFault s x f ups lost).1 := by
  unfold State.recoveryFault
  repeat' (first
    | with_reducible assumption
    | (with_reducible apply kept_of_pair; assumption)
    | with_reducible apply State.parityOf_kept)

theorem State.runEnds_kept (z : Trial) (ups : List Upset) (lost : Bool) {s : State} (h : Kept K F s) : Kept K F (State.runEnds s z ups lost) := by
  unfold State.runEnds
  repeat' (first
    | with_reducible assumption
    | (with_reducible apply kept_of_pair; assumption)
    | with_reducible apply State.recoveryFault_kept
    | with_reducible apply State.fxOf_kept
    | with_reducible apply State.decideRun_kept
    | with_reducible apply State.askReplay_kept
    | with_reducible apply State.popColl_kept
    | with_reducible apply State.lineReads_kept
    | with_reducible apply Fx.run_kept
    | with_reducible apply State.passInject_kept
    | with_reducible apply kept_foldl
    | with_reducible apply kept_foldl_fst
    | intro _
    | with_reducible apply kept_ite)

theorem execCollimatorDecision_kept (die : Nat) (ups : List Upset) (lost : Bool) {s : State} {t : State} (e : execCollimatorDecision die ups lost s = .next t) (h : Kept K F s) : Kept K F t := by
  unfold execCollimatorDecision at e
  injection e with e
  subst e
  repeat' (first
    | with_reducible assumption
    | with_reducible apply State.popColl_kept
    | with_reducible apply State.modDie_kept
    | with_reducible apply State.runEnds_kept
    | with_reducible apply kept_foldl
    | intro _
    | with_reducible apply kept_ite
    | dsimp only
    | split)

/-! Machine/Load.lean. -/

theorem State.putCatalogue_kept (c : Ctx) (g : Image) {s : State} (h : Kept K F s) : Kept K F (State.putCatalogue s c g) := by
  unfold State.putCatalogue
  repeat' (first
    | with_reducible assumption
    | with_reducible apply kept_foldl
    | intro _
    | with_reducible apply kept_ite
    | dsimp only
    | split
    | with_reducible apply KeptM.back
    | (show KeptM _ _ _ _ _ _ _ _; dsimp only))

theorem State.putLines_kept (c : Ctx) (g : Image) (key : Nat) {s : State} (h : Kept K F s) : Kept K F (State.putLines s c g key) := by
  unfold State.putLines
  repeat' (first
    | with_reducible assumption
    | ((with_reducible apply State.modTile_kept); (intro _ w; exact w))
    | with_reducible apply kept_foldl
    | intro _
    | with_reducible apply kept_ite
    | dsimp only
    | split)

theorem State.putData_kept (c : Ctx) (y2 : Nat × List Byte) {s : State} (h : Kept K F s) : Kept K F (State.putData s c y2) := by
  unfold State.putData
  repeat' (first
    | with_reducible assumption
    | with_reducible apply State.spWrite_kept
    | with_reducible apply kept_foldl
    | intro _)

theorem State.install_kept (c : Ctx) (g : Image) (p : Program) {s : State} (h : Kept (fun k => k.length = 4) F s) : Kept (fun k => k.length = 4) F (State.install s c g p) := by
  unfold State.install
  repeat' (first
    | with_reducible assumption
    | with_reducible apply State.putCatalogue_kept
    | with_reducible apply State.putData_kept
    | ((with_reducible apply State.modCx_kept); (intro _; rfl))
    | with_reducible apply State.putLines_kept
    | with_reducible apply State.modCx_number
    | with_reducible apply kept_foldl
    | intro _)

theorem State.loadBinary_kept (c : Ctx) (y2 : CmdTag) (a : LoadArgs) {s : State} (h : Kept (fun k => k.length = 4) F s) : Kept (fun k => k.length = 4) F (State.loadBinary s c y2 a) := by
  unfold State.loadBinary
  repeat' (first
    | with_reducible assumption
    | with_reducible apply State.refuse_kept
    | with_reducible apply State.countPerms_kept
    | with_reducible apply State.install_kept
    | with_reducible apply State.measure_kept
    | with_reducible apply State.done_kept
    | with_reducible apply State.refuseCode_kept
    | with_reducible apply kept_foldl
    | intro _
    | with_reducible apply kept_ite
    | dsimp only
    | split)

theorem State.loadCmd_kept (c : Ctx) (y2 : CmdTag) (p : List Byte) {s : State} (h : Kept (fun k => k.length = 4) F s) : Kept (fun k => k.length = 4) F (State.loadCmd s c y2 p) := by
  unfold State.loadCmd
  repeat' (first
    | with_reducible assumption
    | with_reducible apply State.remapRetired_kept
    | with_reducible apply State.loadBinary_kept
    | with_reducible apply State.clearMeas_kept
    | with_reducible apply State.refuseCode_kept
    | with_reducible apply kept_foldl
    | intro _
    | with_reducible apply kept_ite)

theorem execLoad_kept (c : Ctx) {s : State} {t : State} (e : execLoad c s = .next t) (h : Kept (fun k => k.length = 4) F s) : Kept (fun k => k.length = 4) F t := by
  unfold execLoad at e
  injection e with e
  subst e
  repeat' (first
    | with_reducible assumption
    | with_reducible apply State.takeIf_kept
    | with_reducible apply State.loadCmd_kept
    | with_reducible apply kept_foldl
    | intro _)

end Sys2Proof.Machine
end

