-- ==== Sys2Proof/Laws/Lost.lean ====
section
/-! SUPPORT. Bytes that become unspecified (`State.loseKeys`): what the operation leaves alone. -/

namespace Sys2Proof.Machine

/-- A byte that becomes unspecified changes the memories alone. -/
theorem State.loseKey_form (s : State) (k : Nat) : ∃ l r m h, s.loseKey k =
    { s with tiles := l, rsv.mem := r, stk.mem := m, host.mem := h } := by
  unfold State.loseKey State.modTile State.stkPut
  dsimp only
  split
  · exact ⟨_, _, _, _, rfl⟩
  · split
    · exact ⟨_, _, _, _, rfl⟩
    · split
      · split
        · exact ⟨_, _, _, _, rfl⟩
        · exact ⟨_, _, _, _, rfl⟩
      · split <;> exact ⟨_, _, _, _, rfl⟩

/-- Bytes that become unspecified change the memories and the free-value counter alone. -/
theorem State.loseKeys_form (s : State) (ks : List Nat) : ∃ l r m h n, s.loseKeys ks =
    { s with tiles := l, rsv.mem := r, stk.mem := m, host.mem := h, free := n } := by
  have step : ∀ (ks : List Nat) (s : State), ∃ l r m h, ks.foldl (fun s k => s.loseKey k) s =
      { s with tiles := l, rsv.mem := r, stk.mem := m, host.mem := h } := by
    intro ks
    induction ks with
    | nil => intro s; exact ⟨_, _, _, _, rfl⟩
    | cons k t ih =>
      intro s
      obtain ⟨l, r, m, h, e⟩ := s.loseKey_form k
      obtain ⟨l', r', m', h', e'⟩ := ih (s.loseKey k)
      exact ⟨l', r', m', h', by rw [List.foldl_cons, e', e]⟩
  unfold State.loseKeys
  split
  · exact ⟨_, _, _, _, _, rfl⟩
  · obtain ⟨l, r, m, h, e⟩ := step ks s
    exact ⟨l, r, m, h, s.free + 1, by rw [e]; rfl⟩

/-- The context of a state that loses bytes. -/
@[simp] theorem State.loseKeys_cx (s : State) (ks : List Nat) : (s.loseKeys ks).cx = s.cx := by
  obtain ⟨_, _, _, _, _, e⟩ := s.loseKeys_form ks; rw [e]
@[simp] theorem State.loseKeys_regs (s : State) (ks : List Nat) : (s.loseKeys ks).regs = s.regs := by
  obtain ⟨_, _, _, _, _, e⟩ := s.loseKeys_form ks; rw [e]
@[simp] theorem State.loseKeys_out (s : State) (ks : List Nat) : (s.loseKeys ks).out = s.out := by
  obtain ⟨_, _, _, _, _, e⟩ := s.loseKeys_form ks; rw [e]
@[simp] theorem State.loseKeys_fab (s : State) (ks : List Nat) : (s.loseKeys ks).fab = s.fab := by
  obtain ⟨_, _, _, _, _, e⟩ := s.loseKeys_form ks; rw [e]
@[simp] theorem State.loseKeys_plt (s : State) (ks : List Nat) : (s.loseKeys ks).plt = s.plt := by
  obtain ⟨_, _, _, _, _, e⟩ := s.loseKeys_form ks; rw [e]
@[simp] theorem State.loseKeys_log (s : State) (ks : List Nat) : (s.loseKeys ks).log = s.log := by
  obtain ⟨_, _, _, _, _, e⟩ := s.loseKeys_form ks; rw [e]
@[simp] theorem State.loseKeys_sys (s : State) (ks : List Nat) : (s.loseKeys ks).sys = s.sys := by
  obtain ⟨_, _, _, _, _, e⟩ := s.loseKeys_form ks; rw [e]
@[simp] theorem State.loseKeys_sec (s : State) (ks : List Nat) : (s.loseKeys ks).sec = s.sec := by
  obtain ⟨_, _, _, _, _, e⟩ := s.loseKeys_form ks; rw [e]
@[simp] theorem State.loseKeys_roles (s : State) (ks : List Nat) : (s.loseKeys ks).roles = s.roles := by
  obtain ⟨_, _, _, _, _, e⟩ := s.loseKeys_form ks; rw [e]
@[simp] theorem State.loseKeys_dies (s : State) (ks : List Nat) : (s.loseKeys ks).dies = s.dies := by
  obtain ⟨_, _, _, _, _, e⟩ := s.loseKeys_form ks; rw [e]
@[simp] theorem State.loseKeys_chk (s : State) (ks : List Nat) : (s.loseKeys ks).chk = s.chk := by
  obtain ⟨_, _, _, _, _, e⟩ := s.loseKeys_form ks; rw [e]
@[simp] theorem State.loseKeys_catalogue (s : State) (ks : List Nat) : (s.loseKeys ks).catalogue = s.catalogue := by
  obtain ⟨_, _, _, _, _, e⟩ := s.loseKeys_form ks; rw [e]

/-- One byte lost leaves the others. -/
theorem State.loseKey_bytes {s : State} (w : s.memWf) (k : Nat) : s.bytesKept (s.loseKey k) [k] := by
  obtain ⟨w1, w2, w3, _, w5⟩ := w
  have wt (j : Nat) : (s.tile j).mem.wf = true := (TilesOk.get w5 j).1
  simp only [State.bytesKept, State.keepsTiles, State.keepsRsv, State.keepsStk, State.keepsHost, List.mem_singleton, forall_eq]
  unfold State.loseKey
  dsimp only
  split
  · refine ⟨fun j a h => ?_, fun _ _ => rfl, fun _ _ => rfl, fun _ _ => rfl⟩
    by_cases e : k / 2 ^ 24 = j
    · subst e
      have := h ‹_› rfl
      simp only [State.modTile, State.tile, Tbl.get_set_self]
      rw [Mem.read_write _ _ _ (show (Tbl.get TileSt.reset (k / 2 ^ 24) s.tiles).mem.wf = true from wt _)]
      exact if_neg this.symm
    · simp only [State.modTile, State.tile]
      rw [Tbl.get_set_ne]
      exact fun h => e h.symm
  · split
    · refine ⟨fun _ _ _ => rfl, fun a h => ?_, fun _ _ => rfl, fun _ _ => rfl⟩
      have := h (by omega) ‹_›
      simp only
      rw [Mem.read_write _ _ _ w2]
      exact if_neg this.symm
    · split
      · refine ⟨fun _ _ _ => ?_, fun _ _ => ?_, fun a h => ?_, fun _ _ => ?_⟩
        · unfold State.stkPut; split <;> rfl
        · unfold State.stkPut; split <;> rfl
        · have := h (by omega) ‹_›
          unfold State.stkPut
          split
          · rfl
          · simp only
            rw [Mem.read_write _ _ _ w1]
            exact if_neg this.symm
        · unfold State.stkPut; split <;> rfl
      · split
        · refine ⟨fun _ _ _ => rfl, fun _ _ => rfl, fun _ _ => rfl, fun a h => ?_⟩
          have := h (by omega) ‹_›
          simp only
          rw [Mem.read_write _ _ _ w3]
          exact if_neg this.symm
        · exact ⟨fun _ _ _ => rfl, fun _ _ => rfl, fun _ _ => rfl, fun _ _ => rfl⟩

/-- Bytes lost leave the others, and every memory in its form. -/
theorem State.loseKeys_bytes {s : State} (w : s.memWf) (ks : List Nat) : s.bytesKept (s.loseKeys ks) ks := by
  have phys (s : State) (k : Nat) : ∀ a, (s.loseKey k).stkPhys a = s.stkPhys a := by
    obtain ⟨l, r, m, h, e⟩ := s.loseKey_form k
    intro a; rw [e]; rfl
  have win (s : State) (k : Nat) : ∀ c, (s.loseKey k).winBase c = s.winBase c := by
    obtain ⟨l, r, m, h, e⟩ := s.loseKey_form k
    intro a; rw [e]; rfl
  have wf {s : State} (w : s.memWf) (k : Nat) : (s.loseKey k).memWf := by
    have := State.loseKey_kept (K := fun _ => True) (F := fun m => m.wf = true) k (s := s) ⟨w.1, w.2.1, w.2.2.1, w.2.2.2.1, w.2.2.2.2, trivial⟩
    exact ⟨this.1, this.2.1, this.2.2.1, this.2.2.2.1, this.2.2.2.2.1⟩
  have run : ∀ (ks : List Nat) {s : State}, s.memWf → s.bytesKept (ks.foldl (fun s k => s.loseKey k) s) ks := by
    intro ks
    induction ks with
    | nil => intro s _; exact ⟨fun _ _ _ => rfl, fun _ _ => rfl, fun _ _ => rfl, fun _ _ => rfl⟩
    | cons k t ih =>
      intro s w
      obtain ⟨a1, a2, a3, a4⟩ := State.loseKey_bytes w k
      obtain ⟨b1, b2, b3, b4⟩ := ih (wf w k)
      simp only [State.keepsStk, State.keepsHost, phys, win] at b3 b4
      simp only [State.keepsTiles, State.keepsRsv, State.keepsStk, State.keepsHost, List.mem_singleton, forall_eq] at a1 a2 a3 a4
      rw [List.foldl_cons]
      exact ⟨fun j a h => (b1 j a fun n hn => h n (List.mem_cons_of_mem _ hn)).trans (a1 j a (h k (by simp))),
        fun a h => (b2 a fun n hn => h n (List.mem_cons_of_mem _ hn)).trans (a2 a (h k (by simp))),
        fun a h => (b3 a fun n hn => h n (List.mem_cons_of_mem _ hn)).trans (a3 a (h k (by simp))),
        fun a h => (b4 a fun n hn => h n (List.mem_cons_of_mem _ hn)).trans (a4 a (h k (by simp)))⟩
  unfold State.loseKeys
  split
  · exact ⟨fun _ _ _ => rfl, fun _ _ => rfl, fun _ _ => rfl, fun _ _ => rfl⟩
  · exact run ks w

end Sys2Proof.Machine
end

