-- ==== Sys2Proof/WellFormed.lean ====
section
/-! DEFINITION. Well-formed commands: operands in the ranges that the manual gives their instances, and the bit that makes a
register write the command it is. -/

namespace Sys2Proof

/-- A logical tile: C-die 0 to 3, number 0 to 45 (R10). -/
def TileId.wf (t : TileId) : Bool := decide (t.die < 4 ∧ t.lt < 46)

/-- A physical position: C-die 0 to 3, row * 8 + column 0 to 47 (R10). -/
def posWf (die pos : Nat) : Bool := decide (die < 4 ∧ pos < 48)

/-- The offset of a register access: inside BAR0, a multiple of 4 (R15, R436). -/
def offWf (o : Nat) : Bool := decide (o < 0x4000000 ∧ o % 4 = 0)

/-- A bit of a written word is set. -/
def hasBit (v : W32) (n : Nat) : Bool := v.toNat.testBit n

/-- Well-formedness of a command. -/
def Instr.wf : Instr → Bool
  | .load _ => true
  | .arm _ => true
  | .disarm _ => true
  | .step _ => true
  | .revert _ => true
  | .plate _ => true
  | .restore _ _ => true
  | .switch _ => true
  | .pairCopy _ => true
  | .coelostat _ => true
  | .cmdTail _ _ => true
  | .ringHead _ _ => true
  | .ctxReset _ v => hasBit v 0
  | .pause _ v => hasBit v 1
  | .resume _ v => hasBit v 2
  | .pkg v => hasBit v 0
  | .park v => hasBit v 1
  | .a2Entry => true
  | .unpark v => hasBit v 2
  | .a2ExitComplete => true
  | .dark v => hasBit v 3
  | .a1Entry => true
  | .a1Exit => true
  | .por => true
  | .mrst => true
  | .perst => true
  | .flr => true
  | .railPgRise r => decide (2 ≤ r ∧ r < 13)
  | .railPgTimeout r => decide (2 ≤ r ∧ r < 13)
  | .railPgFall r => decide (2 ≤ r ∧ r < 13)
  | .thermalTrip die => decide (die < 10)
  | .clockLoss clk => decide (clk < 9)
  | .bringupStepComplete _ => true
  | .trialGood => true
  | .trialTimeout => true
  | .mctpSetEndpointId _ => true
  | .getVersion => true
  | .getCapabilities => true
  | .negotiateAlgorithms _ => true
  | .getDigests => true
  | .getCertificate slot => decide (slot < 8)
  | .challenge nonce => decide (nonce.length = 32)
  | .getMeasurements _ nonce => decide (nonce.length = 32)
  | .spdmUnsupportedRequest _ _ => true
  | .pldmFirmwareUpdate component _ => decide (component < 3)
  | .pldmMonitorRead => true
  | .pldmPkgRequest => true
  | .pldmUnparkRequest => true
  | .pldmDarkRequest => true
  | .idcode x => decide (x < 2)
  | .samplePreload x _ => decide (x < 2)
  | .extest x => decide (x < 2)
  | .highz x => decide (x < 2)
  | .clamp x => decide (x < 2)
  | .bypass x opcode => decide (x < 2 ∧ opcode < 256)
  | .nop t _ => t.wf
  | .loop t _ => t.wf
  | .qwin t _ => t.wf
  | .stepend t _ => t.wf
  | .pmov t _ _ => t.wf
  | .ald t _ _ => t.wf
  | .aosp t _ _ => t.wf
  | .amm t _ _ _ => t.wf
  | .aout t _ _ _ => t.wf
  | .vch t _ _ _ => t.wf
  | .vld t _ _ => t.wf
  | .vst t _ => t.wf
  | .vsmx t _ _ _ => t.wf
  | .vgth t _ _ => t.wf
  | .vsct t _ _ => t.wf
  | .csend t _ _ => t.wf
  | .crecv t _ => t.wf
  | .cupd t _ _ => t.wf
  | .psend t _ _ => t.wf
  | .precv t _ => t.wf
  | .passCommit t _ _ => t.wf
  | .lineComplete t _ _ _ _ => t.wf
  | .trimBlockTake donor helper _ _ _ => donor.wf && helper.wf && decide (donor.die = helper.die)
  | .collimatorDecision die _ _ => decide (die < 4)
  | .meridianPhaseComplete _ num => decide (num < 256)
  | .stepBoundary _ => true
  | .batchLoadComplete _ => true
  | .shard _ child _ _ _ => decide (child < 12)
  | .batch _ _ _ => true
  | .gateUp _ child attempt _ _ => decide (child < 12) && decide (attempt < 2)
  | .stepUp _ child attempt _ _ => decide (child < 12) && decide (attempt < 2)
  | .result _ _ _ _ => true
  | .fault _ kind _ _ attempt _ => decide (kind < 2) && decide (attempt < 2)
  | .stepCommit _ => true
  | .stepAbort _ => true
  | .attestTimeout _ => true
  | .ephStall t _ => t.wf
  | .updateShard _ _ _ _ => true
  | .planDataArrival _ _ _ _ _ _ _ _ _ => true
  | .collectiveReduce _ _ => true
  | .flitReceive port _ _ => decide (port < 12)
  | .retryRequest port _ => decide (port < 12)
  | .retryRequestTimer port => decide (port < 12)
  | .ackTimer port => decide (port < 12)
  | .linkRetrain port => decide (port < 12)
  | .linkRetrainComplete port _ => decide (port < 12)
  | .coelostatMessage _ _ _ => true
  | .coelostatReport _ _ => true
  | .plateChunkRead _ => true
  | .plateDrainComplete _ => true
  | .pltWaitLimit _ => true
  | .buddyChunkReceive _ _ _ _ => true
  | .buddyAck _ _ => true
  | .restoreChunkRequest port _ _ _ _ => decide (port < 12)
  | .restoreChunkArrival _ _ _ => true
  | .restoreComplete _ => true
  | .stageComplete _ => true
  | .pairCopyComplete _ => true
  | .refreshInterval ch => decide (ch < 128)
  | .refreshIssue ch => decide (ch < 128)
  | .channelHoldEnd ch => decide (ch < 128)
  | .channelRetrain ch _ _ => decide (ch < 128)
  | .pprStep ch group _ => decide (ch < 128 ∧ group < 4)
  | .spareSweepStep stack _ => decide (stack < 8)
  | .scrubRead addr _ => decide (addr % 64 = 0)
  | .stackReadout stack temp => decide (stack < 8 ∧ temp < 256)
  | .dieReadout die temp => decide (die < 10 ∧ temp < 256)
  | .powerWindow die _ => decide (die < 4)
  | .pkgPowerSample _ => true
  | .pkgPowerAverage _ => true
  | .shutterPauseEnd die pos => posWf die pos
  | .clockSettleEnd die pos => posWf die pos
  | .tilClk die pos _ => posWf die pos
  | .rotationRequest => true
  | .testAgeDue die pos => posWf die pos
  | .rotationPoint => true
  | .migrationComplete die => decide (die < 4)
  | .fieldTestComplete die pos _ _ => posWf die pos
  | .init u v => decide (u < 16) && hasBit v 0
  | .scan u v => decide (u < 16) && hasBit v 1
  | .scanComplete u => decide (u < 16)
  | .finish u v => decide (u < 16) && hasBit v 2
  | .chkData32 u _ => decide (u < 16)
  | .chkData8 u _ => decide (u < 16)
  | .rsvGranuleCfg m _ => decide (m < 4)
  | .granuleCfgApply m => decide (m < 4)
  | .logbookWrite _ _ => true
  | .logbookWriteComplete _ => true
  | .hostReadCompletion _ _ => true
  | .msixHoldoffEnd vector => decide (vector < 512)
  | .bar2Read offset len => decide (offset + len ≤ 0x400000000)
  | .bar2Write offset data => decide (offset + data.length ≤ 0x400000000)
  | .bar0BadAccess offset _ size => decide (offset < 0x4000000) && decide (1 ≤ size) && decide (size ≤ 4096) &&
    (decide (size ≠ 4) || decide (offset % 4 ≠ 0))
  | .evtClr page v => offWf page && decide (page % 4096 = 0) && hasBit v 0
  | .errInject page _ => offWf page && decide (page % 4096 = 0)
  | .lnkInject port _ => decide (port < 12)
  | .tilStallClr die pos _ => posWf die pos
  | .colFwdDataRead x => decide (x < 2)
  | .colFwdDataWrite x _ => decide (x < 2)
  | .pairLowRead offset => offWf offset
  | .pairLowWrite offset _ => offWf offset
  | .pairHighWrite offset _ => offWf offset
  | .regWrite offset _ => offWf offset
  | .mrstRise => true
  | .pcieLinkDown => true
  | .railPgFallAtPowerDown r => decide (2 ≤ r ∧ r < 13)
  | .rankDigestGather _ _ _ => true
  | .configurationRequest => true
  | .powerGatedPageAccess offset _ => offWf offset && decide (offset < 0x1000000)
  | .predictivePolicySparing ch => decide (ch < 128)
  | .tapReset => true

end Sys2Proof
end

