-- ==== Sys2Proof/Tests/Slice0.lean ====
section
/-! SUPPORT. Tests: ill-formed commands that WellFormed refuses, examples of the spec, one step per theorem, and for each
statement a state and operands that meet its hypotheses. -/

namespace Sys2Proof.Tests

open Sys2Proof.Machine

set_option Elab.async false

/-! Well-formedness: for each check a command that it refuses, and its well-formed neighbour. -/

def n32 : List Byte := List.replicate 32 7#8
def n31 : List Byte := List.replicate 31 7#8
def badTile : TileId := ⟨0, 46⟩
def badDie : TileId := ⟨4, 0⟩
def t00 : TileId := ⟨0, 0⟩
def t01 : TileId := ⟨0, 1⟩
def t10 : TileId := ⟨1, 0⟩

theorem test_wf_refuses_control : ([.ctxReset .train 2#32, .pause .train 1#32, .resume .train 1#32, .pkg 2#32, .park 1#32, .unpark 1#32,
    .dark 1#32, .railPgRise 1, .railPgRise 13, .railPgTimeout 13, .railPgFall 1, .railPgFallAtPowerDown 13, .thermalTrip 10, .clockLoss 9,
    .getCertificate 8, .challenge n31, .getMeasurements 1 n31, .pldmFirmwareUpdate 3 [], .idcode 2, .samplePreload 2 [], .extest 2, .highz 2,
    .clamp 2, .bypass 2 0, .bypass 0 256] : List Instr).all (fun i => !i.wf) = true := by decide

theorem test_wf_refuses_lines : ((List.map (fun t => [.nop t .train, .loop t .train, .qwin t .train, .stepend t .train, .pmov t .train [], .ald t .train [],
    .aosp t .train [], .amm t .train [] 0, .aout t .train [] 0, .vch t .train [] [], .vld t .train [], .vst t .train, .vsmx t .train [] [], .vgth t .train [],
    .vsct t .train [], .csend t .train [], .crecv t .train, .cupd t .train [], .psend t .train [], .precv t .train, .passCommit t .train 0,
    .lineComplete t .train 0 0 0, .trimBlockTake t t00 .train [] 0, .trimBlockTake t00 t .train [] 0, .ephStall t .train]) [badTile, badDie]).flatten
    ++ [.trimBlockTake t00 t10 .train [] 0] : List Instr).all (fun i => !i.wf) = true := by decide

theorem test_wf_refuses_events : ([.collimatorDecision 4 [] false, .meridianPhaseComplete .train 256, .shard .train 12 [] none,
    .gateUp .train 12 0 none false, .gateUp .train 0 2 none false, .stepUp .train 12 0 none false, .stepUp .train 0 2 none false,
    .fault .train 2 0 true, .fault .train 0 0 true 2,
    .flitReceive 12 [] .clean, .retryRequest 12 0, .retryRequestTimer 12, .ackTimer 12, .linkRetrain 12, .linkRetrainComplete 12 true,
    .restoreChunkRequest 12 0 .train 0 0, .refreshInterval 128, .refreshIssue 128, .channelHoldEnd 128, .channelRetrain 128 true true,
    .pprStep 128 0 [], .pprStep 0 4 [], .spareSweepStep 8 [], .scrubRead 1 .clean, .stackReadout 8 0, .stackReadout 0 256, .dieReadout 10 0,
    .dieReadout 0 256, .powerWindow 4 0, .shutterPauseEnd 4 0, .shutterPauseEnd 0 48, .clockSettleEnd 4 0, .tilClk 0 48 0#32, .testAgeDue 4 0,
    .migrationComplete 4, .fieldTestComplete 0 48 [] true, .predictivePolicySparing 128] : List Instr).all (fun i => !i.wf) = true := by decide

theorem test_wf_refuses_registers : ([.init 16 1#32, .init 1 2#32, .scan 16 2#32, .scan 1 1#32, .scanComplete 16, .finish 16 4#32, .finish 1 1#32,
    .chkData32 16 0#32, .chkData8 16 0#32, .rsvGranuleCfg 4 0#32, .granuleCfgApply 4, .msixHoldoffEnd 512, .bar2Read 0x400000000 1,
    .bar2Write 0x3FFFFFFFF [0#8, 0#8], .bar0BadAccess 0x4000000 false 1, .bar0BadAccess 4 false, .evtClr 0x1000 0#32, .evtClr 0x1004 1#32, .errInject 0x1004 0#32,
    .lnkInject 12 0#32, .tilStallClr 4 0 0#32, .colFwdDataRead 2, .colFwdDataWrite 2 0#32, .pairLowRead 2, .pairLowWrite 0x4000000 0#32,
    .pairHighWrite 1 0#32, .regWrite 3 0#32, .powerGatedPageAccess 0x1000000 true, .powerGatedPageAccess 2 true] : List Instr).all
    (fun i => !i.wf) = true := by decide

theorem test_wf_accepts : ([.ctxReset .train 1#32, .pause .eval 2#32, .resume .aux 4#32, .pkg 1#32, .park 2#32, .unpark 4#32, .dark 8#32, .railPgRise 2,
    .railPgFall 12, .thermalTrip 9, .clockLoss 8, .getCertificate 7, .challenge n32, .getMeasurements 1 n32, .pldmFirmwareUpdate 2 [], .idcode 1,
    .bypass 1 255, .nop ⟨3, 45⟩ .service, .trimBlockTake t00 t01 .train [] 0, .collimatorDecision 3 [] true, .meridianPhaseComplete .train 255,
    .shard .train 11 [] none 7, .fault .train 1 0 false 1 7, .gateUp .train 11 1 none false, .flitReceive 11 [] .clean, .pprStep 127 3 [], .scrubRead 64 .clean, .stackReadout 7 255,
    .dieReadout 9 255, .tilClk 3 47 0#32, .init 15 1#32, .scan 15 2#32, .finish 15 4#32, .rsvGranuleCfg 3 0#32, .bar2Read 0x3FFFFFFFF 1,
    .evtClr 0x1000 1#32, .regWrite 0x3FFFFFC 0#32, .powerGatedPageAccess 0xFFFFFC true] : List Instr).all Instr.wf = true := by decide

/-! The table gives no row any bits: no word spells a command (assumption entry 17). -/

theorem test_no_word : decodeTableWord 32 0xFFFFFFFF = none ∧ State.reset.withFetchWord 32 5 = State.reset := ⟨rfl, rfl⟩

/-! Small states for the tests. -/

/-- A device that is up, nothing loaded. -/
def up : State := { State.reset with host := { HostSt.reset with linkUp := true }, sys := { SysSt.reset with bringup := 8 },
                                     sec := { Sec.reset with booted := some 0 } }

/-- The apertures of context train: ring at 0x1000, completions 0x2000, Almanac 0x4000, faults 0x8000, plates 0x100000 of 1 MiB, input
0x10000 of 64 KiB; the window at 0x400000. -/
def bases : Tbl W32 := [(hstCtx .train 0x10, 0x1000#32), (hstCtx .train 0x18, 0x2000#32), (hstCtx .train 0x20, 0x4000#32),
  (hstCtx .train 0x28, 0x8000#32), (hstCtx .train 0x30, 0x400000#32), (hstCtx .train 0x38, 0x10000#32), (hstCtx .train 0x40, 0x100000#32),
  (hstCtx .train 0x48, 0x100000#32), (hstCtx .train 0x50, 0x10000#32), (hstCtx .train 0x58, 0x10000#32)]

def zero32 : Digest := List.replicate 32 0#8
def ones32 : Digest := List.replicate 32 1#8

/-- A program of one rank and four descriptors, one bucket of LENGTH 128 and NEED 64. -/
def prog : Program := ⟨1, 0, false, false, ones32, [0], 4, [(128, 64)], [], [], [], [], [], []⟩

def kept : Committed := ⟨5, ones32, 9⟩

/-- A loaded context in a state of R185. -/
def cxIn (st : StepState) : CtxSt :=
  { CtxSt.reset with state := st, loaded := true, armed := decide (st ≠ .idle), prog := some prog, committed := some kept }

/-- The device with a context train and an entry at the head of its ring. -/
def atRing (x : CtxSt) (e : List Byte) : State :=
  { up with regs := bases, cx := [{ x with cmdTail := 1 }, CtxSt.reset, CtxSt.reset, CtxSt.reset],
            host := { HostSt.reset with linkUp := true, mem := Mem.writeN [] 0x1000 e } }

/-- A ring entry: opcode, TAG 7, payload (R444). -/
def ringEntry (op : Nat) (p : List Byte) : List Byte :=
  bytesLE 4 op ++ bytesLE 4 7 ++ bytesLE 8 0 ++ takeD 0#8 64 p ++ List.replicate 48 0#8

def armEntry : List Byte := ringEntry 0x02 (bytesLE 4 100 ++ bytesLE 4 0 ++ bytesLE 4 0)
def stepEntry : List Byte := ringEntry 0x10 (bytesLE 8 6 ++ bytesLE 8 3 ++ zero32 ++ bytesLE 8 0x10000 ++ bytesLE 2 1 ++ bytesLE 1 0)

/-- Manifest of one micro-batch of step 6 at 0x10000 (R449): LENGTH 128, bucket 0, 64 bytes at 0x11000. -/
def batchMem : Mem := Mem.writeN (Mem.writeN [] 0x1000 stepEntry) 0x10000
  (bytesLE 8 6 ++ bytesLE 2 1 ++ List.replicate 54 0#8 ++ bytesLE 4 128 ++ bytesLE 2 0 ++ bytesLE 2 0 ++ bytesLE 8 0x11000 ++ bytesLE 8 64)

def stepReady : State := { atRing (cxIn .ready) [] with host := { HostSt.reset with linkUp := true, mem := batchMem } }

theorem witness_StepTakesFront : ({ up with pending := [.a1Exit, .flr] } : State).pending = .a1Exit :: [.flr] ∧ up.pending = [] := ⟨rfl, rfl⟩

theorem witness_StepKeepsSafe : State.reset.safe ∧ step State.reset = .next State.reset := ⟨by decide +kernel, rfl⟩

theorem witness_CommittedStateKept : up.safe ∧ commits .a1Exit = false ∧ exec .a1Exit up = .next up := ⟨by decide +kernel, rfl, rfl⟩

theorem witness_LogbookKept : up.safe ∧ (∀ b, Instr.a1Exit ≠ .logbookWriteComplete b) ∧ Instr.a1Exit ≠ .trialTimeout ∧ exec .a1Exit up = .next up :=
  ⟨by decide +kernel, fun _ h => Instr.noConfusion h, fun h => Instr.noConfusion h, rfl⟩

theorem witness_StepTaken : stepReady.atHead .train 0x10 stepEntry ∧ (stepReady.cxt .train).state = .ready ∧ 0 < stepReady.almFree .train ∧
    0 < stepReady.cplFree .train ∧ (stepReady.cxt .train).paused = false ∧ stepReady.thr.rotWanted = false ∧ stepReady.fab.coel = none ∧
    stepReady.sys.capacity = false ∧ (stepReady.dies.all fun d => d.2.migrating.isNone) = true ∧
    (stepReady.popHead .train).stepFault .train (entryPayload stepEntry) = none := by decide +kernel

def armIdle : State := atRing (cxIn .idle) armEntry
def disarmEntry : List Byte := ringEntry 0x03 []
def revertEntry : List Byte := ringEntry 0x11 []
def switchEntry : List Byte := ringEntry 0x22 []
def reverting : State := atRing { cxIn .ready with prev := some (⟨4, zero32, 8⟩, ones32) } revertEntry
def switching : State := atRing { cxIn .ready with staged := some ⟨4, zero32, 8⟩ } switchEntry

theorem witness_RingCommands_arm : armIdle.atHead .train 0x02 armEntry ∧ (armIdle.cxt .train).state = .idle ∧ (armIdle.cxt .train).loaded = true ∧
    0 < bField (entryPayload armEntry) 0 4 ∧ bField (entryPayload armEntry) 0 4 ≤ 10000 ∧ bField (entryPayload armEntry) 4 4 ≤ 60000 ∧
    bField (entryPayload armEntry) 8 4 ≤ 10000 ∧ zeros ((entryPayload armEntry).drop 0xC) = true ∧
    (armIdle.popHead .train).plateConfigBad .train = false := by decide +kernel

theorem witness_RingCommands_disarm : (atRing (cxIn .ready) disarmEntry).atHead .train 0x03 disarmEntry ∧
    ((atRing (cxIn .ready) disarmEntry).cxt .train).state = .ready ∧ zeros (entryPayload disarmEntry) = true := by decide +kernel

theorem witness_RingCommands_revert : reverting.safe ∧ reverting.atHead .train 0x11 revertEntry ∧ (reverting.cxt .train).state = .ready ∧
    0 < reverting.almFree .train ∧ 0 < reverting.cplFree .train ∧ zeros (entryPayload revertEntry) = true ∧
    (reverting.cxt .train).prev = some (⟨4, zero32, 8⟩, ones32) ∧ (reverting.cxt .train).committed = some kept := by decide +kernel

theorem witness_RingCommands_switch : switching.atHead .train 0x22 switchEntry ∧ (switching.cxt .train).state = .ready ∧
    zeros (entryPayload switchEntry) = true ∧ (switching.cxt .train).staged = some ⟨4, zero32, 8⟩ := by decide +kernel

/-- The head entry of a device in a state that R446 does not allow. -/
def wrongly (st : StepState) (op : Nat) : State := atRing (cxIn st) (ringEntry op [])

theorem witness_WrongStateRefused :
    (wrongly .ready 0x01).atHead .train 0x01 (ringEntry 0x01 []) ∧ (wrongly .ready 0x02).atHead .train 0x02 (ringEntry 0x02 []) ∧
    (atRing CtxSt.reset armEntry).atHead .train 0x02 armEntry ∧ ((atRing CtxSt.reset armEntry).cxt .train).loaded = false ∧
    ([0x03, 0x10, 0x11, 0x20, 0x21, 0x22].all fun op => decide ((wrongly .idle op).atHead .train op (ringEntry op []))) = true ∧
    ((wrongly .ready 0x01).cxt .train).state ≠ .idle ∧ ((wrongly .idle 0x10).cxt .train).state ≠ .ready := by decide +kernel

theorem test_arm : (match exec (.arm .train) armIdle with
    | .next t => decide ((t.cxt .train).state = .ready ∧ (t.cxt .train).armed = true ∧ (t.cxt .train).attestMs = 100 ∧ (t.cxt .train).stallMs = 1000)
    | _ => false) = true := by decide +kernel

theorem test_step_taken : (match exec (.step .train) stepReady with
    | .next t => decide ((t.cxt .train).state = .loading ∧ ((t.cxt .train).run.map (·.micro)) = some [⟨128, 0, 0x11000, 64⟩])
    | _ => false) = true := by decide +kernel

theorem test_step_wrong_number : (match exec (.step .train) (atRing { cxIn .ready with committed := some ⟨4, ones32, 9⟩ } stepEntry) with
    | .next t => decide (((t.cxt .train).state = .ready ∧ (t.cxt .train).run = none))
    | _ => false) = true := by decide +kernel

theorem test_switch : (match exec (.switch .train) switching with
    | .next t => decide ((t.cxt .train).committed = some ⟨4, zero32, 8⟩ ∧ (t.cxt .train).bankB = true ∧ (t.cxt .train).staged = none)
    | _ => false) = true := by decide +kernel

theorem witness_ReportEntries : up.safe ∧ 0 < up.cplFree .train ∧ (up.cxt .train).cplWait = [] ∧
    (let s := armIdle.modCx .train fun x => { x with cplTail := 64 }
     s.cplFree .train = 0) ∧
    ringUsed (armIdle.cxt .train).fltHead (armIdle.cxt .train).fltTail < armIdle.ringSize .train 12 ∧
    armIdle.cplBase .train + 0x40 ≤ armIdle.fltBase .train ∧
    (let s := armIdle.modCx .train fun x => { x with fltTail := 64 }
     s.ringSize .train 12 ≤ ringUsed (s.cxt .train).fltHead (s.cxt .train).fltTail) := by decide +kernel

/-! Plates, pair copies, the Coelostat, loads. -/

/-- The head of a plate of step 4 of context train (R361): rank 0, 1 device, no pairs, complete. -/
def plate0 : List Byte := plateHeader .train 3 0 1 0 ⟨4, zero32, 8⟩ ones32 zero32 (sha3 []) 4096 4096 0 0

def plateEntry : List Byte := ringEntry 0x20 [1#8]
def plating : State := atRing (cxIn .ready) plateEntry

theorem witness_PlateTaken : plating.atHead .train 0x20 plateEntry ∧ (plating.cxt .train).state = .ready ∧
    bField (entryPayload plateEntry) 0 1 < 8 ∧ zeros ((entryPayload plateEntry).drop 1) = true ∧ (plating.cxt .train).committed ≠ none ∧
    ((plating.popHead .train).drainsOf .train).length < 2 ∧ bitAt (bField (entryPayload plateEntry) 0 1) 0 = true ∧
    (((plating.popHead .train).drainsOf .train).any fun r => r.bank = (plating.cxt .train).bankB) = false ∧
    (plating.popHead .train).slotFits .train ((plating.popHead .train).freeSlot .train) = true ∧
    plating.safe ∧ (plating.cxt .train).committed = some kept := by decide +kernel

/-- RESTORE of step 4 from 0x10000 with CHECK_DIGEST. -/
def restoreEntry : List Byte := ringEntry 0x21 (bytesLE 8 4 ++ bytesLE 8 0x10000 ++ bytesLE 2 0 ++ bytesLE 2 0 ++ bytesLE 1 0 ++ bytesLE 1 2)
def restoring : State :=
  { atRing (cxIn .ready) [] with
    host := { HostSt.reset with linkUp := true, mem := Mem.writeN (Mem.writeN [] 0x1000 restoreEntry) 0x10000 plate0 } }

theorem witness_RestoreTaken :
    let u := restoring.popHead .train
    let p := entryPayload restoreEntry
    let h := u.hostRead (bField p 8 8) (plateTables (u.pairs .train).length (u.chunksFor .train (u.pairs .train)).length)
    restoring.atHead .train 0x21 restoreEntry ∧ (restoring.cxt .train).state = .ready ∧ bField p 0x15 1 < 8 ∧ bField p 0x14 1 = 0 ∧
    bField p 0x12 2 < 0x1000 ∧ zeros ((p.drop 0x16).take 10) = true ∧ bitAt (bField p 0x15 1) 0 = false ∧
    u.inInput .train (bField p 8 8) 0x100 = true ∧ u.inInput .train (bField p 8 8) (phTotal h) = true ∧ u.headerMatches .train p h = true ∧
    bitAt (bField h 5 1) 2 = false ∧ bitAt (bField h 5 1) 1 = true := by decide +kernel

/-- A descriptor of one extent e0, stride 1 (R220). -/
def descWord (fmt kind space base e0 : Nat) : BitVec 512 :=
  BitVec.ofNat 512 (fmt + 2 ^ 5 + kind * 2 ^ 8 + space * 2 ^ 11 + base * 2 ^ 64 + e0 * 2 ^ 128 + 2 ^ 160 + 2 ^ 184 + 2 ^ 208 + 2 ^ 232 + 2 ^ 256)

/-- Context train's pair 1 (FP32, 4 elements, Reserve at 0x1000), context eval's list 0 (Reserve at 0) and pair 1 (Reserve at 0x4000);
the list names train's 1 and eval's 1. -/
def copyEntry : List Byte := ringEntry 0x23 (bytesLE 1 0 ++ bytesLE 1 0 ++ bytesLE 2 0)
def copying : State :=
  { up with
    regs := [(hstCtx .eval 0x10, 0x1000#32), (hstCtx .eval 0x18, 0x2000#32), (hstCtx .eval 0x20, 0x4000#32), (hstCtx .eval 0x28, 0x8000#32),
             (hstCtx .eval 0x60, 100#32)],
    cx := [cxIn .ready, { cxIn .ready with committed := none, cmdTail := 1 }, CtxSt.reset, CtxSt.reset],
    catalogue := [(1, descWord 9 3 1 0x1000 4), (100, descWord 0xF 1 1 0 4), (101, descWord 9 3 1 0x4000 4)],
    rsv := { RsvSt.reset with mem := [(0, 1#8), (2, 1#8)] },
    host := { HostSt.reset with linkUp := true, mem := Mem.writeN [] 0x1000 copyEntry } }

theorem witness_PairCopyTaken :
    let u := copying.popHead .eval
    let p := entryPayload copyEntry
    copying.atHead .eval 0x23 copyEntry ∧ copying.cx.length = 4 ∧ bField p 0 1 = Ctx.num .train ∧ zeros ((p.drop 1).take 1) = true ∧
    zeros (p.drop 4) = true ∧ (copying.cxt .train).committed = some kept ∧ (copying.cxt .eval).state = .ready ∧ Ctx.train ≠ Ctx.eval ∧
    (u.cxt .eval).prog ≠ none ∧ (u.desc .eval 0).kind = 1 ∧ (u.desc .eval 0).fmt = 0xF ∧
    ((u.cxt .eval).prog.any fun q => decide (0 < q.ncat)) = true ∧ u.copyList .eval 0 = [(1, 1)] ∧
    (u.copyList .eval 0).all (u.copyOk .train .eval) = true := by decide +kernel

/-- COELOSTAT of 32 bytes from 0x10000 to stack address 0x1000 with root device `root`, its own tree: parent port `par`, child port 5. -/
def coelEntry (root par addr : Nat) : List Byte :=
  ringEntry 0x30 (bytesLE 2 root ++ List.replicate 6 0#8 ++ bytesLE 8 0x10000 ++ bytesLE 8 addr ++ bytesLE 8 32 ++ bytesLE 8 0 ++ bytesLE 1 1 ++
    bytesLE 1 par ++ bytesLE 2 32)

/-- Device 2 with the entry in front. -/
def coelReady (e : List Byte) : State := { atRing CtxSt.reset e with regs := Tbl.set (pgLNK 0 + 0x48) 2#32 bases }

/-- The hypotheses of CoelostatTaken. -/
def coelOk (s : State) (e : List Byte) (root : Bool) (fits : Bool) : Bool :=
  let u := s.popHead .train
  let p := entryPayload e
  let k := coelStarted u .train ⟨bField e 4 4, 0x30⟩ p root
  decide (s.atHead .train 0x30 e ∧ s.anyStep = false ∧ s.fab.coel = none ∧ (s.chkSt 15).scan = false ∧ zeros ((p.drop 2).take 6) = true ∧
    root = decide (bField p 0 2 = u.devId) ∧ bField p 0x28 1 < 2 ∧ bField p 0x2A 2 < 4096 ∧ zeros (p.drop 0x2C) = true ∧
    u.inInput .train (bField p 8 8) k.len = true ∧ u.coelRangeOk k.addr k.len = fits ∧ root = decide (k.parent = 0xF) ∧ k.children.length ≤ 11 ∧
    (root = false → k.parent < 12) ∧ k.children.contains k.parent = false)

theorem witness_CoelostatTaken_root : coelOk (coelReady (coelEntry 2 0xF 0x1000)) (coelEntry 2 0xF 0x1000) true true = true := by decide +kernel
theorem witness_CoelostatTaken_participant : coelOk (coelReady (coelEntry 1 3 0x1000)) (coelEntry 1 3 0x1000) false true = true := by decide +kernel
theorem witness_CoelostatTaken_range : coelOk (coelReady (coelEntry 1 3 0x5FFFFFFFFFF)) (coelEntry 1 3 0x5FFFFFFFFFF) false false = true := by
  decide +kernel

def coelRun : State :=
  { up with fab := { FabSt.reset with coel := some ⟨.train, false, 0x1000, 2, 0, 3, [5], 0, none, [], [], 0, ⟨7, 0x30⟩, []⟩ } }
def coelEnd : State :=
  { up with stk := { StkSt.reset with mem := [(0x1000, 1#8)] },
            fab := { FabSt.reset with coel := some ⟨.train, false, 0x1000, 2, crc64 [1#8, 0#8], 3, [], 2, none, [], [], 0, ⟨7, 0x30⟩, []⟩ } }

/-- The range does not hold what the CRC says. -/
def coelBad : State := { coelEnd with stk := { StkSt.reset with mem := [(0x1000, 3#8)] } }

theorem witness_CoelostatRuns : coelRun.safe ∧
    (∃ k, coelRun.fab.coel = some k ∧ k.root = false ∧ 0 + [1#8, 2#8].length ≤ k.len ∧ k.ownOk = none ∧ 5 ∈ k.children ∧ 5 ∉ k.kids) ∧
    coelRun.stk.remap = [] ∧ (∀ i < 2, coelRun.stkFenced (0x1000 + i) = false) ∧
    (∃ k, coelEnd.fab.coel = some k ∧ k.ownOk = none ∧ k.len ≤ k.written ∧ k.children = [] ∧ k.failed = [] ∧ k.saved = [] ∧
      crc64 (coelEnd.stkRead k.addr k.len) = k.crc) ∧
    (∃ k, coelBad.fab.coel = some k ∧ k.ownOk = none ∧ k.len ≤ k.written ∧ k.children = [] ∧ k.failed = [] ∧ k.saved = [] ∧
      crc64 (coelBad.stkRead k.addr k.len) ≠ k.crc) :=
  ⟨by decide +kernel, ⟨_, rfl, by decide +kernel⟩, rfl, by decide +kernel, ⟨_, rfl, by decide +kernel⟩, ⟨_, rfl, by decide +kernel⟩⟩

/-- A byte that the manual leaves unspecified holds a free value (R208, R355). -/
theorem test_lost_byte : ((up.loseKeys [2 ^ 40 + 5]).rsv.mem.read 5) = Config.freeByte up.free (2 ^ 40 + 5) := by
  have h : up.loseKeys [2 ^ 40 + 5] = ({ up with rsv.mem := up.rsv.mem.write 5 (Config.freeByte up.free (2 ^ 40 + 5)) } : State).tick := rfl
  rw [h]
  exact (Mem.read_write 5 5 _ (by decide +kernel)).trans (if_pos rfl)

/-! Loads that a check of R46 or R292 refuses. -/

/-- LOAD of a manifest at 0x10000, an image at 0x11000. -/
def loadEntry (m n : Nat) : List Byte :=
  ringEntry 0x01 (bytesLE 8 0x10000 ++ bytesLE 8 m ++ bytesLE 8 0x11000 ++ bytesLE 8 n ++ bytesLE 8 0x12000 ++ bytesLE 2 0 ++ bytesLE 1 0)
/-- A manifest of one rank whose digest is 0 (R529). -/
def man0 : List Byte :=
  bytesLE 4 1 ++ bytesLE 4 1 ++ bytesLE 4 2 ++ bytesLE 4 0 ++ bytesLE 8 128 ++ List.replicate 40 0#8 ++ (bytesLE 2 1 ++ bytesLE 2 0 ++ bytesLE 4 1 ++
    bytesLE 8 96) ++ (bytesLE 2 2 ++ bytesLE 2 0 ++ bytesLE 4 0 ++ bytesLE 8 96) ++ zero32
/-- An image with the seven sections, all empty but BOUND (R530). -/
def img0 : List Byte :=
  bytesLE 4 1 ++ bytesLE 4 0 ++ bytesLE 4 7 ++ bytesLE 4 0 ++ bytesLE 8 240 ++ List.replicate 40 0#8 ++
  ([(0x101, 1), (0x102, 0), (0x103, 0), (0x104, 0), (0x105, 0), (0x106, 0), (0x107, 0)].flatMap fun e =>
    bytesLE 2 e.1 ++ bytesLE 2 0 ++ bytesLE 4 e.2 ++ bytesLE 8 176) ++ List.replicate 64 0#8
def loading (m g e : List Byte) : State :=
  { atRing CtxSt.reset [] with host := { HostSt.reset with linkUp := true, mem := Mem.writeN (Mem.writeN (Mem.writeN [] 0x1000 e) 0x10000 m) 0x11000 g } }
/-- The premises that the clauses of ProgramLoad share. -/
def loadOk (s : State) (e : List Byte) : Bool :=
  let a := LoadArgs.parse (entryPayload e)
  decide (s.atHead .train 0x01 e ∧ (s.cxt .train).state = .idle ∧ a.flags < 2 ∧ zeros ((entryPayload e).drop 0x2B) = true ∧
    (s.popHead .train).inInput .train a.man a.manN = true ∧ (s.popHead .train).inInput .train a.img a.imgN = true)
def loaded (s : State) (e : List Byte) : List Byte × List Byte :=
  let a := LoadArgs.parse (entryPayload e)
  let u := ((s.popHead .train).clearMeas 4).remapRetired
  (u.hostRead a.man a.manN, u.hostRead a.img a.imgN)

/-- The manifest that lists the digest of img0. -/
def manOk : List Byte := man0.take 96 ++ sha3 img0
def zero64 : List Byte := List.replicate 64 0#8
def entryOk : List Byte := loadEntry 128 240
def badMan : State := loading zero64 zero64 (loadEntry 64 64)
def badImg : State := loading man0 zero64 (loadEntry 128 64)
def badDigest : State := loading man0 img0 entryOk
def onCheck : State := loading manOk img0 entryOk
def onBind : State := { onCheck with sys := { up.sys with capacity := true } }
def onTable : State := { onCheck with regs := Tbl.set (hstCtx .train 0x58) 0x2000#32 bases }

theorem loaded_eq (m g e : List Byte) (hm : m.length ≤ 0x1000) (h : let a := LoadArgs.parse (entryPayload e)
    a.man = 0x10000 ∧ a.manN = m.length ∧ a.img = 0x11000 ∧ a.imgN = g.length) : loaded (loading m g e) e = (m, g) := by
  obtain ⟨h1, h2, h3, h4⟩ := h
  have w1 : (Mem.writeN [] 0x1000 e).wf = true := Mem.writeN_wf _ _ rfl
  have w2 := Mem.writeN_wf 0x10000 m w1
  show (Mem.readN (Mem.writeN (Mem.writeN (Mem.writeN [] 0x1000 e) 0x10000 m) 0x11000 g) _ _,
    Mem.readN (Mem.writeN (Mem.writeN (Mem.writeN [] 0x1000 e) 0x10000 m) 0x11000 g) _ _) = (m, g)
  rw [h1, h2, h3, h4, Mem.readN_writeN _ g w2, Mem.readN_apart _ _ _ g w2 (by omega), Mem.readN_writeN _ m w1]

theorem loads_read : loaded badMan (loadEntry 64 64) = (zero64, zero64) ∧ loaded badImg (loadEntry 128 64) = (man0, zero64) ∧ loaded badDigest entryOk = (man0, img0) ∧
    loaded onCheck entryOk = (manOk, img0) ∧ loaded onBind entryOk = (manOk, img0) ∧ loaded onTable entryOk = (manOk, img0) := by
  have h : loaded onCheck entryOk = (manOk, img0) := loaded_eq _ _ _ (by decide +kernel) (by decide +kernel)
  exact ⟨loaded_eq _ _ _ (by decide +kernel) (by decide +kernel), loaded_eq _ _ _ (by decide +kernel) (by decide +kernel),
    loaded_eq _ _ _ (by decide +kernel) (by decide +kernel), h, h, h⟩

theorem witness_ProgramLoad_entry : loadOk badMan (loadEntry 64 64) = true ∧ loadOk badImg (loadEntry 128 64) = true ∧ loadOk badDigest entryOk = true ∧
    loadOk onCheck entryOk = true ∧ loadOk onBind entryOk = true ∧ loadOk onTable entryOk = true := by decide +kernel
theorem witness_ProgramLoad_refused : manifestBad zero64 ≠ none ∧ manifestBad man0 = none ∧ imageBad zero64 ≠ none ∧ imageBad img0 = none ∧
    sha3 img0 ≠ digestOf man0 0 := by decide +kernel
theorem witness_ProgramLoad_good : manifestBad manOk = none ∧ 0 < bField manOk 4 4 ∧ bField img0 4 4 = 0 ∧ sha3 img0 = digestOf manOk 0 := by decide +kernel

/-- The parts of the premises behind a good manifest and image: the rank table lies in the input window, the binding holds, the checker accepts. -/
def loadParts (s : State) : List Bool :=
  let w := ((((s.popHead .train).clearMeas 4).remapRetired).countPerms 0 (sha3Perms 128)).countPerms 1 (sha3Perms 240)
  let im := Image.of manOk img0
  [w.inInput .train (LoadArgs.parse (entryPayload entryOk)).tab 2, (w.bindBad .train im).isNone,
   ((w.measure 4 16 im.digest).check .train im 0 [0]).isNone]

theorem witness_ProgramLoad_late : (loadParts onTable).head? = some false ∧ (loadParts onBind).take 2 = [true, false] ∧ loadParts onCheck = [true, true, false] := by
  decide +kernel

/-- An image of one line for logical tile 0. -/
def lineImage : Image := { Image.of [] [] with eph := [(0, 0, [3])] }

theorem witness_ProgramLoad_install : up.cx.length = 4 ∧ (up.cxt .train).owner ≠ some (prog.digest, prog.n) ∧
    ({ up with cx := [{ cxIn .idle with owner := some (ones32, 1) }, CtxSt.reset, CtxSt.reset, CtxSt.reset] } : State).cx.length = 4 ∧
    up.physOf ⟨0, 0⟩ = some 0 ∧ (lineImage.eph.find? fun e => decide (e.1 = 0 ∧ e.2.1 = 0)) = some (0, 0, [3]) := by
  decide +kernel

/-! Doorbells, context control. -/

def tails : State := up.modCx .train fun x => { x with cplTail := 3, almTail := 3, fltTail := 3 }

theorem witness_DoorbellsAndPause : tails.busUp = true ∧ tails.cx.length = 4 ∧ ringUsed (tails.cxt .train).cmdHead 16 ≤ tails.ringSize .train 0 ∧
    tails.ringSize .train 0 < ringUsed (tails.cxt .train).cmdHead 65 ∧ (∀ e ∈ (tails.cxt .train).cplWait, e.length ≤ 32) ∧
    ringUsed 3 (tails.cxt .train).cplTail ≤ tails.ringSize .train 4 ∧ tails.ringSize .train 4 < ringUsed 4 (tails.cxt .train).cplTail ∧
    ringUsed 0 (tails.cxt .train).almTail ≤ tails.ringSize .train 8 ∧ tails.ringSize .train 8 < ringUsed 4 (tails.cxt .train).almTail ∧
    ringUsed 0 (tails.cxt .train).fltTail ≤ tails.ringSize .train 12 ∧ tails.ringSize .train 12 < ringUsed 4 (tails.cxt .train).fltTail ∧
    ringUsed 0 tails.host.evtTail ≤ tails.evtSize ∧ tails.evtSize < ringUsed 1 tails.host.evtTail ∧ State.reset.busUp = false ∧
    bitAt (2#32).toNat 0 = false ∧ bitAt (2#32).toNat 1 = true ∧ bitAt (2#32).toNat 2 = false ∧ bitAt (4#32).toNat 2 = true ∧
    bitAt (6#32).toNat 1 = true ∧ bitAt (6#32).toNat 2 = true := by decide +kernel

theorem witness_ContextReset : tails.busUp = true ∧ tails.safe ∧ bitAt (1#32).toNat 0 = true ∧
    (∀ r ∈ tails.plt.readers, r.ctx = .train → r.copyTo ≠ some .eval) := by decide +kernel

theorem test_pause_both_bits : exec (.pause .train 6#32) up = .next up ∧ exec (.resume .train 6#32) up = .next up := ⟨rfl, rfl⟩

/-! Rails, resets, power. -/

/-- The device as its rails come up. -/
def rising (enabled good : List Nat) : State := { State.reset with sys := { SysSt.reset with rails := ⟨enabled, good, false, true⟩ } }
/-- The device as its rails fall. -/
def falling (enabled good : List Nat) : State := { State.reset with sys := { SysSt.reset with pstate := 3, rails := ⟨enabled, good, true, false⟩ } }

theorem witness_RailSequence :
    (rising [2, 3, 4, 5, 6, 7] [2, 3, 4, 5]).sys.rails.enabled.contains 6 = true ∧ (rising [2, 3, 4, 5, 6, 7] [2, 3, 4, 5]).sys.rails.good.contains 6 = false ∧
    ([2, 3, 4, 5, 6, 7].all fun k => (insertNat 6 [2, 3, 4, 5]).contains k) = false ∧ ([2].all fun k => (insertNat 2 []).contains k) = true ∧
    nextRails [2] ≠ [] ∧ nextRails allRails = [] ∧ (rising [2] []).sys.rails.good.contains 2 = false ∧ (rising allRails (allRails.drop 1)).sys.rails.good.contains 2 = false ∧
    (rising [2] [2]).sys.rails.good.contains 2 = true ∧ (rising [2] []).sys.rails.enabled.contains 3 = false ∧
    (falling [2] [2, 3]).sys.rails.seqDown = true ∧ (falling [2] [2, 3]).sys.rails.good.contains 3 = true ∧
    (falling [2] [2, 3]).sys.rails.enabled.contains 3 = false ∧ (falling [2] [2]).sys.rails.good.contains 3 = false ∧
    lastDown [2] = some 3 ∧ lastDown [2] ≠ some 4 := by decide +kernel

theorem test_rail_order : (match exec (.railPgRise 3) (rising [2, 3] [2]) with
    | .next t => decide (t.sys.rails = ⟨[2, 3, 4, 5, 6, 7], [2, 3], false, true⟩)
    | _ => false) = true := by decide +kernel

theorem witness_DeviceStops : (rising [2, 3] [2]).sys.stopped = false ∧ (rising [2, 3] [2]).sys.rails.enabled.contains 2 = true ∧
    (rising [2, 3] [2]).sys.rails.good.contains 2 = true ∧ (rising [2, 3] [2]).sys.rails.good.contains 3 = false ∧
    (rising [2, 3] [2]).sys.rails.seqUp = true ∧ (rising [2, 3] [2]).sys.pstate ≠ 3 ∧ (rising [2, 3] [2]).fab.coel = none ∧
    (∀ r ∈ (rising [2, 3] [2]).plt.readers, r.buddy = false) := by decide +kernel

theorem test_thermal_trip : (match exec (.thermalTrip 4) up with
    | .next t => decide (t.sys.thermTrip = true ∧ t.sys.tripLatch = some (1, 4) ∧ t.sys.rails.enabled = [] ∧ t.host.linkUp = false)
    | _ => false) = true := by decide +kernel

theorem witness_PackageResets : up.busUp = true ∧ bitAt (1#32).toNat 0 = true ∧ rstBits (1#32).toNat = 1 ∧ up.sys.mrstLow = false ∧
    ({ up with sys := { up.sys with mrstLow := true } } : State).sys.mrstLow = true ∧ (falling [2] [2]).sys.pstate = 3 ∧ (falling [2] [2]).sys.stopped = false := by
  decide +kernel

def parked : State := { up with sys := { up.sys with pstate := 2, unparking := true } }
def armed : State := { up with cx := [cxIn .ready, CtxSt.reset, CtxSt.reset, CtxSt.reset] }
def stepping : State := { up with cx := [cxIn .running, CtxSt.reset, CtxSt.reset, CtxSt.reset] }

theorem witness_PowerRequestsRefused : up.busUp = true ∧ 1 < rstBits (15#32).toNat ∧ rstBits (2#32).toNat = 1 ∧ stepping.anyStep = true ∧ stepping.busUp = true ∧
    coelRun.fab.coel ≠ none ∧ coelRun.busUp = true ∧ parked.sys.pstate = 2 ∧ parked.busUp = true ∧ rstBits (4#32).toNat = 1 ∧ up.sys.pstate ≠ 2 ∧
    rstBits (8#32).toNat = 1 ∧ armed.anyArmed = true ∧ armed.busUp = true := by decide +kernel

theorem test_park_in_step : (match exec (.park 2#32) stepping with
    | .next t => decide (t.sys.parking = false ∧ bitAt (t.reg (pgRST + 0x44)) 3 = true)
    | _ => false) = true := by decide +kernel

def parking : State := { up with sys := { up.sys with parking := true } }

theorem witness_ParkAndUnpark : up.busUp = true ∧ rstBits (2#32).toNat = 1 ∧ bitAt (2#32).toNat 1 = true ∧ up.anyStep = false ∧ up.background = false ∧ up.fab.coel = none ∧
    up.sys.pstate < 2 ∧ parking.sys.parking = true ∧ parking.anyStep = false ∧ parking.plt.readers = [] ∧ parking.plt.rx = none ∧ parking.plt.restoring = [] ∧
    parking.fab.coel = none ∧ up.sys.parking = false ∧ rstBits (4#32).toNat = 1 ∧ bitAt (4#32).toNat 2 = true ∧ parked.busUp = true ∧ parked.islandUp = true ∧
    parked.sys.pstate = 2 ∧ parked.sys.unparking = true ∧ parked.host.mem.wf = true ∧ up.sys.unparking = false := by decide +kernel

theorem witness_IdleAndDark : up.ready = true ∧ up.sys.pstate = 0 ∧ bitAt (up.reg (pgRST + 0x48)) 16 = true ∧ up.quiet = true ∧ up.sys.parking = false ∧
    State.reset.ready = false ∧ parked.sys.pstate ≠ 0 ∧ (up.setReg (pgRST + 0x48) 0).ready = true ∧ bitAt ((up.setReg (pgRST + 0x48) 0).reg (pgRST + 0x48)) 16 = false ∧
    stepping.quiet = false ∧ parking.sys.parking = true ∧ ({ up with sys := { up.sys with pstate := 1 } } : State).sys.pstate = 1 ∧
    up.anyArmed = false ∧ up.busUp = true ∧ rstBits (8#32).toNat = 1 ∧ bitAt (8#32).toNat 3 = true ∧ up.islandUp = true := by decide +kernel

theorem witness_IdleAndDark_park : up.busUp = true ∧ rstBits (2#32).toNat = 1 ∧ bitAt (2#32).toNat 1 = true ∧ up.anyStep = false ∧ up.background = false ∧
    up.fab.coel = none ∧ up.sys.pstate < 2 ∧ rstBits (4#32).toNat = 1 ∧ bitAt (4#32).toNat 2 = true ∧ parked.busUp = true ∧ parked.sys.pstate = 2 ∧ parked.islandUp = true ∧
    parking.sys.parking = true ∧ parking.anyStep = false ∧ parking.plt.readers = [] ∧ parking.plt.rx = none ∧ parking.plt.restoring = [] ∧ parking.fab.coel = none ∧
    parked.sys.unparking = true := by decide +kernel

theorem test_a1_entry : (match exec .a1Entry up with
    | .next t => decide (t.sys.pstate = 1)
    | _ => false) = true := by decide +kernel

theorem witness_FunctionResets : up.safe ∧ up.sec.meas.length = 8 ∧ up.fab.coel = none ∧ (∀ r ∈ up.plt.readers, r.copyTo = none) ∧ up.sys.pstate < 3 ∧
    up.busUp = true ∧ up.sys.mrstLow = false ∧ up.sys.stopped = false ∧ parked.sys.pstate = 2 ∧ parked.busUp = true ∧ State.reset.busUp = false ∧
    State.reset.sys.pstate < 3 ∧ ({ up with sys := { up.sys with mrstLow := true } } : State).sys.mrstLow = true ∧
    (∃ r, regRow (pgTIL 0 0 + 0x40) = some r ∧ r.flr = true) ∧ (∃ r, regRow (pgSTK 0 + 0x40) = some r ∧ r.flr = false ∧ r.ctx = false) :=
  ⟨by decide +kernel, by decide +kernel, by decide +kernel, by decide +kernel, by decide +kernel, by decide +kernel, by decide +kernel, by decide +kernel,
   by decide +kernel, by decide +kernel, by decide +kernel, by decide +kernel, by decide +kernel, ⟨_, rfl, rfl⟩, ⟨_, rfl, rfl, rfl⟩⟩

/-- The device before bring-up step n + 1 completes, its rails good. -/
def booting (n : Nat) : State :=
  { State.reset with sys := { SysSt.reset with bringup := n, rails := ⟨allRails, allRails, false, false⟩ }, sec := { Sec.reset with booted := some 0 } }
def goodStep : BringupReport := ⟨true, 0, [], [], [], []⟩
def badStep : BringupReport := ⟨false, 4, [], [], [], []⟩

theorem witness_BringupSteps : ([2, 3, 4, 5, 6, 7].all fun n => decide ((booting n).sys.stopped = false ∧ (booting n).sys.pstate ≠ 3 ∧
    (booting n).sys.mrstLow = false ∧ (booting n).sys.failed = false ∧ (booting n).sec.recovery = false ∧ 1 ≤ (booting n).sys.bringup ∧ (booting n).sys.bringup < 8 ∧
    (booting n).fab.coel = none ∧ ∀ r ∈ allRails, (booting n).sys.rails.good.contains r = true)) = true ∧ goodStep.ok = true ∧ badStep.ok = false ∧
    up.sys.bringup = 8 ∧ (∀ ch ∈ (booting 5).sparedChannels, ch < 128) := by decide +kernel

theorem test_last_bringup_step : (match exec (.bringupStepComplete goodStep) (booting 7) with
    | .next t => decide (t.ready = true)
    | _ => false) = true := by decide +kernel

theorem test_failed_bringup_step : (match exec (.bringupStepComplete badStep) (booting 5) with
    | .next t => decide (t.sys.failed = true ∧ t.sys.bringup = 5)
    | _ => false) = true := by decide +kernel

def trying : State := { up with sec := { Sec.reset with booted := some 0, trial := true } }
theorem witness_Trials : trying.sec.trial = true ∧ trying.ready = true ∧ up.sec.trial = false ∧ trying.sec.booted = some 0 ∧ trying.sys.pstate < 3 ∧
    State.reset.sec.booted = none := by decide +kernel

theorem witness_BringupSteps_trial : trying.sec.trial = true ∧ trying.ready = true ∧ trying.sec.booted = some 0 ∧ trying.sys.pstate < 3 := by decide +kernel

/-! Management and boundary scan. -/

def named : State := { up with sec := { Sec.reset with identity := true, booted := some 0 } }
def dark : State := { State.reset with sys := { SysSt.reset with bringup := 8, pstate := 3 } }

theorem witness_SpdmAnswers : named.islandUp = true ∧ named.sec.identity = true ∧ 1 ∈ measIndices ∧ 0xEE ∉ measIndices ∧ up.sec.identity = false ∧ up.islandUp = true ∧
    ({ up with sys := { up.sys with stopped := true, pstate := 3 } } : State).islandUp = false ∧
    ({ up with sys := { up.sys with stopped := true, pstate := 3 } } : State).dark = false := by decide +kernel

theorem witness_ManagementInDark : up.islandUp = true ∧ up.anyArmed = false ∧ (∃ t, exec .pldmDarkRequest up = .next t) ∧ up.busUp = true ∧
    rstBits (8#32).toNat = 1 ∧ bitAt (8#32).toNat 3 = true ∧ (∃ t, exec (.dark 8#32) up = .next t) ∧ dark.dark = true ∧ dark.sec.recovery = false :=
  ⟨by decide +kernel, by decide +kernel, ⟨_, rfl⟩, by decide +kernel, by decide +kernel, by decide +kernel, ⟨_, rfl⟩, by decide +kernel, by decide +kernel⟩

theorem witness_ManagementServices : named.islandUp = true ∧ named.sec.booted = some 0 ∧ imageReason (some []) (named.arb 0) false ≠ 0 := by decide +kernel

theorem test_dark_answers_busy : exec .getVersion dark = .next { dark with out := [.spdmError 0x03] } := rfl

def low : State := { up with sys := { up.sys with mrstLow := true, rails := ⟨allRails, allRails, false, false⟩ } }
def high : State := { up with sys := { up.sys with rails := ⟨allRails, allRails, false, false⟩ } }
theorem witness_BoundaryScan : low.sys.taps.length = 2 ∧ low.vddX = true ∧ low.sys.mrstLow = true ∧ high.sys.mrstLow = false ∧ high.vddX = true ∧ State.reset.vddX = false ∧
    State.reset.sys.taps.length = 2 := by decide +kernel

/-- IDCODE of X-die 0 (R525). -/
theorem test_idcode : (match exec (.idcode 0) high with
    | .next t => decide (t.out = [.tdo 0 (bitsOf 32 0x04600A35)])
    | _ => false) = true := by decide +kernel

/-! Stack maintenance. -/

/-- The stacks initialized, one channel 3 as given. -/
def withChan (c : Chan) (st : StackSt) : State :=
  { up with regs := [(stkMapCfg, 0x8000FF00#32)], stk := { StkSt.reset with chans := [(3, c)], st := [(0, st)] } }
def chan3 : Chan := Chan.reset 3
def quietSt : StackSt := { StackSt.reset with windows := 1 }

theorem witness_RefreshAndHolds :
    (withChan chan3 StackSt.reset).stackUp (3 / 16) = true ∧ (withChan { chan3 with post := 6 } StackSt.reset).chan 3 = { chan3 with post := 6 } ∧
    ((6 : Int) + 1 < 8) ∧ ((8 : Int) ≤ 7 + 1) ∧ (withChan { chan3 with post := 7 } StackSt.reset).chan 3 = { chan3 with post := 7 } ∧
    (withChan chan3 quietSt).stackUp (3 / 16) = true ∧ 0 < ((withChan chan3 quietSt).stackSt (3 / 16)).windows ∧ (-8 < ((withChan chan3 quietSt).chan 3).post) ∧
    ((List.range 16).filter fun l => decide (((withChan chan3 quietSt).chan (16 * 0 + l)).hold = some .refresh)).length < 4 ∧
    ((withChan chan3 quietSt).setReg 0 0).stackUp 0 = true ∧ ((withChan chan3 StackSt.reset).stackSt (3 / 16)).windows ≤ 0 ∧
    (withChan { chan3 with hold := some .sweep, post := 7 } StackSt.reset).chan 3 = { chan3 with hold := some .sweep, post := 7 } := by decide +kernel

/-- Channel 0 of a quiet stack: no lower channel can be pulled in. -/
theorem witness_RefreshIssue_lowest : ∀ l, l < 0 % 16 → ((withChan chan3 quietSt).chan (16 * 0 + l)).hold ≠ none ∨ ((withChan chan3 quietSt).chan (16 * 0 + l)).post ≤ -8 := by
  decide

theorem witness_HoldEnd : ((withChan { chan3 with hold := some .sweep, due := [.refresh, .retrain] } quietSt).chan 3).due = [.refresh, .retrain] ∧
    ((withChan { chan3 with hold := some .sweep, due := [.refresh] } quietSt).chan 3).hold ≠ none ∧ ((withChan { chan3 with hold := some .sweep } quietSt).chan 3).due = [] := by
  decide

theorem test_refresh_due : (match exec (.refreshInterval 3) (withChan { chan3 with post := 7 } StackSt.reset) with
    | .next t => decide ((t.chan 3).hold = some .refresh ∧ (t.chan 3).post = 7)
    | _ => false) = true := by decide +kernel

theorem test_retrain_before_refresh : (match exec (.channelHoldEnd 3) (withChan { chan3 with hold := some .sweep, due := [.refresh, .retrain] } quietSt) with
    | .next t => decide ((t.chan 3).hold = some .retrain ∧ (t.chan 3).due = [.refresh])
    | _ => false) = true := by decide +kernel

theorem witness_RetrainingAndSparing :
    (withChan { chan3 with trainTemp := 10 } StackSt.reset).stackUp 0 = true ∧ chan3.fenced = false ∧
    bitAt ((withChan chan3 StackSt.reset).reg (pgSTK 0 + 0x18)) 8 = false ∧ chan3.hold = none ∧ chan3.due = [] ∧ (withChan chan3 StackSt.reset).stackTemp 0 = 0 ∧
    0 + 10 ≤ ({ chan3 with trainTemp := 10 } : Chan).trainTemp ∧ 0 < chan3.trainTemp + 10 ∧ ({ chan3 with fails := 1 } : Chan).fails < 2 ∧
    2 ≤ ({ chan3 with fails := 2 } : Chan).fails ∧ ((withChan chan3 StackSt.reset).stackSt 0).sweep = none ∧ ((withChan chan3 StackSt.reset).stackSt 0).spareUsed = false ∧
    ((withChan chan3 { StackSt.reset with spareUsed := true }).stackSt 0).spareUsed = true := by decide +kernel

/-- A row repair in a phase. -/
def repairing (ph : Nat) : State :=
  { withChan chan3 StackSt.reset with stk := { (withChan chan3 StackSt.reset).stk with ppr := [(0, [⟨3, 3, 1, 2, 5, ph, [64]⟩]), (3, [⟨3, 3, 1, 2, 5, ph, [64]⟩])] } }

theorem witness_RowRepair : ([1, 2, 3, 4, 5].all fun ph => decide (((repairing ph).pprOf 3).find? (·.group = 1) = some ⟨3, 3, 1, 2, 5, ph, [64]⟩ ∧
    ((repairing ph).stk.st.any (·.2.halt)) = false ∧ ((repairing ph).chan 3).hold = none)) = true := by decide +kernel

theorem witness_SpareSweep : ((withChan chan3 { StackSt.reset with sweep := some (3, 7) }).stackSt 0).sweep = some (3, 7) ∧
    ((withChan chan3 { StackSt.reset with sweep := some (3, bankRows - 1) }).stackSt 0).sweep = some (3, bankRows - 1) ∧ 7 + 1 ≠ bankRows ∧ bankRows - 1 + 1 = bankRows ∧
    ((withChan chan3 StackSt.reset).stk.st.any (·.2.halt)) = false ∧ ((withChan chan3 StackSt.reset).chan (16 * 0 + 3)).hold = none ∧
    ((withChan chan3 StackSt.reset).chan (16 * 0 + 3)).inst = 3 ∧ (withChan chan3 StackSt.reset).pprOf 3 = [] ∧ (repairing 1).pprOf 3 ≠ [] := by decide +kernel

theorem witness_ScrubAndTemperature : (withChan chan3 StackSt.reset).stkHas 0x1000 = true ∧ (withChan chan3 StackSt.reset).stackUp (((withChan chan3 StackSt.reset).stkDecode 0x1000).1 / 16) = true ∧
    bitAt ((withChan chan3 StackSt.reset).reg (pgSTK (((withChan chan3 StackSt.reset).stkDecode 0x1000).1 / 16) + 0x18)) 8 = false ∧ 0x1000 % 64 = 0 ∧
    ((withChan chan3 StackSt.reset).chan ((withChan chan3 StackSt.reset).stkDecode 0x1000).1).inst ≤ 16 ∧
    ((withChan chan3 StackSt.reset).chan ((withChan chan3 StackSt.reset).stkDecode 0x1000).1).fenced = false ∧ bitAt ((withChan chan3 StackSt.reset).reg stkMapCfg) 31 = true ∧
    bitAt (up.reg stkMapCfg) 31 = false := by decide +kernel

/-- R313 at 92 degrees: THROTTLE holds, HALT of an earlier readout stays. -/
theorem test_stack_readout : (match exec (.stackReadout 0 92) (withChan chan3 { StackSt.reset with halt := true }) with
    | .next t => decide ((t.stackSt 0).warn = true ∧ (t.stackSt 0).throttle = true ∧ (t.stackSt 0).halt = true)
    | _ => false) = true := by decide +kernel

/-! Power, temperature, clocks; rotation. -/

def hot (w cool : Nat) : State := { up with dies := [(0, { DieSt.reset with windows := w, cool := cool })], thr := { ThrSt.reset with pkgCool := cool } }

theorem witness_Shutter : up.regField (pgPWR 0 + 0x40) 0 16 < 0x745 ∧ 0x744 ≤ up.regField (pgPWR 0 + 0x40) 0 16 ∧ ((hot 998 0).die 0).windows < 999 ∧ 999 ≤ ((hot 999 0).die 0).windows ∧
    2 ≤ up.sys.bringup ∧ up.sys.pstate < 3 ∧ up.jthrottle 0 ≤ 200 ∧ up.jthrottle 4 ≤ 200 ∧ 80 + 3 < up.jthrottle 0 ∧ ((hot 0 8).die 0).cool < 9 ∧ 9 ≤ ((hot 0 9).die 0).cool ∧
    up.jthrottle 0 - 1 < up.jthrottle 0 ∧ up.jthrottle 0 ≤ up.jthrottle 0 - 1 + 3 ∧ State.reset.sys.bringup < 2 ∧ 3 ≤ dark.sys.pstate ∧
    up.reg (pgPKGP + 0x48) < 1501 ∧ 1400 ≤ up.reg (pgPKGP + 0x48) ∧ 100 * 1400 < 95 * up.reg (pgPKGP + 0x48) ∧ (hot 0 8).thr.pkgCool < 9 ∧ 9 ≤ (hot 0 9).thr.pkgCool ∧
    95 * up.reg (pgPKGP + 0x48) ≤ 100 * 1425 := by decide +kernel

theorem test_window_thousand : (match exec (.powerWindow 0 0) { hot 999 0 with dies := [(0, { DieSt.reset with windows := 999, ceilPwr := 7 })] } with
    | .next t => decide ((t.die 0).ceilPwr = 8 ∧ (t.die 0).windows = 0)
    | _ => false) = true := by decide +kernel

theorem witness_TileClocks : up.busUp = true ∧ up.sys.pstate < 2 ∧ (up.role 0).state ≠ 3 ∧ 4 ≤ (4#32).toNat % 32 ∧ (16#32).toNat % 32 ≤ 16 ∧ (3#32).toNat % 32 < 4 ∧ 16 < (17#32).toNat % 32 ∧
    parked.busUp = true ∧ parked.sys.pstate = 2 ∧ (({ up with roles := [(0, { Role.start 0 with state := 3 })] } : State).role 0).state = 3 ∧
    (({ up with tiles := [(0, { TileSt.reset with settle := true })] } : State).tile (48 * 0 + 0)).settle = true ∧ (up.tile 0).settle = false := by decide +kernel

theorem test_til_clk_range : (match exec (.tilClk 0 0 3#32) up with
    | .next t => decide (t.reg (pgTIL 0 0 + 0x40) = 16 ∧ t.reg (pgTIL 0 0 + 0x1C) = 1)
    | _ => false) = true := by decide +kernel

def dueTile : State := { up with roles := [(5, { Role.start 5 with due := true })] }
def moving : State := { up with dies := [(0, { DieSt.reset with migrating := some (5, 46) })], tiles := [(5, { TileSt.reset with mem := [(3, 7#8)] })] }

theorem witness_RotationAndTests : (dueTile.role 5).state = 0 ∧ (dueTile.role 5).due = true ∧ (∀ k, k < 192 → (up.role k).state ≠ 0 ∨ (up.role k).due = false) ∧ up.bstCfg 8 8 ≠ 0 ∧
    (up.setReg (pgBST 8 + 0x40) 0).bstCfg 8 8 = 0 ∧ (up.role 5).state = 0 ∧ (up.role 46).state = 1 ∧
    (({ up with roles := [(46, { Role.start 46 with state := 2 })] } : State).role 46).state = 2 ∧ dueTile.anyStep = false ∧ (dueTile.dies.any fun e => e.2.migrating.isSome) = false ∧
    dueTile.firstDue 0 = some 5 ∧ ((dieTiles 0).find? fun j => decide ((dueTile.role j).state = 1)) = some 46 ∧ dueTile.firstDue 1 = none ∧ stepping.anyStep = true ∧
    dueTile.cGated = false ∧ moving.cGated = false ∧ parked.cGated = true ∧
    (moving.die 0).migrating = some (5, 46) ∧ (up.die 0).migrating = none := by decide +kernel

theorem test_migration : (match exec (.migrationComplete 0) moving with
    | .next t => decide ((t.role 46).lt = 5 ∧ (t.role 46).state = 0 ∧ (t.role 5).state = 2 ∧ (t.tile 46).mem = [(3, 7#8)] ∧ (t.tile 5).mem = [])
    | _ => false) = true := by decide +kernel

theorem test_failed_logic_test : (match exec (.fieldTestComplete 0 46 [] false) { up with roles := [(46, { Role.start 46 with state := 2 })] } with
    | .next t => decide ((t.role 46).state = 3)
    | _ => false) = true := by decide +kernel

/-! Register pages. -/

/-- TIL_CLK has a command of its own, PWR_BUDGET is RWL, HST_EVT_CFG is RW. -/
theorem witness_RegisterWrites :
    (∃ r, regRow (pgHST + 0x54) = some r ∧ r.own = false ∧ r.pair = 0 ∧ r.rwl = 0 ∧ r.rw = 0xF) ∧
    (∃ r, regRow (pgPWR 0 + 0x40) = some r ∧ r.own = false ∧ r.pair = 0 ∧ r.rwl ≠ 0 ∧ up.lockedBy r.owner = false ∧ armed.lockedBy r.owner = true) ∧
    up.serves0 (pgHST + 0x54) ∧ armed.serves0 (pgPWR 0 + 0x40) ∧ pgHST + 0x54 < msixTable ∧ up.pageShut (pgHST + 0x54) = false ∧ armed.pageShut (pgPWR 0 + 0x40) = false ∧
    ¬ (addrOff (pgHST + 0x54) = 8 ∧ bitAt (1#32).toNat 0 = true) ∧ pgPWR 0 + 0x40 ≠ pgRST + 0x44 ∧
    chkOf (pgHST + 0x54) = none ∧ chkOf (pgPWR 0 + 0x40) = none ∧ chkOf (pgCHK 1 + 0x48) = some 1 ∧ addrOff (pgCHK 1 + 0x48) ≠ 0x40 ∧
    up.ownedPage (pgHST + 0x54) = false ∧ armed.ownedPage (pgPWR 0 + 0x40) = false ∧
    (∃ r, regRow (pgCHK 0 + 0x14) = some r ∧ up.ownedPage (pgCHK 0 + 0x14) = true ∧ r.own = false ∧ r.pair = 0) :=
  ⟨⟨_, rfl, rfl, rfl, rfl, rfl⟩, ⟨_, rfl, rfl, rfl, by decide, rfl, rfl⟩, by decide +kernel, by decide +kernel, by decide +kernel, by decide +kernel, by decide +kernel,
   by decide +kernel, by decide +kernel, by decide +kernel, by decide +kernel, by decide +kernel, by decide +kernel, by decide +kernel, by decide +kernel,
   ⟨_, rfl, by decide +kernel, rfl, rfl⟩⟩

theorem witness_RegisterWrites_far (c : Ctx) : pgHST + 0x54 ≠ hstCtx c 8 ∧ pgPWR 0 + 0x40 ≠ hstCtx c 8 := by cases c <;> decide

theorem witness_RingSizes : up.busUp = true ∧ (up.cxt .train).armed = false ∧ (∀ i, i < 4 → 4 ≤ (0xC4C4#32).toNat / 16 ^ i % 16 ∧ (0xC4C4#32).toNat / 16 ^ i % 16 ≤ 12) ∧
    (0xD444#32).toNat / 16 ^ 3 % 16 = 13 ∧ (3#32).toNat / 16 ^ 0 % 16 < 4 ∧ ({ up with sys := { up.sys with tripLatch := some (1, 4) } } : State).sys.tripLatch = some (1, 4) ∧
    ({ up with sys := { up.sys with tripLatch := some (1, 4) } } : State).busUp = true := by decide +kernel

theorem witness_PairsAndTables :
    (∃ r, regRow (pgTIL 0 0 + 0x100) = some r ∧ r.pair = 1) ∧ up.serves0 (pgTIL 0 0 + 0x100) ∧ up.ready = true ∧
    (∃ l h, regRow (hstCtx .train 0x10) = some l ∧ regRow (hstCtx .train 0x10 + 4) = some h ∧ l.pair = 1 ∧ l.rw + l.rwl + h.rw + h.rwl ≠ 0 ∧ l.rwl ≠ 0 ∧ up.lockedBy l.owner = false ∧
      armed.lockedBy l.owner = true) ∧ up.serves0 (hstCtx .train 0x10) ∧ armed.serves0 (hstCtx .train 0x10) ∧ up.pageShut (hstCtx .train 0x10) = false ∧
    armed.pageShut (hstCtx .train 0x10) = false ∧ chkOf (hstCtx .train 0x10) = none ∧ up.busUp = true ∧ up.anyArmed = false ∧ armed.anyArmed = true ∧ armed.busUp = true :=
  ⟨⟨_, rfl, rfl⟩, by decide +kernel, by decide +kernel, ⟨_, _, rfl, rfl, rfl, by decide, by decide, rfl, rfl⟩, by decide +kernel, by decide +kernel, by decide +kernel, by decide +kernel,
   by decide +kernel, by decide +kernel, by decide +kernel, by decide +kernel, by decide +kernel⟩

theorem witness_ReservedPages : up.serves0 (regAddr 0 0x3F 0x40) ∧ (pageBlock 0 0x3F).1 = 0 ∧ up.serves0 (regAddr 9 0x19 0) ∧ (pageBlock 9 0x19).1 ≠ 0 ∧ up.ready = true := by
  decide +kernel

theorem witness_RegisterActions : up.serves0 pgHST ∧ pgHST % 0x1000 = 0 ∧ pgHST < 0x2800000 ∧ (pageBlock (addrDie pgHST) (addrPage pgHST)).1 ≠ 0 ∧
    injPoints (pageBlock (addrDie pgHST) (addrPage pgHST)).1 < 255 ∧ (0x1000#32).toNat / 1024 % 32 = 4 ∧ (0x5001#32).toNat / 1024 % 32 = 20 ∧
    (0x5401#32).toNat / 1024 % 32 = 21 ∧ 1 ≤ injPoints (pageBlock (addrDie (pgTIL 0 0)) (addrPage (pgTIL 0 0))).1 ∧ up.serves0 (pgTIL 0 0) ∧ bitAt (0x1100#32).toNat 8 = true ∧
    (({ up with fab := { FabSt.reset with ports := [(0, { PortSt.reset with state := 3 })] } } : State).port 0).state = 3 ∧ (up.port 0).state ≠ 3 ∧ (6#32).toNat / 2 % 4 = 3 ∧
    (0x0400#32).toNat / 256 % 32 = 4 ∧ (0x1401#32).toNat / 256 % 32 = 20 ∧ (up.role 0).state ≠ 3 ∧ up.sys.pstate < 2 ∧ parked.sys.pstate = 2 ∧ parked.busUp = true ∧
    pgHST < 0x2805000 ∧ up.ownedPage pgHST = false ∧ up.ownedPage (pgTIL 0 0) = false ∧ up.serves0 (pgCHK 0) ∧ up.ownedPage (pgCHK 0) = true ∧
    pgCHK 0 % 0x1000 = 0 := by decide +kernel

theorem test_rwl_locked : (match exec (.regWrite (pgPWR 0 + 0x40) 5#32) armed with
    | .next t => decide (t.reg (pgPWR 0 + 0x40) = 0x744 ∧ bitAt (t.reg (pgPWR 0 + 0x10)) 1 = true)
    | _ => false) = true := by decide +kernel

theorem test_evt_clr : (match exec (.evtClr pgHST 1#32) (up.setReg (pgHST + 0x1C) 9) with
    | .next t => decide (t.reg (pgHST + 0x1C) = 0 ∧ bitAt (t.reg (pgHST + 8)) 1 = false)
    | _ => false) = true := by decide +kernel

/-! Check units, the Reserve, the Logbook, the host bus. -/

/-- Unit 2 set to scan 5 bytes of a space, busy or not. -/
def checking (sp : Nat) (c : ChkSt) : State :=
  { up with regs := [(pgCHK 2 + 0x40, BitVec.ofNat 32 (0x3A0 + sp * 0x1000)), (pgCHK 2 + 0x78, 5#32)], chk := [(2, c)] }

theorem witness_CheckCommands : up.busUp = true ∧ up.fab.coel = none ∧ ((checking 3 (ChkSt.reset 2)).chkSt 2).scan = false ∧
    ([1#32, 2#32, 4#32, 6#32].all fun v => bitAt v.toNat 0 || bitAt v.toNat 1 || bitAt v.toNat 2) = true ∧ (checking 3 (ChkSt.reset 2)).chkWidth 2 = 32 ∧
    (checking 3 (ChkSt.reset 2)).regField (pgCHK 2 + 0x40) 10 2 < 3 ∧
    (checking 3 (ChkSt.reset 2)).scanOk 2 3 ((checking 3 (ChkSt.reset 2)).scanAddr 2) ((checking 3 (ChkSt.reset 2)).scanLen 2) = true ∧
    (checking 0 (ChkSt.reset 2)).scanSpace 2 = 0 ∧ 3 < (checking 4 (ChkSt.reset 2)).scanSpace 2 ∧
    (let s := (checking 2 (ChkSt.reset 2)).setReg64 (pgCHK 2 + 0x70) 0x60000000000
     s.scanSpace 2 = 2 ∧ s.mapTop < s.scanAddr 2 + s.scanLen 2) ∧
    (let s := (checking 1 (ChkSt.reset 2)).setReg64 (pgCHK 2 + 0x70) 0x3FFFFFFE
     s.scanSpace 2 = 1 ∧ 0x40000000 < s.scanAddr 2 + s.scanLen 2) := by decide +kernel

theorem witness_CheckFeedsAndGuards : ((checking 3 ⟨true, true, 32⟩).chkSt 2).scan = true ∧ (checking 3 ⟨true, true, 32⟩).host.linkUp = true ∧
    ((checking 3 ⟨true, true, 32⟩).chkSt 2).finish = true ∧ ((checking 1 ⟨true, false, 32⟩).chkSt 2).finish = false ∧ (checking 1 ⟨true, false, 32⟩).scanSpace 2 ≠ 3 ∧
    ((checking 3 ⟨true, true, 32⟩).chkSt 2).width ≤ 64 ∧ (checking 3 ⟨true, true, 32⟩).regField (pgCHK 2 + 0x40) 10 2 < 3 ∧ (up.chkSt 2).scan = false ∧
    coelRun.busUp = true ∧ coelRun.fab.coel ≠ none ∧ (checking 3 ⟨true, true, 32⟩).busUp = true ∧ (checking 3 ⟨true, true, 32⟩).fab.coel = none ∧ (7#32).toNat % 128 < 8 ∧
    64 < (65#32).toNat % 128 ∧ (0xC20#32).toNat / 1024 % 4 = 3 ∧ 8 ≤ (8#32).toNat % 128 ∧ (64#32).toNat % 128 ≤ 64 ∧ up.chkWidth 2 ≤ 64 := by decide +kernel

/-- R432: the check value of CRC-32C over the nine digits, fed byte by byte and finished. -/
def afterCheck (i : Instr) (s : State) : State :=
  match exec i s with
  | .next t => t
  | _ => State.reset

theorem test_crc32c_check : ((([0x31, 0x32, 0x33, 0x34, 0x35, 0x36, 0x37, 0x38, 0x39].foldl (fun s b => afterCheck (.chkData8 1 (BitVec.ofNat 32 b)) s)
    (afterCheck (.init 1 1#32) up)) |> afterCheck (.finish 1 4#32)).reg64 (pgCHK 1 + 0x68)) = 0xE3069283 := by decide +kernel

theorem test_unit0_owned : (match exec (.chkData32 0 5#32) up with
    | .next t => decide (bitAt (t.reg (pgCHK 0 + 0x10)) 4 = true ∧ t.reg64 (pgCHK 0 + 0x60) = up.reg64 (pgCHK 0 + 0x60))
    | _ => false) = true := by decide +kernel

theorem witness_Granules : up.busUp = true ∧ armed.busUp = true ∧ armed.anyArmed = true ∧ up.anyArmed = false ∧ up.safe ∧ (up.rsv.flush.any (·.1 = 0)) = false ∧
    (({ up with rsv := { RsvSt.reset with flush := [(0, 1)] } } : State).rsv.flush.any (·.1 = 0)) = true ∧ bitAt 0 3 = bitAt 0x77 3 ∧ bitAt 0 2 ≠ bitAt 0x77 2 := by decide +kernel

/-- Granule 0 becomes a scratchpad: its bytes read 0. -/
theorem test_granule_apply : (match exec (.granuleCfgApply 0) ({ up with rsv := { RsvSt.reset with flush := [(0, 1)], mem := [(5, 9#8), (0x2000000, 8#8)] } }.setReg (pgRSV 0 + 0x40) 1) with
    | .next t => decide (t.rsv.mem = [(0x2000000, 8#8)] ∧ t.rsv.acting.get 0 0 = 1)
    | _ => false) = true := by decide +kernel

def logged (q : List (Nat × List Byte)) (tries : Nat) : State := { up with log := ⟨[], q, tries⟩ }

theorem witness_LogbookWrites : (logSlots 5).isSome = true ∧ up.sys.pstate < 3 ∧ up.sys.mrstLow = false ∧ (logSlots 0xFFFF).isSome = false ∧ 3 ≤ dark.sys.pstate ∧ up.log.queue = [] ∧
    (logged [(5, [1#8])] 0).safe ∧ (∃ base size n, logSlots 5 = some (base, size, n) ∧ (∃ slot tb, (logged [(5, [1#8])] 0).logTarget 5 = (slot, tb, size)) ∧ 1 + 0x14 ≤ size) ∧
    (logged [(5, [1#8])] 1).log.tries < 2 ∧ 2 ≤ (logged [(5, [1#8])] 2).log.tries ∧ (logged [(5, [1#8])] 0).logWin 5 = none :=
  ⟨by decide +kernel, by decide +kernel, by decide +kernel, by decide +kernel, by decide +kernel, rfl, by decide +kernel, ⟨_, _, _, rfl, ⟨_, _, rfl⟩, by decide⟩, by decide +kernel,
   by decide +kernel, by decide +kernel⟩

def holding (due : List Nat) : State := { up with host := { up.host with msixHold := [70], msixDue := due, msixPend := [3], fails := [(4, 3)] } }

theorem witness_HostEndpoint : up.host.fails.get 0 4 < 3 ∧ 3 ≤ (holding []).host.fails.get 0 4 ∧ (holding []).host.msixHold.contains 3 = false ∧ (holding []).host.msixHold.contains 70 = true ∧
    (holding []).host.msixDue.contains 70 = false ∧ (holding [70]).host.msixDue.contains 70 = true ∧ up.busUp = true ∧ up.host.linkUp = true ∧ up.ready = true ∧
    (booting 6).host.linkUp = false ∧ ({ booting 6 with host := up.host } : State).ready = false ∧ armed.anyArmed = true ∧ armed.safe ∧ up.safe ∧ up.anyArmed = false ∧
    up.reg64 (pgHST + 0x44) + 0x1000 + 2 ≤ up.mapTop ∧ up.stk.remap = [] ∧ (∀ i, i < 2 → up.stkFenced (0x1000 + i) = false) := by decide +kernel

/-- The window of BAR2 over the Catalogue's master copy. -/
theorem witness_HostEndpoint_catalogue : (let s := up.setReg64 (pgHST + 0x44) up.privBase
    s.busUp = true ∧ s.anyArmed = false ∧ s.reg64 (pgHST + 0x44) + 0 + 2 ≤ s.mapTop ∧ s.stk.remap = [] ∧
    ∀ i, i < 2 → s.stkFenced (s.reg64 (pgHST + 0x44) + i) = false ∧ s.catHas (s.reg64 (pgHST + 0x44) + i) = true) := by decide +kernel

theorem test_bar2_armed : exec (.bar2Write 0x1000 [5#8]) armed = .next (armed.wake.setReg (pgHST + 0x1C) 1) := rfl

theorem test_bar2_write : (match exec (.bar2Write 0x1000 [5#8, 6#8]) up with
    | .next t => decide (t.stk.mem = [(0x1000, 5#8), (0x1001, 6#8)])
    | _ => false) = true := by decide +kernel

/-! Ephemeris lines: tile 0 of die 0 runs lines of context train. -/

/-- A line (R243). -/
def lineWord (op ctl : Nat) (d : List Nat) (refs : List Nat := []) (pcost : Nat := 0) (flags : Nat := 0) : BitVec 256 :=
  BitVec.ofNat 256 (op + flags * 2 ^ 8 + ctl * 2 ^ 16 +
    (((List.range 4).map fun i => nth 0xFFFF i d * 2 ^ (80 + 16 * i)).sum) + (((List.range 8).map fun i => nth 0 i refs * 2 ^ (144 + 10 * i)).sum) + pcost * 2 ^ 224)

/-- Step 6 in its first attempt. -/
def run6 : StepRun := { stepStarted 7 (entryPayload stepEntry) [⟨128, 0, 0x11000, 64⟩] with ownShard := some zero32 }

/-- Context train runs; tile 0 holds the lines, and its sequencer stands at the first. -/
def lineState (ls : List (BitVec 256)) (y : TileCtx := TileCtx.reset) (r : List Running := []) (cat : Tbl (BitVec 512) := []) : State :=
  { up with cx := [{ cxIn .running with run := some run6 }, CtxSt.reset, CtxSt.reset, CtxSt.reset], catalogue := cat,
            tiles := [(0, { TileSt.reset with mem := [(0x40, 7#8)], eph := (List.range ls.length).zip ls, running := r, cx := [y, TileCtx.reset, TileCtx.reset, TileCtx.reset] })] }

def tile0 : TileId := ⟨0, 0⟩

/-- Token 3 holds 2; a line issued before has yet to post it. -/
def tokens3 : TileCtx := { TileCtx.reset with issued := 1, tokens := [(3, 2)], barriers := [(4, 1)], openPosts := [(1, 3)] }
/-- Waits for token 3 and barrier 4, posts token 3 and barrier 5. -/
def refs3 : List Nat := [256 + 3, 512 + 4, 0, 0, 256 + 3, 512 + 5]

theorem witness_InstantLines :
    ([(Instr.nop tile0 .train, 0, 0), (.loop tile0 .train, 1, 1 + 2 ^ 14 * 2), (.qwin tile0 .train, 2, 0x101), (.stepend tile0 .train, 3, 0)].all fun e =>
      let s := lineState [lineWord e.2.1 e.2.2 [] refs3] tokens3
      decide (s.safe ∧ issueOf e.1 = some (tile0, .train, e.2.1) ∧ s.issues tile0 .train 0 e.2.1 ∧ (∀ o ∈ (s.tctx 0 .train).openPosts, o.1 ≤ (s.tctx 0 .train).issued) ∧
        (∀ o ∈ (s.tctx 0 .train).heldPosts, False))) = true := by decide +kernel

theorem test_nop_holds_post : (match exec (.nop tile0 .train) (lineState [lineWord 0 0 [] refs3] tokens3) with
    | .next t => decide ((t.tctx 0 .train).tokens.get 0 3 = 1 ∧ (t.tctx 0 .train).heldPosts = [(2, 3)] ∧ (t.tctx 0 .train).posted.get 0 5 = 1)
    | _ => false) = true := by decide +kernel

theorem test_stepend_posts_step : (match exec (.stepend tile0 .train) (lineState [lineWord 3 0 []]) with
    | .next t => decide ((t.tctx 0 .train).posted.get 0 241 = 1 ∧ (t.tctx 0 .train).ended = true)
    | _ => false) = true := by decide +kernel

/-- A line of a context in flight. -/
def flying (c : Ctx) (no : Nat) (u : Unit') : Running :=
  { ctx := c, line := 0, iter := 0, no := no, unit := u, opcode := 0x31, d := [1, 2, 0xFFFF, 0xFFFF], reads := [], writes := [regKey 0], wbits := [256 * regKey 0 + 255], posts := [256 + 3, 512 + 5],
    remote := none, pcost := 0, lclass := 0, arrays := 1, banks := [0], release := false, flags := ⟨[⟨1, 2, 3⟩], [1], [2]⟩, arb := none, blocks := [0], trim := [],
    waitPlan := none, sent := [] }

/-- Tensor 1: FP32, 4 elements, tile store at 0x40; tensor 2 at 0x80. -/
def cat12 : Tbl (BitVec 512) := [(1, descWord 9 2 0 0x40 4), (2, descWord 9 2 0 0x80 4)]
def vldLine (refs : List Nat := []) (pcost : Nat := 0) : BitVec 256 := lineWord 0x31 0 [1] refs pcost

/-- The parts of the stall conditions of HeadStalls. -/
def stalls (s : State) (op : Nat) : List Bool :=
  let x := s.lctx 0 .train
  let f := s.fxOf x
  let l := s.headLine 0 .train
  [decide (s.seqLine 0 .train = true ∧ s.islandStopped 0 = false ∧ l.op = op), s.prioStall 0 .train,
    l.waits.all fun r => decide (refKind r = 1 ∨ refKind r = 2 → timesIn r l.waits ≤ (s.tctx 0 .train).count r), s.interlocked x f, s.unitBusy x f,
    decide (l.fence = true ∧ s.mine 0 .train ≠ []), decide (l.pcost = 0 ∨ s.ledger 0 + l.pcost ≤ s.tokensOf 0)]

theorem witness_HeadStalls_issue :
    stalls (lineState [lineWord 0 0 []] TileCtx.reset [flying .eval 1 .vec]) 0 = [true, true, true, false, false, false, true] ∧
    stalls (lineState [lineWord 0 0 [] [256 + 3]]) 0 = [true, false, false, false, false, false, true] ∧
    stalls (lineState [vldLine] TileCtx.reset [flying .train 1 .porter] cat12) 0x31 = [true, false, true, true, false, false, true] ∧
    stalls (lineState [vldLine] TileCtx.reset [{ flying .train 1 .vec with writes := [], wbits := [] }] cat12) 0x31 = [true, false, true, false, true, false, true] := by
  decide +kernel
theorem witness_HeadStalls_power :
    stalls (lineState [lineWord 0 0 [] [] 0 4] TileCtx.reset [flying .train 1 .vec]) 0 = [true, false, true, false, false, true, true] ∧
    stalls (lineState [lineWord 0 0 [] [] 0x800 4] TileCtx.reset [flying .train 1 .vec]) 0 = [true, false, true, false, false, true, false] ∧
    stalls (lineState [lineWord 0 0 [] [] 0x800]) 0 = [true, false, true, false, false, false, false] ∧
    (let s := lineState [lineWord 0 0 [] [] 0x800]; s.granted (s.lctx 0 .train)) = false ∧
    up.seqActive 0 .train = false ∧ (lineState []).physOf tile0 = some 0 ∧ up.physOf ⟨0, 63⟩ = none := by decide +kernel

theorem test_power_request : (match exec (.nop tile0 .train) (lineState [lineWord 0 0 [] [] 0x800]) with
    | .next t => decide ((t.die 0).powerQ = [(0, .train)] ∧ t.reg (tilCtx 0 0 .train 0x20) = 1 ∧ (t.tctx 0 .train).line = 0)
    | _ => false) = true := by decide +kernel

theorem test_eph_stall : (match exec (.ephStall tile0 .train) (lineState [lineWord 0 0 [] [256 + 3]]) with
    | .next t => decide ((t.cxt .train).state = .aborting ∧ ((t.cxt .train).run.map (·.faultCode)) = some 0x0806)
    | _ => false) = true := by decide +kernel

theorem get_unlisted {α : Type} (d : α) (k : Nat) (t : Tbl α) (h : ∀ e ∈ t, e.1 ≠ k) : Tbl.get d k t = d := by
  induction t with
  | nil => rfl
  | cons e t ih =>
    have he : k ≠ e.1 := fun q => h e (by simp) q.symm
    simp only [Tbl.get, he, if_false]
    exact ih fun x hx => h x (by simp [hx])

theorem inject_reset (p : Nat) (hp : p % 0x1000 = 0) : regReset (p + 0x18) = 0 ∨ regReset (p + 0x18) = 0x1000 := by
  have ho : addrOff (p + 0x18) = 0x18 := by simp only [addrOff]; omega
  have h8 : (p + 0x18) % 16 = 8 := by omega
  unfold regReset
  split
  · rename_i r hr
    unfold regRow at hr
    rw [ho, h8] at hr
    split at hr
    · cases hr; left; rfl
    · split at hr
      · cases hr
      · dsimp only at hr
        split at hr
        · cases hr
        · right
          simp [headerRow] at hr
          rw [← hr]
  · left; rfl

/-- INJECT of every page is off where no register of that offset has been written. -/
theorem noInjection_of {s : State} (h : (s.regs.all fun e => e.1 % 0x1000 != 0x18) = true) : s.noInjection := by
  intro p hp
  have hg : s.reg (p + 0x18) = (BitVec.ofNat 32 (regReset (p + 0x18))).toNat := by
    unfold State.reg
    rw [get_unlisted]
    intro e he hk
    have := List.all_eq_true.1 h e he
    simp only [bne_iff_ne, ne_eq] at this
    omega
  rw [hg]
  rcases inject_reset p hp with e | e <;> rw [e] <;> decide

/-- The hypotheses that LinesRun and LineEffects share, but for the injections. -/
def runs (s : State) (i : Instr) (op : Nat) : Bool :=
  let x := s.lctx 0 .train
  let f := s.fxOf x
  let v := s.lineReads f.reads []
  let u := v.takeHead x f
  let g := u.fxOf x
  decide (s.safe ∧ issueOf i = some (tile0, .train, op) ∧ cleanLine i = true ∧ s.issues tile0 .train 0 op ∧ f.fault = none ∧
    v.hits (v.fxOf x) = [] ∧ u.hits g = [] ∧ g.fault = none ∧ g.mis [] (u.dropCopies .train g.writeKeys) = none)

def pmovState : State := lineState [lineWord 0x10 0 [1, 2] [0, 0, 0, 0, 256 + 9]] TileCtx.reset [] cat12
/-- ALD of one bank of array 0: a weight of 4 columns and 2 rows, BF16. -/
def aldState : State := lineState [lineWord 0x20 1 [1]] TileCtx.reset [] [(1, descWord 7 2 0 0x40 4 + 2 ^ 160)]
/-- AOSP of a profile of 32 bytes. -/
def aospState : State := lineState [lineWord 0x21 2 [1]] TileCtx.reset [] [(1, descWord 0xC 0 0 0x40 32)]
def vldState : State := lineState [vldLine] TileCtx.reset [] cat12
/-- CSEND under plan 3. -/
def csendState : State := lineState [lineWord 0x40 3 [1]] TileCtx.reset [] cat12

theorem witness_LinesRun : pmovState.noInjection ∧ runs pmovState (.pmov tile0 .train []) 0x10 = true ∧
    runs vldState (.vld tile0 .train []) 0x31 = true ∧
    (let s := lineState [lineWord 0x22 1 [1, 2]] TileCtx.reset [] cat12
     decide (s.issues tile0 .train 0 0x22) && decide ((s.fxOf (s.lctx 0 .train)).fault.map (·.code) = some 0x0233)) = true :=
  ⟨noInjection_of rfl, by decide +kernel, by decide +kernel, by decide +kernel⟩

theorem pmov_shapes : (let x := pmovState.lctx 0 .train
    let u := (pmovState.lineReads (pmovState.fxOf x).reads []).takeHead x (pmovState.fxOf x)
    pmovState.stk.remap = [] ∧ pmovState.shapesAgree x (u.fxOf x)) :=
  ⟨rfl, by decide +kernel, by decide +kernel, fun h => absurd h (by decide +kernel), fun h => absurd h (by decide +kernel),
    by decide +kernel, by decide +kernel, by decide +kernel, by decide +kernel⟩

theorem witness_LineEffects : runs pmovState (.pmov tile0 .train []) 0x10 = true ∧ aldState.noInjection ∧ runs aldState (.ald tile0 .train []) 0x20 = true ∧
    runs aospState (.aosp tile0 .train []) 0x21 = true ∧ runs vldState (.vld tile0 .train []) 0x31 = true ∧
    runs csendState (.csend tile0 .train []) 0x40 = true ∧ (csendState.cxt .train).run = some run6 :=
  ⟨by decide +kernel, noInjection_of rfl, by decide +kernel, by decide +kernel, by decide +kernel, by decide +kernel, rfl⟩

theorem test_pmov : (match exec (.pmov tile0 .train []) pmovState with
    | .next t => decide ((t.tile 0).mem.readN 0x80 4 = [7#8, 0#8, 0#8, 0#8] ∧ (t.tctx 0 .train).openPosts = [(1, 9)] ∧ ((t.tile 0).running.map (·.unit)) = [.porter])
    | _ => false) = true := by decide +kernel

theorem test_vld : (match exec (.vld tile0 .train []) { vldState with tiles := vldState.tiles.map fun e => (e.1, { e.2 with mem := Mem.writeN [] 0x40 (bytesLE 4 0x3F800000) }) } with
    | .next t => decide (vregEl false (t.vreg 0 .train 0) 0 = 0x3F800000 ∧ vregEl false (t.vreg 0 .train 0) 5 = 0)
    | _ => false) = true := by decide +kernel

theorem test_ald : (match exec (.ald tile0 .train []) { aldState with tiles := aldState.tiles.map fun e => (e.1, { e.2 with mem := Mem.writeN [] 0x40 (bytesLE 2 0x3F80) }) } with
    | .next t => decide (nth 9 0 (nth [] 0 ((t.tile 0).bank 0).cols) = 0x3F80 ∧ ((t.tile 0).bank 0).tag = some ⟨.train, 0, 1, 0, 0, 0, false, 0, 2⟩)
    | _ => false) = true := by decide +kernel


/-! A load that every check accepts: one rank, no tensor, the line STEPEND alone on each tile (R529, R530). -/

/-- The image as a number. -/
def imgN : Nat := 0xffffffffffffffff000000000000000000030000000000000c700000000100002d030000000000000c700000000100002c030000000000000c700000000100002b030000000000000c700000000100002a030000000000000c7000000001000029030000000000000c7000000001000028030000000000000c7000000001000027030000000000000c7000000001000026030000000000000c7000000001000025030000000000000c7000000001000024030000000000000c7000000001000023030000000000000c7000000001000022030000000000000c7000000001000021030000000000000c7000000001000020030000000000000c700000000100001f030000000000000c700000000100001e030000000000000c700000000100001d030000000000000c700000000100001c030000000000000c700000000100001b030000000000000c700000000100001a030000000000000c7000000001000019030000000000000c7000000001000018030000000000000c7000000001000017030000000000000c7000000001000016030000000000000c7000000001000015030000000000000c7000000001000014030000000000000c7000000001000013030000000000000c7000000001000012030000000000000c7000000001000011030000000000000c7000000001000010030000000000000c700000000100000f030000000000000c700000000100000e030000000000000c700000000100000d030000000000000c700000000100000c030000000000000c700000000100000b030000000000000c700000000100000a030000000000000c7000000001000009030000000000000c7000000001000008030000000000000c7000000001000007030000000000000c7000000001000006030000000000000c7000000001000005030000000000000c7000000001000004030000000000000c7000000001000003030000000000000c7000000001000002030000000000000c7000000001000001030000000000000c7000000001000000030000000000000c700000000100002d020000000000000c700000000100002c020000000000000c700000000100002b020000000000000c700000000100002a020000000000000c7000000001000029020000000000000c7000000001000028020000000000000c7000000001000027020000000000000c7000000001000026020000000000000c7000000001000025020000000000000c7000000001000024020000000000000c7000000001000023020000000000000c7000000001000022020000000000000c7000000001000021020000000000000c7000000001000020020000000000000c700000000100001f020000000000000c700000000100001e020000000000000c700000000100001d020000000000000c700000000100001c020000000000000c700000000100001b020000000000000c700000000100001a020000000000000c7000000001000019020000000000000c7000000001000018020000000000000c7000000001000017020000000000000c7000000001000016020000000000000c7000000001000015020000000000000c7000000001000014020000000000000c7000000001000013020000000000000c7000000001000012020000000000000c7000000001000011020000000000000c7000000001000010020000000000000c700000000100000f020000000000000c700000000100000e020000000000000c700000000100000d020000000000000c700000000100000c020000000000000c700000000100000b020000000000000c700000000100000a020000000000000c7000000001000009020000000000000c7000000001000008020000000000000c7000000001000007020000000000000c7000000001000006020000000000000c7000000001000005020000000000000c7000000001000004020000000000000c7000000001000003020000000000000c7000000001000002020000000000000c7000000001000001020000000000000c7000000001000000020000000000000c700000000100002d010000000000000c700000000100002c010000000000000c700000000100002b010000000000000c700000000100002a010000000000000c7000000001000029010000000000000c7000000001000028010000000000000c7000000001000027010000000000000c7000000001000026010000000000000c7000000001000025010000000000000c7000000001000024010000000000000c7000000001000023010000000000000c7000000001000022010000000000000c7000000001000021010000000000000c7000000001000020010000000000000c700000000100001f010000000000000c700000000100001e010000000000000c700000000100001d010000000000000c700000000100001c010000000000000c700000000100001b010000000000000c700000000100001a010000000000000c7000000001000019010000000000000c7000000001000018010000000000000c7000000001000017010000000000000c7000000001000016010000000000000c7000000001000015010000000000000c7000000001000014010000000000000c7000000001000013010000000000000c7000000001000012010000000000000c7000000001000011010000000000000c7000000001000010010000000000000c700000000100000f010000000000000c700000000100000e010000000000000c700000000100000d010000000000000c700000000100000c010000000000000c700000000100000b010000000000000c700000000100000a010000000000000c7000000001000009010000000000000c7000000001000008010000000000000c7000000001000007010000000000000c7000000001000006010000000000000c7000000001000005010000000000000c7000000001000004010000000000000c7000000001000003010000000000000c7000000001000002010000000000000c7000000001000001010000000000000c7000000001000000010000000000000c700000000100002d000000000000000c700000000100002c000000000000000c700000000100002b000000000000000c700000000100002a000000000000000c7000000001000029000000000000000c7000000001000028000000000000000c7000000001000027000000000000000c7000000001000026000000000000000c7000000001000025000000000000000c7000000001000024000000000000000c7000000001000023000000000000000c7000000001000022000000000000000c7000000001000021000000000000000c7000000001000020000000000000000c700000000100001f000000000000000c700000000100001e000000000000000c700000000100001d000000000000000c700000000100001c000000000000000c700000000100001b000000000000000c700000000100001a000000000000000c7000000001000019000000000000000c7000000001000018000000000000000c7000000001000017000000000000000c7000000001000016000000000000000c7000000001000015000000000000000c7000000001000014000000000000000c7000000001000013000000000000000c7000000001000012000000000000000c7000000001000011000000000000000c7000000001000010000000000000000c700000000100000f000000000000000c700000000100000e000000000000000c700000000100000d000000000000000c700000000100000c000000000000000c700000000100000b000000000000000c700000000100000a000000000000000c7000000001000009000000000000000c7000000001000008000000000000000c7000000001000007000000000000000c7000000001000006000000000000000c7000000001000005000000000000000c7000000001000004000000000000000c7000000001000003000000000000000c7000000001000002000000000000000c7000000001000001000000000000000c7000000001000000000000000000000000000000000000000000000000000000000000000000000000000000000000000000000000000000000000000000000000000000000000000000000000000000b0000000000000010700000000000000b0000000000000010600000000000000b0000000000000010500000000000000f0000000b80000010400000000000000b0000000000000010300000000000000b0000000000000010200000000000000b00000000100000101000000000000000000000000000000000000000000000000000000000000000000000000000000000000000000000c9000000000000000070000000000000001
def img : List Byte := bytesLE 3216 imgN
theorem img_lt : imgN < 256 ^ 3216 := by decide +kernel
theorem img_len : img.length = 3216 := bytesLE_length _ _
theorem img_field (o k : Nat) : bField img o k = imgN / 256 ^ o % 256 ^ k := bField_bytesLE _ _ _ _ img_lt
theorem img_zeros (o k : Nat) : zeros ((img.drop o).take k) = decide (imgN / 256 ^ o % 256 ^ k = 0) := by
  rw [zeros_eq]; exact congrArg (fun n => decide (n = 0)) (img_field o k)
theorem eph_eq : ((entries img imgSizes 0x104).map fun o =>
      (bField img o 1, bField img (o + 1) 1,
       (List.range (bField img (o + 4) 4)).map fun i => bField img (bField img (o + 8) 8 + 32 * i) 32)) = tileKeys.map fun k => (k / 64, k % 64, [(lineWord 3 0 []).toNat]) := by
  simp only [entries, sect, sectsOf, img_field]
  decide +kernel
theorem ib : imageBad img = none := by
  unfold imageBad headerBad tableBad headSpan Sect.span dataBad barriersBad barrierBad boundBad ephBad splitBad splitBounds entries sect sectsOf
  simp only [img_field, img_zeros, img_len]
  decide +kernel

def imgMan : List Byte := man0.take 96 ++ sha3 img
/-- What a load reads of a manifest does not depend on the digest that it lists. -/
theorem man_of (d : List Byte) (h : d.length = 32) : let m := man0.take 96 ++ d
    manifestBad m = none ∧ bField m 4 4 = 1 ∧ digestOf m 0 = d ∧ bField m 12 4 = 0 ∧ entries m manSizes 2 = [] := by
  intro m
  have len : m.length = 128 := by simp only [m, List.length_append, h]; decide +kernel
  have f (o k n : Nat) (hb : o + k ≤ 96) (e : bField (man0.take 96) o k = n) : bField m o k = n := (bField_left _ _ _ _ (by exact hb)).trans e
  have z : zeros ((m.drop 0x18).take 40) = true := by
    simp only [m]
    rw [List.drop_append_of_le_length (by decide +kernel), List.take_append_of_le_length (by decide +kernel)]
    decide +kernel
  have f0 := f 0 4 1 (by decide) (by decide +kernel)
  have f4 := f 4 4 1 (by decide) (by decide +kernel)
  have f8 := f 8 4 2 (by decide) (by decide +kernel)
  have fC := f 12 4 0 (by decide) (by decide +kernel)
  have f10 := f 16 8 128 (by decide) (by decide +kernel)
  have ss : sectsOf m = [⟨1, 1, 96, 64⟩, ⟨2, 0, 96, 80⟩] := by
    unfold sectsOf
    rw [f8]
    simp only [List.range, List.range.loop, List.map]
    rw [f _ _ 1 (by decide) (by decide +kernel), f _ _ 1 (by decide) (by decide +kernel), f _ _ 96 (by decide) (by decide +kernel),
      f _ _ 2 (by decide) (by decide +kernel), f _ _ 0 (by decide) (by decide +kernel), f _ _ 96 (by decide) (by decide +kernel)]
  have en : entries m manSizes 2 = [] := by unfold entries sect; rw [ss]; rfl
  have g1 := f 66 2 0 (by decide) (by decide +kernel)
  have g2 := f 82 2 0 (by decide) (by decide +kernel)
  refine ⟨?_, f4, ?_, fC, en⟩
  · have hb : headerBad m (fun n => decide (1 ≤ n) && decide (n ≤ 16384)) 1 = none := by
      unfold headerBad; rw [f0, f4, f8, fC, f10, z, len]; rfl
    have tb : tableBad m manSizes (fun ty => if ty = 1 then some (bField m 4 4) else none) = none := by
      unfold tableBad headSpan; rw [ss]
      simp only [len, f4, f8, List.length_cons, List.length_nil, List.range, List.range.loop, List.zip, List.zipWith, List.findSome?_cons, List.findSome?_nil, g1, g2]
      decide +kernel
    unfold manifestBad
    rw [hb, tb]
    show topoBad m = none
    unfold topoBad
    rw [en]; rfl
  · unfold digestOf sect; rw [ss]
    show (m.drop 96).take 32 = d
    simp only [m]
    rw [List.drop_left' (by decide +kernel), List.take_of_length_le (by omega)]
def goodEntry : List Byte := loadEntry 128 3216
/-- A region of one line on every C-die. -/
def roomy (s : State) : State :=
  { s with regs := [(pgEPH 3 + 0x44, 1#32), (pgEPH 2 + 0x44, 1#32), (pgEPH 1 + 0x44, 1#32), (pgEPH 0 + 0x44, 1#32)] ++ bases }
def goodLoad : State := roomy (loading imgMan img goodEntry)
def goodW : State := ((((goodLoad.popHead .train).clearMeas 4).remapRetired).countPerms 0 (sha3Perms 128)).countPerms 1 (sha3Perms 3216)
/-- The image as the checker reads it. -/
def goodImage : Image :=
  { n := 1, gate := false, digest := sha3 imgMan, topo := [], stackEnd := 0, granules := 0, winBytes := 0, pcostMax := [0, 0, 0, 0], cat := [], data := [],
    eph := tileKeys.map fun k => (k / 64, k % 64, [(lineWord 3 0 []).toNat]), buckets := [], splitk := [], barriers := [] }
theorem good_bind : goodW.inInput .train 0x12000 2 = true ∧ goodW.bindBad .train goodImage = none := by decide +kernel
theorem good_check : (goodW.measure 4 16 goodImage.digest).check .train goodImage 0 [0] = none := by decide +kernel
theorem img_man : manifestBad imgMan = none ∧ bField imgMan 4 4 = 1 ∧ digestOf imgMan 0 = sha3 img ∧ bField imgMan 12 4 = 0 ∧
    entries imgMan manSizes 2 = [] := man_of _ (sha3_length _)
theorem good_image : Image.of imgMan img = goodImage := by
  unfold Image.of goodImage
  rw [eph_eq, img_man.2.1, img_man.2.2.2.1, img_man.2.2.2.2]
  unfold entries sect sectsOf
  simp only [img_field]
  rfl
theorem imgMan_length : imgMan.length = 128 := by unfold imgMan; rw [List.length_append, sha3_length]; decide +kernel
theorem roomy_head (m g e : List Byte) (h : e.length = 128) (_hm : m.length ≤ 0x1000) : (roomy (loading m g e)).headEntry .train = some e := by
  have w1 : (Mem.writeN [] 0x1000 e).wf = true := Mem.writeN_wf _ _ rfl
  have w2 := Mem.writeN_wf 0x10000 m w1
  show some (Mem.readN (Mem.writeN (Mem.writeN (Mem.writeN [] 0x1000 e) 0x10000 m) 0x11000 g) 0x1000 128) = some e
  rw [Mem.readN_apart _ _ _ g w2 (.inr (by omega)), Mem.readN_apart _ _ _ m w1 (.inr (by omega)), ← h, Mem.readN_writeN _ _ rfl]
theorem roomy_loaded (m g e : List Byte) : loaded (roomy (loading m g e)) e = loaded (loading m g e) e := rfl
theorem good_loaded : loaded goodLoad goodEntry = (imgMan, img) :=
  (roomy_loaded _ _ _).trans (loaded_eq imgMan img goodEntry (by rw [imgMan_length]; decide) (by rw [imgMan_length, img_len]; decide +kernel))
theorem roomy_in (m g : List Byte) (a n : Nat) : ((roomy (loading m g goodEntry)).popHead .train).inInput .train a n = inRange 0x10000 0x10000 a n := by
  have h1 : ((roomy (loading m g goodEntry)).popHead .train).inBase .train = 0x10000 := by
    show (roomy up).inBase .train = _
    decide +kernel
  have h2 : ((roomy (loading m g goodEntry)).popHead .train).inSize .train = 0x10000 := by
    show (roomy up).inSize .train = _
    decide +kernel
  unfold State.inInput
  rw [h1, h2]
theorem good_ok (m g : List Byte) (hm : m.length ≤ 0x1000) : loadOk (roomy (loading m g goodEntry)) goodEntry = true := by
  unfold loadOk
  rw [decide_eq_true_eq]
  refine ⟨⟨roomy_head _ _ _ (by decide +kernel) hm, rfl, by decide +kernel, by decide +kernel⟩, rfl, by decide +kernel, by decide +kernel, ?_, ?_⟩
  · rw [roomy_in]; decide +kernel
  · rw [roomy_in]; decide +kernel
theorem witness_ProgramLoad_accepted : loadOk goodLoad goodEntry = true ∧ loaded goodLoad goodEntry = (imgMan, img) ∧ manifestBad imgMan = none ∧
    imageBad img = none ∧ 0 < bField imgMan 4 4 ∧ bField img 4 4 = 0 ∧ sha3 img = digestOf imgMan 0 ∧ goodW.inInput .train 0x12000 2 = true ∧
    goodW.bindBad .train (Image.of imgMan img) = none ∧
    (goodW.measure 4 16 (Image.of imgMan img).digest).check .train (Image.of imgMan img) 0 [0] = none := by
  refine ⟨good_ok _ _ (by rw [imgMan_length]; decide), good_loaded, img_man.1, ib, ?_, ?_, img_man.2.2.1.symm, good_bind.1, ?_, ?_⟩
  · rw [img_man.2.1]; decide
  · rw [img_field]; decide +kernel
  · rw [good_image]; exact good_bind.2
  · rw [good_image]; exact good_check
/-! Ends of lines, passes, helpers, the Collimator. -/

def tile1 : TileId := ⟨0, 1⟩

/-- Tile 0 with one line of context train in flight, which posts token 3 of tile 1. -/
def vecLine : Running := { flying .train 1 .vec with posts := [512 + 5], remote := some (1, 3), release := true }
def vecRuns : State := lineState [] { TileCtx.reset with issued := 1, openPosts := [(1, 2 * 256 + 3)], held := [(0, 1)] } [vecLine]
/-- The same with a post on its own tile. -/
def ownPost : State := lineState [] { TileCtx.reset with issued := 1, openPosts := [(1, 3)] } [flying .train 1 .vec]

/-- The hypotheses on a line in flight and its completion, and what lineDone's own clauses ask. -/
def ends (s : State) (r : Running) (tc : Nat) : List Bool :=
  let x := s.tctx 0 .train
  let ready := x.heldPosts ++ x.openPosts.filter fun e => e.1 = r.no
  [decide (s.safe ∧ s.physOf tile0 = some 0 ∧ s.islandStopped 0 = false ∧ (∀ e ∈ r.sent, e.1 < 12 ∧ e.2 ≤ (s.port e.1).ownAck) ∧ ((s.cxt .train).run.any (·.replaying)) = false ∧ (s.cxt .train).state ≠ .attesting ∧
     ((s.mine 0 .train).filter fun q => decide (q.line = r.line ∧ q.iter = r.iter)) = [r]),
   decide (∀ e ∈ ready, e.2 < 256), decide (∃ e ∈ ready, ready = [e] ∧ 256 ≤ e.2 ∧ s.physOf ⟨(e.2 / 256 - 1) / 64, (e.2 / 256 - 1) % 64⟩ = some 1),
   decide (2 ^ (r.lclass + 3) < tc), bitAt (s.reg (tilCtx 0 0 .train 0x38)) 31]

/-- PSEND in flight, whose receiver has yet to acknowledge flit 3 of port 0. -/
def sendLine : Running := { flying .train 1 .hand with opcode := 0x43, sent := [(0, 3)] }

theorem witness_LineEnds_unsent : (let s := lineState [] { TileCtx.reset with issued := 1 } [sendLine]
    decide (s.safe ∧ s.physOf tile0 = some 0 ∧ ((s.mine 0 .train).filter fun q => decide (q.line = 0 ∧ q.iter = 0)) = [sendLine] ∧ (s.port 0).ownAck < 3) &&
      (vecRuns.modTile 0 fun t => { t with settle := true }).islandStopped 0) = true := by decide +kernel

theorem test_psend_waits : (match exec (.lineComplete tile0 .train 0 0 9) (lineState [] { TileCtx.reset with issued := 1 } [sendLine]) with
    | .next t => decide ((t.tile 0).running = [sendLine])
    | _ => false) = true := by decide +kernel

/-- CRECV of plan 4 into tensor 2 in flight. -/
def recvLine : Running := { flying .train 1 .hand with opcode := 0x41, d := [0xFFFF, 2, 0xFFFF, 0xFFFF], waitPlan := some (planKey .train 4) }
def receiving (res : Option (List Byte × List Nat)) : State :=
  { lineState [] { TileCtx.reset with issued := 1 } [recvLine] cat12 with
    fab := { FabSt.reset with plans := [(planKey .train 4, ⟨0, [], [], res⟩)] } }

theorem witness_LineEnds_line : ends vecRuns vecLine 100 = [true, false, true, true, false] ∧ ends ownPost (flying .train 1 .vec) 8 = [true, true, false, false, false] ∧
    ends (ownPost.setReg (tilCtx 0 0 .train 0x38) (2 ^ 31)) (flying .train 1 .vec) 100 = [true, true, false, true, true] ∧
    (ends (receiving none) recvLine 9).head? = some true ∧ (ends (receiving (some ([1#8], []))) recvLine 9).head? = some true ∧
    ((receiving none).planSt .train 4).result = none ∧ ((receiving (some ([1#8], []))).planSt .train 4).result = some ([1#8], []) := by decide +kernel
theorem witness_LineEnds_result : ((receiving none).desc .train 2).planes = 0 ∧ ((receiving none).desc .train 2).space < 2 ∧
    ((List.range 4).all fun a => (List.range 4).all fun b => decide (a ≠ b →
      ∀ p ∈ ((receiving none).desc .train 2).elBytes 0 a, p ∉ ((receiving none).desc .train 2).elBytes 0 b)) = true := by decide +kernel

theorem test_late_line : (match exec (.lineComplete tile0 .train 0 0 100) ownPost with
    | .next t => decide ((t.tctx 0 .train).tokens.get 0 3 = 1 ∧ (t.tctx 0 .train).posted.get 0 5 = 1 ∧ t.reg (tilCtx 0 0 .train 0x30) = 1 ∧
        t.reg (tilCtx 0 0 .train 0x40) = 100 ∧ (t.cxt .train).empty = [2])
    | _ => false) = true := by decide +kernel

def passLine (blocks trim : List Nat) (a : Option Arb := none) : Running := { flying .train 1 .pass with opcode := 0x23, blocks := blocks, trim := trim, arb := a }
def passRuns (r : Running) : State := (lineState [lineWord 0x23 0 [1, 2]] { TileCtx.reset with line := 1, issued := 1 } [r] cat12).modTctx 1 .train fun y => { y with ended := true }
def arb1 (peer : Option Nat) : Arb := ⟨0x0500, peer, 77, 78, 1, false⟩
def helpLine (a : Option Arb) : Running := { passLine [2] [] a with no := 0 }
/-- Tile 1 runs row block 2 of tile 0's pass. -/
def helping (r : Running) (a : Option Arb) : State :=
  (passRuns r).modTile 1 fun t => { t with helping := some (0, 2), running := [helpLine a] }

/-- The hypotheses on a tile that runs a pass. -/
def passOn (s : State) (r : Running) : Bool :=
  decide (s.safe ∧ s.physOf tile0 = some 0 ∧ ((s.cxt .train).run.any (·.replaying)) = false ∧ (s.cxt .train).state ≠ .attesting ∧
    ((s.mine 0 .train).filter fun q => decide (q.unit = .pass)) = [r] ∧ (s.tile 0).helping = none ∧ s.islandStopped 0 = false)

theorem witness_LineEnds_pass : passOn (passRuns (passLine [0] [] (some (arb1 none)))) (passLine [0] [] (some (arb1 none))) = true ∧
    passOn (passRuns (passLine [0] [])) (passLine [0] []) = true ∧ passOn (passRuns (passLine [0, 1] [1])) (passLine [0, 1] [1]) = true ∧
    (let s := passRuns (passLine [0, 1] [1]); ([0, 1].find? fun b => !List.contains [1] b && !(s.helped 0).contains b) = some 0) ∧
    (let s := passRuns (passLine [0] []); ([0].find? fun b => !([] : List Nat).contains b && !(s.helped 0).contains b) = some 0) := by decide +kernel

theorem witness_LineEnds_helper :
    ([(passLine [1, 2] [], none), (passLine [2] [], none), (passLine [1, 2] [], some (arb1 none))].all fun e =>
      let s := helping e.1 e.2
      passOn s e.1 && decide (s.physOf tile1 = some 1 ∧ (s.tile 1).helping = some (0, 2) ∧ s.islandStopped 1 = false ∧
        ((s.tile 1).running.find? fun p => decide (p.ctx = .train ∧ p.no = 0)) = some (helpLine e.2))) = true := by decide +kernel

/-- The run of the last row block on tile 1 finds nothing. -/
def takeClean (s : State) (r : Running) : Bool :=
  let x := s.runCtx 0 1 (some 1) r
  let v := s.lineReads (s.fxOf x).reads []
  let g := v.fxOf x
  decide (x.l.op = 0x23 ∧ v.hits g = [] ∧ g.fault = none ∧ g.mis [] v = none)

theorem witness_LineEnds_take : (let r := passLine [0, 1] [0, 1]
    let s := passRuns r
    s.noInjection ∧ s.physOf tile1 = some 1 ∧ s.passOf 0 .train = some r ∧ ((s.mine 0 .train).filter fun p => decide (p.unit = .pass)) = [r] ∧
      r.trim.getLast? = some 1 ∧ s.canHelp 1 = true ∧ r.pcost = 0 ∧ s.canHelp 0 = false ∧ s.safe ∧ s.anyHalt = false ∧ takeClean s r = true) ∧
    (let r := { passLine [0, 1] [0, 1] with pcost := 0x800 }
     let s := passRuns r
     s.passOf 0 .train = some r ∧ ((s.mine 0 .train).filter fun p => decide (p.unit = .pass)) = [r] ∧ s.tokensOf 0 < s.ledger 0 + r.pcost) :=
  ⟨⟨noInjection_of rfl, by decide +kernel⟩, by decide +kernel⟩

theorem test_trim_take : (match exec (.trimBlockTake tile0 tile1 .train [] 0) (passRuns (passLine [0, 1] [0, 1])) with
    | .next t => decide ((t.tile 1).helping = some (0, 1) ∧ ((t.tile 0).running.map (·.trim)) = [[0]])
    | _ => false) = true := by decide +kernel

/-- AOUT under a profile that scales by 2. -/
def aoutState : State := lineState [lineWord 0x23 0 [1, 2]] { TileCtx.reset with profiles := [(0, BitVec.ofNat 256 (1 + 0x40000000 * 2 ^ 32))] } [] cat12
/-- The tag of an ALD of tensor 1 into bank 0 of array 0. -/
def tag1 : BankTag := ⟨.train, 0, 1, 0, 0, 0, false, 0x3F800000, 2⟩
/-- Tensors: 1 a weight of 4 columns and 2 rows, 2 a raw result, 3 an input row of 2 elements; 1 and 3 in E4M3 at scale 1. -/
def cat8 : Tbl (BitVec 512) :=
  let one : BitVec 512 := BitVec.ofNat 512 (0x3F800000 * 2 ^ 416)
  [(1, descWord 3 2 0 0x40 4 + 2 ^ 160 + one), (2, descWord 9 2 0 0x80 4), (3, descWord 3 2 0 0x60 2 + one)]
/-- The weight of column 0 and k 0 is 1, the input of k 0 is 2. -/
def ammState (r : List Running := []) (y : TileCtx := TileCtx.reset) : State :=
  let s := lineState [lineWord 0x22 1 [3, 2]] { y with loaded := [(0, tag1)], held := [(0, 1)] } r cat8
  (s.modTile 0 fun t => { t with mem := Mem.writeN (Mem.writeN [] 0x40 [0x38#8]) 0x60 [0x40#8] }).fillBank 0 0 tag1
/-- VSMX of tensor 1 into tensor 2, and in place. -/
def vsmxState (out : Nat) : State := lineState [lineWord 0x33 0 [1, out]] TileCtx.reset [] cat12

/-- The hypotheses on a line that issues under upsets, and what its checks report. -/
def checked (s : State) (op : Nat) (ups : List Upset) : Bool × Option Nat :=
  let x := s.lctx 0 .train
  let f := s.fxOf x
  let v := s.lineReads f.reads ups
  let u := v.takeHead x f
  let g := u.fxOf x
  (decide (s.safe ∧ s.issues tile0 .train 0 op ∧ f.fault = none ∧ v.hits (v.fxOf x) = [] ∧ u.hits g = [] ∧ g.fault = none) && ups.all computeUpset,
   (g.mis ups (u.dropCopies .train g.writeKeys)).map (·.code))

/-- A product bit of unit F for element 0. -/
def badF : List Upset := [.unitF 0 0 0x3F800000 0x3F800000 3]

/-- What the check of a vector line reports, whether it may rerun, and the reads of its rerun. -/
def checkedVec (s : State) (again : List Upset) : Bool × Option Nat × Option Nat × Bool × Bool :=
  let x := s.lctx 0 .train
  let f := s.fxOf x
  let u := (s.lineReads f.reads badF).takeHead x f
  let g := u.fxOf x
  let v := u.dropCopies .train g.writeKeys
  ((checked s 0x33 badF).1, (v.vecMis x badF).2.map (·.code), (v.vecMis x again).2.map (·.code), g.replayable, decide (∀ a ∈ g.reads, a.d.space ≠ 3))

/-- Eight runs wait at the Collimator. -/
def full8 (s : State) : State := s.modDie 0 fun d => { d with collQ := List.replicate 8 (5, 3, .train, 1) }

theorem witness_ChecksAndCollimator_issue : checked aoutState 0x23 [.out 0 1 false 4] = (true, some 0x0502) ∧
    checked (full8 aoutState) 0x23 [.out 0 1 false 4] = (true, some 0x0502) ∧ checked ammState 0x22 [.acc 0 0 0 5] = (true, some 0x0501) ∧
    aoutState.noInjection ∧ (aoutState.die 0).collQ.length < 8 ∧ 8 ≤ ((full8 aoutState).die 0).collQ.length :=
  ⟨by decide +kernel, by decide +kernel, by decide +kernel, noInjection_of rfl, by decide +kernel⟩

theorem witness_ChecksAndCollimator_vector : checkedVec (vsmxState 2) [] = (true, some 0x0502, none, true, true) ∧
    checkedVec (vsmxState 2) badF = (true, some 0x0502, some 0x0502, true, true) ∧ checkedVec (vsmxState 1) [] = (true, some 0x0502, none, false, true) := by
  decide +kernel

theorem test_amm : (match exec (.amm tile0 .train [] 0) ammState with
    | .next t => decide ((t.tile 0).mem.readN 0x80 8 = bytesLE 4 0x40000000 ++ bytesLE 4 0 ∧ (t.die 0).collQ = [])
    | _ => false) = true := by decide +kernel

/-- A residue check, a checksum column and a checksum row of an E4M3 pass (R381, R382, R384). -/
theorem test_amm_checks : [[.residue 0 0 0 1], [.cellCol 0 0 0 1], [.cellRow 3 0 1]].map (fun u => (checked ammState 0x22 u).2) =
    [some 0x0501, some 0x0503, some 0x0503] := by decide +kernel

theorem test_aout_arbitration : (match exec (.aout tile0 .train [.out 0 1 false 4] 77) aoutState with
    | .next t => decide ((t.die 0).collQ = [(77, 0, .train, 1)] ∧
        (t.tile 0).running.all (fun r => r.arb.any fun a => decide (a.code = 0x0502 ∧ a.peer = none ∧ a.s1 = a.s2)) = true)
    | _ => false) = true := by decide +kernel

/-- The CRC-64 of 2.0 and three zeros (R387). -/
def sigOk : Nat := 18131228725618069908
def sigBad : Nat := 1765802349754897010

/-- The Collimator holds the pass of tile 0; `bad` tile-store lines are poisoned. -/
def arbRun (peer : Option Nat) (s1 s2 : Nat) : Running :=
  { flying .train 1 .pass with opcode := 0x22, d := [3, 2, 0xFFFF, 0xFFFF], arb := some ⟨0x0501, peer, s1, s2, 1, false⟩ }
def arbitrating (peer : Option Nat) (s1 s2 : Nat) (bad : List Nat := []) : State :=
  ((ammState [arbRun peer s1 s2] { TileCtx.reset with line := 1, issued := 1, ended := true }).modDie 0 fun d => { d with collQ := [(77, 0, .train, 1)] }).modTile
    0 fun t => { t with poison := bad }

/-- The hypotheses on a run that the Collimator decides on: what its checks report, its signature, whether it meets poison. -/
def decides (peer : Option Nat) (s1 s2 : Nat) (ups : List Upset) (bad : List Nat := []) : Option (Bool × Option Nat × Nat × Bool) :=
  let s := arbitrating peer s1 s2 bad
  match s.headArb 0 with
  | none => none
  | some (k, r, a) =>
    let on := a.peer.getD k
    let x := s.runCtx k on none r
    let q := s.modDie 0 fun z => { z with runOn := false }
    let f := q.fxOf x
    let v := q.lineReads f.reads ups
    some (decide (s.safe ∧ k = 0 ∧ r = arbRun peer s1 s2 ∧ (s.cxt .train).run ≠ none ∧ (s.tile 0).helping = none ∧ s.anyHalt = false ∧
        s.islandStopped on = false ∧ s.peerBusy on k = false ∧ (s.role on).state ≠ 3),
      (f.mis ups v).map (·.code), f.sig (f.run ups v).1, decide (v.hits f = []))

/-- Spare tile 46 is the peer. -/
theorem witness_ChecksAndCollimator_decision : (arbitrating none 1 2).noInjection ∧ (arbitrating none 1 2).peerOf 0 = 46 ∧
    decides none 1 2 [] = some (true, none, sigOk, true) ∧ decides none 1 2 [.acc 0 0 0 5] = some (true, some 0x0501, sigBad, true) ∧
    decides (some 46) sigOk 2 [] = some (true, none, sigOk, true) ∧ decides (some 46) 1 sigBad [.acc 0 0 0 5] = some (true, some 0x0501, sigBad, true) ∧
    (decides none 1 2 [] [1]).map (·.2.2.2) = some false :=
  ⟨noInjection_of rfl, by decide +kernel⟩

theorem witness_ChecksAndCollimator_waits : (up.die 0).collQ = [] ∧ ((full8 up).die 0).collQ = (5, 3, .train, 1) :: List.replicate 7 (5, 3, .train, 1) ∧
    (full8 up).headArb 0 = none ∧ ((arbitrating none 1 2).modTile 0 fun t => { t with settle := true }).islandStopped 0 = true ∧
    ((arbitrating (some 46) 1 2).modTile 46 fun t => { t with running := [flying .eval 4 .ald] }).peerBusy 46 0 = true := by decide +kernel

theorem test_peer_agrees : (match exec (.collimatorDecision 0 [] false) (arbitrating (some 46) 1 sigOk) with
    | .next t => decide ((t.role 0).suspect = true ∧ (t.role 0).due = true ∧ (t.die 0).collQ = [] ∧ (t.tile 0).running.all (fun r => r.arb.isNone) = true)
    | _ => false) = true := by decide +kernel

theorem test_peer_disagrees : (match exec (.collimatorDecision 0 [] false) (arbitrating (some 46) 1 2) with
    | .next t => decide ((t.role 0).quarantine = true ∧ (t.cxt .train).state = .aborting ∧ ((t.cxt .train).run.map (·.faultCode)) = some 0x0508)
    | _ => false) = true := by decide +kernel

/-! Steps: batch, seal, attestation, their ends. -/

/-- Context train in a state of its step, with register COL_TREE: bits [3:0] the parent port or 15, [15:4] the children. -/
def stepIn (st : StepState) (tree : Nat) (r : StepRun) (x : CtxSt := cxIn .ready) : State :=
  { up with regs := Tbl.set (pgCOL 0 + 0x44) (BitVec.ofNat 32 tree) bases, cx := [{ x with state := st, run := some r }, CtxSt.reset, CtxSt.reset, CtxSt.reset] }
def aMark : RefusalMark := ⟨0x0806, 1, []⟩
def fresh6 : StepRun := { run6 with ownShard := none }
/-- INPUT tensor 1 in the Reserve, 2 in the store of tile 0. -/
def inputs : State :=
  { stepIn .loading 0xF fresh6 { cxIn .ready with prog := some { prog with names := [(0, [2])] } } with
    catalogue := [(1, descWord 9 2 1 0x1000 4), (2, descWord 9 2 0 0x80 4)] }

theorem witness_BatchAndSeal_load :
    ((inputs.cxt .train).state = .loading ∧ (inputs.cxt .train).run = some fresh6 ∧ fresh6.ownShard = none ∧ fresh6.refusal = none ∧ inputs.host.linkUp = true) ∧
    inputs.safe ∧ (inputs.desc .train 1).space = 1 ∧ 0 < (inputs.desc .train 1).footLen ∧ (inputs.desc .train 2).space = 0 ∧ inputs.holders .train 2 = [0] ∧
    0 < (inputs.desc .train 2).footLen ∧ (stepIn .running 0xF run6).safe ∧ (stepIn .loading 0x203 run6).kids = [5] ∧ (stepIn .loading 0x203 run6).isRoot = false ∧
    (stepIn .loading 0xF run6).kids = [] ∧ (stepIn .loading 0xF run6).isRoot = true := by decide +kernel

/-- All that the gather awaits is there. -/
def gatherDue (s : State) (r : StepRun) : Bool :=
  decide (s.safe ∧ (s.cxt .train).run = some r ∧ (s.cxt .train).state = .loading ∧ (r.ownShard.isSome = true ∨ r.refusal.isSome = true) ∧
    ∀ p ∈ s.kids, (s.cxt .train).kidShards.any (fun e => e.1 = 65536 * p + r.n % 65536) = true)

theorem witness_BatchAndSeal_gather : gatherDue (stepIn .loading 0xF run6) run6 = true ∧ ((stepIn .loading 0xF run6).gathered .train run6).2 = none ∧
    gatherDue (stepIn .loading 0x203 run6 { cxIn .ready with kidShards := [(65536 * 5 + 6, ([(1, ones32)], none))] }) run6 = true ∧
    gatherDue (stepIn .loading 0x20F run6 { cxIn .ready with kidShards := [(65536 * 5 + 6, ([(1, ones32)], some aMark))] }) run6 = true ∧
    ((stepIn .loading 0x20F run6 { cxIn .ready with kidShards := [(65536 * 5 + 6, ([(1, ones32)], some aMark))] }).gathered .train run6).2 = some aMark ∧
    gatherDue (stepIn .loading 0x203 run6) run6 = false := by decide +kernel

/-- A step whose host expects the seal that B gives, or another. -/
def expecting (e : Digest) : StepRun := { run6 with expect := some e }

theorem witness_BatchAndSeal_seal : (∃ e, (expecting e).expect = some ((stepIn .loading 0x203 (expecting e)).sealNext .train (expecting e) ones32)) ∧
    (stepIn .loading 0x203 (expecting [])).sealNext .train (expecting []) ones32 ≠ [] ∧ run6.expect = none ∧ (expecting []).expect = some [] ∧
    (stepIn .loading 0x203 run6).safe ∧ (stepIn .loading 0x203 run6).isRoot = false ∧ (stepIn .loading 0x203 run6).cxt .train = { cxIn .loading with run := some run6 } :=
  ⟨⟨(stepIn .loading 0x203 (expecting [])).sealNext .train (expecting []) ones32, by decide +kernel⟩, by decide +kernel, by decide +kernel, by decide +kernel, by decide +kernel, by decide +kernel,
   by decide +kernel⟩

/-- Barrier 4 of tile 0 of the C-die. -/
def barred (post : Nat) : State :=
  { stepIn .running 0xF run6 { cxIn .ready with prog := some { prog with barriers := [(4, 1, 0)], gate := true } } with
    tiles := [(0, { TileSt.reset with cx := [{ TileCtx.reset with posted := [(4, post)] }, TileCtx.reset, TileCtx.reset, TileCtx.reset] })] }
/-- Every scheduled tile has posted GATE, or has ended. -/
def allPosted (tree : Nat) : State :=
  { stepIn .running tree run6 { cxIn .ready with prog := some { prog with gate := true } } with
    tiles := (allTileIds.map fun t => (48 * t.die + t.lt, { TileSt.reset with cx := [{ TileCtx.reset with posted := [(240, 1)], ended := true }, TileCtx.reset, TileCtx.reset, TileCtx.reset] })) }

/-- The condition that a barrier's phase completes. -/
def phaseDue (s : State) (num : Nat) : Bool :=
  match (s.cxt .train).prog with
  | some p => (maskBits 64 (p.enginesOf num)).all (fun e => decide (num = 240) && s.engineIdle .train e) && decide (p.tilesOf num ≠ []) && (p.tilesOf num).all fun t => (s.physOf t).any fun k =>
      decide ((s.cxt .train).phases.get 0 num < (s.tctx k .train).posted.get 0 num)
  | none => false

theorem witness_Attestation_barrier : (barred 1).safe ∧ ((barred 1).cxt .train).state = .running ∧ phaseDue (barred 1) 4 = true ∧ phaseDue (barred 0) 4 = false := by
  decide +kernel
theorem witness_Attestation_gate : (allPosted 0xF).safe ∧ phaseDue (allPosted 0xF) 240 = true ∧ (((allPosted 0xF).cxt .train).prog.any (·.gate)) = true ∧
    ((allPosted 0xF).cxt .train).phases.get 0 240 = 0 ∧ ((allPosted 0xF).cxt .train).gateOwn = false := by decide +kernel
theorem witness_Attestation_step : ((allPosted 0xF).cxt .train).run = some run6 ∧ run6.replaying = false ∧ (allPosted 0xF).runningOf .train = [] ∧
    (allPosted 0xF).enginesDone .train = true ∧ (allTileIds.all fun t => ((allPosted 0xF).physOf t).any fun k => ((allPosted 0xF).tctx k .train).ended) = true := by
  decide +kernel

def key1 : AttKey := ⟨1, 2, 3, 4⟩
def gated : StepRun := { run6 with gateOwn := true, gateKids := [(5, (some key1, true))] }
def stepped : StepRun := { run6 with stepOwn := true, stepKids := [(10, (some key1, true))] }
def replayed : StepRun := { run6 with replaying := true, stepOwn := true, stepKids := [(11, (none, false))] }

theorem witness_Attestation_tree : 5 ∈ (stepIn .running 0x203 run6).kids ∧ 4 ∉ (stepIn .running 0x203 run6).kids ∧ 0 = run6.attempt - 1 ∧ replayed.replaying = true ∧
    ((stepIn .running 0x203 gated).cxt .train).run = some gated ∧ (gated.gateOwn = true ∧ gated.gateDone = false ∧ gated.replaying = false) ∧
    (∀ p ∈ (stepIn .running 0x203 gated).kids, gated.gateKids.any (fun e => e.1 = p) = true) ∧ (stepIn .running 0x203 gated).isRoot = false ∧
    (stepIn .running 0x20F gated).kids = [5] ∧ (stepIn .running 0x20F gated).isRoot = true ∧ stepped.stepOwn = true ∧
    ((stepIn .attesting 0x203 stepped).cxt .train).state = .attesting ∧ (10, (some key1, true)) ∈ stepped.stepKids ∧ (11, ((none : Option AttKey), false)) ∈ replayed.stepKids ∧
    (kidsResult gated.gateKids) = (some key1, true) := by decide +kernel

theorem test_meridian_phase : (match exec (.meridianPhaseComplete .train 4) (barred 1) with
    | .next t => decide ((t.cxt .train).phases.get 0 4 = 1 ∧ (t.tctx 0 .train).barriers.get 0 4 = 1 ∧ (t.tctx 100 .train).barriers.get 0 4 = 1)
    | _ => false) = true := by decide +kernel

theorem test_step_boundary_root : (match exec (.stepBoundary .train) (allPosted 0xF) with
    | .next t => decide ((t.cxt .train).state = .committing)
    | _ => false) = true := by decide +kernel

def lostRun : StepRun := { run6 with outcome := some (none, true), faultCode := 0x0806, faultSeq := 3 }
def nanRun : StepRun := { run6 with outcome := some (some key1, false) }

theorem apart_of {s : State} {c : Ctx} (h : (s.almBase c, s.ringSize c 8, s.cplBase c, s.ringSize c 4, s.fltBase c, s.ringSize c 12) = (0x4000, 64, 0x2000, 64, 0x8000, 64)) :
    s.almApart c := by
  intro a h1 h2
  simp only [Prod.mk.injEq] at h
  obtain ⟨e1, e2, e3, e4, e5, e6⟩ := h
  rw [e1] at h1; rw [e1, e2] at h2
  rw [e3, e4, e5, e6]
  omega

theorem witness_StepEnds_result : (stepIn .running 0x203 gated).safe ∧ gated.gateOwn = true ∧ (stepIn .attesting 0x203 stepped).isRoot = false ∧
    replayed.replaying = true ∧ replayed.stepOwn = true ∧ (stepIn .running 0x203 replayed).isRoot = false := by decide +kernel
theorem witness_StepEnds_fault : ((stepIn .running 0x203 run6).cxt .train).run = some run6 ∧ (stepIn .running 0x203 run6).isRoot = false ∧
    (stepIn .aborting 0xF lostRun).isRoot = true ∧ ((stepIn .aborting 0xF lostRun).cxt .train).state = .aborting ∧ run6.attempt = 1 ∧ run6.replaying = false ∧
    (stepIn .running 0xF run6).runningOf .train = [] ∧ (lineState [] TileCtx.reset [flying .train 1 .vec]).runningOf .train ≠ [] ∧
    ({ run6 with attempt := 2 } : StepRun).attempt ≠ 1 ∧ ((stepIn .attesting 0xF run6).cxt .train).state = .attesting ∧ armed.cxt .train = cxIn .ready := by
  decide +kernel
theorem witness_StepEnds_abort : (stepIn .aborting 0xF lostRun).safe ∧ (stepIn .aborting 0xF lostRun).runningOf .train = [] ∧ (stepIn .aborting 0xF lostRun).almApart .train ∧
    (nanRun.outcome.any fun o => o.1.isSome && !o.2) = true ∧ (lostRun.outcome.any fun o => o.1.isSome && !o.2) = false :=
  ⟨by decide +kernel, by decide +kernel, apart_of (by decide +kernel), rfl, rfl⟩

/-- The program holds update records. -/
def updates : CtxSt := { cxIn .ready with prog := some { prog with records := [4] } }
def committing (x : CtxSt) : State := stepIn .committing 0xF run6 x

theorem witness_StepEnds_commit : (committing updates).safe ∧ ((committing updates).cxt .train).hasUpdates = true ∧ (committing updates).bankRead .train true = false ∧
    ((committing (cxIn .ready)).cxt .train).hasUpdates = false ∧ (committing updates).reg (pltCtx .train 0) = 0 ∧ (committing updates).almApart .train :=
  ⟨by decide +kernel, by decide +kernel, by decide +kernel, by decide +kernel, by decide +kernel, apart_of (by decide +kernel)⟩

theorem test_commit : (match exec (.stepCommit .train) (committing updates) with
    | .next t => decide ((t.cxt .train).state = .ready ∧ (t.cxt .train).bankB = true ∧ ((t.cxt .train).committed.map (·.counter)) = some 6 ∧ (t.cxt .train).almTail = 1 ∧
        t.hostRead 0x4000 16 = bytesLE 8 6 ++ bytesLE 8 3)
    | _ => false) = true := by decide +kernel

theorem test_abort_keeps : (match exec (.stepAbort .train) (stepIn .aborting 0xF lostRun) with
    | .next t => decide ((t.cxt .train).state = .ready ∧ (t.cxt .train).committed = some kept ∧ t.hostRead (0x2040 + 4) 4 = [0x10#8, 2#8, 0x06#8, 0x08#8])
    | _ => false) = true := by decide +kernel

/-- A late fault of step 5 changes nothing (R331, R345). -/
theorem test_fault_other_step : (match exec (.fault .train 0 3 false 0 5) (stepIn .running 0x203 run6) with
    | .next t => decide ((t.cxt .train).state = .running)
    | _ => false) = true := by decide +kernel

/-- A child's SHARD for the step after this one is kept for it; one of a step past is counted (R331, R345). -/
theorem test_shard_ahead : (match exec (.shard .train 5 [(1, ones32)] none 7) (stepIn .running 0x203 run6), exec (.shard .train 5 [] none 5) (stepIn .running 0x203 run6) with
    | .next t, .next u => decide ((t.cxt .train).kidShards = [(65536 * 5 + 7, ([(1, ones32)], none))] ∧ (u.cxt .train).kidShards = [])
    | _, _ => false) = true := by decide +kernel

theorem witness_StepEnds_timeout : gated.gateOwn = true ∧ gated.gateDone = false ∧ run6.ownShard ≠ none ∧ ((stepIn .loading 0x203 run6).cxt .train).state = .loading ∧
    (({ stepIn .aborting 0xF lostRun with host := HostSt.reset } : State)).host.linkUp = false ∧
    ((stepIn .aborting 0xF nanRun).cxt .train).state = .aborting := by decide +kernel

theorem test_fault_replays : (match exec (.fault .train 1 3 false 0 6) (stepIn .running 0x203 run6) with
    | .next t => decide ((t.cxt .train).state = .running ∧ ((t.cxt .train).run.map (·.replaying)) = some true)
    | _ => false) = true := by decide +kernel

/-! Plans, update engines, flits. -/

/-- A plan record (R347): ALGO, ENGINE 0, FP32, NMEMB, MYIDX, ELEMS 4 a member. -/
def planRec (algo nmemb myidx : Nat) : List Byte :=
  bytesLE 1 algo ++ bytesLE 1 0 ++ bytesLE 1 9 ++ bytesLE 1 0 ++ bytesLE 2 nmemb ++ bytesLE 2 myidx ++ bytesLE 8 (4 * nmemb)
/-- Step 6 with plan 3 in the Reserve at 0x1000, and what its staging holds. -/
def planning (rec : List Byte) (later : List Part) : State :=
  { stepIn .running 0xF run6 { cxIn .ready with prog := some { prog with plans := [3] } } with
    catalogue := [(3, descWord 0xC 0 1 0x1000 64)], rsv := { RsvSt.reset with mem := Mem.writeN [] 0x1000 rec },
    fab := { FabSt.reset with plans := [(planKey .train 3, ⟨0, [], later, none⟩)] } }
/-- The contribution of member m of n: 1 and zeros. -/
def part (n m : Nat) (record : Option Nat) : Part := ⟨m, 0, 6, bytesLE (16 * n) 1, [], record⟩

theorem witness_PlansAndUpdates_arrival : (let s := planning (planRec 0 2 0) []
    s.planNamed .train { prog with plans := [3] } 3 = some 3 ∧ (s.cxt .train).prog = some { prog with plans := [3] } ∧ (s.plan .train 3).nmemb = 2 ∧
    (s.plan .train 3).myidx = 0 ∧ s.staleMark .train 0 6 = false ∧ s.staleMark .train 0 5 = true ∧
    s.planNamed .train { prog with plans := [3] } 4 = none ∧ (s.cxt .train).run = some run6 ∧ run6.n % 65536 = 6 ∧ run6.attempt ≤ 1) ∧
    ({ run6 with attempt := 2 } : StepRun).attempt = 1 + 1 ∧ 0 + 1 < ({ run6 with attempt := 2 } : StepRun).attempt := by decide +kernel

/-- The parts of the conditions of COLLECTIVE_REDUCE. -/
def reduces (s : State) : List Bool :=
  let p := s.plan .train 3
  let st := (s.planSt .train 3).fill run6.mark p.full (List.range p.nmemb)
  [s.engineRuns .train && s.engineFree .train p.engine, decide ((s.cxt .train).prog.any fun q => q.plans.contains 3), (st.have' p).isSome, st.result.isNone, p.receives,
    (st.parts.findSome? (·.record)).isSome]

theorem witness_PlansAndUpdates_reduce : reduces (planning (planRec 0 2 0) [part 2 0 none]) = [true, true, false, true, true, false] ∧
    reduces (planning (planRec 0 1 0) [part 1 0 none]) = [true, true, true, true, true, false] ∧
    reduces (planning (planRec 0 1 0) [part 1 0 (some 4)]) = [true, true, true, true, true, true] ∧
    reduces (planning (planRec 3 2 1) [part 2 1 none]) = [true, true, true, true, false, false] ∧ reduces armed = [false, false, true, true, true, false] ∧
    ([1, 2] : List Nat).length = 2 ∧ (armed.cxt .train).run = none := by decide +kernel

/-- Update record 4: SGD over pairs 5 and 6, learning rates 7. -/
def updRec0 : List Byte := bytesLE 1 0 ++ bytesLE 1 0 ++ bytesLE 2 5 ++ bytesLE 2 6 ++ bytesLE 4 0 ++ bytesLE 2 7 ++ List.replicate 20 0#8 ++ List.replicate 32 0#8
def grad4 (bad : Bool) : Grad := ⟨.train, 4, 0, [0x3F800000], bad⟩
def updating (bad : Bool) (poison : List Nat) (rd : List Reader) : State :=
  { stepIn .running 0xF run6 updates with
    catalogue := [(4, descWord 0xC 0 1 0x2000 64), (5, descWord 9 3 1 0x3000 4), (6, descWord 9 3 1 0x4000 4), (7, descWord 9 0 1 0x5000 4)],
    rsv := { RsvSt.reset with mem := Mem.writeN [] 0x2000 updRec0, poison := poison }, fab := { FabSt.reset with grads := [grad4 bad] },
    plt := { PltSt.reset with readers := rd } }
/-- A drain of the bank that the step writes. -/
def bankReader : Reader :=
  ⟨0, .train, true, none, [], kept, ones32, 0, 1, none, false, false, none, [(5, 0, 4096)], [0], [], false, none, [], [], false, none⟩

/-- The conditions on a shard: held back, reads clean. -/
def shard (s : State) : List Bool :=
  let v := (s.cxt .train).env .train 0
  let u := s.urec .train 4
  [s.engineRuns .train && s.updFree (grad4 false), (s.holdPairs { v with bankB := !v.bankB } (s.updWrites v u)).2, (s.updReads v u v.n).all fun a => s.poisonOf a.v a.d a.lins = []]

theorem witness_PlansAndUpdates_shard : (updating false [] []).safe ∧
    ((updating false [] []).fab.grads.find? fun g => decide (g.ctx = .train ∧ g.record = 4)) = some (grad4 false) ∧
    shard (updating false [] []) = [true, false, true] ∧ shard (updating true [] []) = [true, false, true] ∧ shard (updating false [0xC0] []) = [true, false, false] ∧
    shard (updating false [] [bankReader]) = [true, true, true] ∧ (updating false [] []).stk.remap = [] ∧ (grad4 true).poisoned = true ∧
    (up.fab.grads.find? fun g => decide (g.ctx = .train ∧ g.record = 4)) = none := by decide +kernel

theorem witness_PlansAndUpdates_fits : (updating false [] []).noInjection ∧
    (let s := updating false [] []; s.recordFits { (s.cxt .train).env .train 0 with bankB := true } (s.urec .train 4)) :=
  ⟨noInjection_of rfl, fun j h => by
      rcases h with h | ⟨h, -⟩ | ⟨h, -⟩
      · have e : (updating false [] []).urec .train 4 = URec.parse updRec0 := by decide +kernel
        rw [e] at h
        have e6 : (URec.parse updRec0).m = 6 := by decide +kernel
        rw [h, e6]
        decide +kernel
      · exact absurd h (by decide +kernel)
      · exact absurd h (by decide +kernel),
    fun h => absurd h (by decide +kernel), fun j hj => by
      have : j = 5 ∨ j = 6 := by
        have e : (updating false [] []).updWrites { ((updating false [] []).cxt .train).env .train 0 with bankB := true } ((updating false [] []).urec .train 4) = [5, 6] := by
          decide +kernel
        rw [e] at hj
        simpa using hj
      rcases this with rfl | rfl
      · exact fun h => absurd h (by decide +kernel)
      · exact fun h => absurd h (by decide +kernel)⟩

/-- A product bit of the update engine. -/
theorem witness_PlansAndUpdates_fails : ([.unitF 0 0 0x3F800000 0x3F800000 3] : List Upset).all computeUpset = true ∧
    (let s := updating false [] []
     (s.updMis (s.urec .train 4) (grad4 false) [.unitF 0 0 0x3F800000 0x3F800000 3]).2.map (·.code) = some 0x0502 ∧
     decide (∀ a ∈ s.updReads ((s.cxt .train).env .train 0) (s.urec .train 4) ((s.cxt .train).env .train 0).n, a.d.space ≠ 3) = true) := by decide +kernel

/-- A contribution of which 4 bytes are there goes on at 4. -/
def halfPart : Part := ⟨1, 0, 6, bytesLE 4 1, [], none⟩
theorem witness_PlansAndUpdates_goesOn : (planning (planRec 0 2 0) [halfPart]).safe ∧ ((planning (planRec 0 2 0) [halfPart]).planSt .train 3).later = [] ++ halfPart :: [] ∧
    (halfPart.goesOn ((planning (planRec 0 2 0) []).plan .train 3).full 4 halfPart) = true ∧
    (halfPart.goesOn ((planning (planRec 0 2 0) []).plan .train 3).full 8 halfPart) = false := by decide +kernel

/-- The engine of a context whose gradient must wait for a context of higher priority. -/
theorem witness_PlansAndUpdates_priority :
    ({ updating false [] [] with fab.grads := [⟨.eval, 9, 0, [], false⟩, grad4 false] } : State).updFree ⟨.eval, 9, 0, [], false⟩ = false := by decide +kernel

theorem test_plan_data : (match exec (.planDataArrival .train 3 1 true 0 6 (bytesLE 4 5) []) (planning (planRec 0 2 0) []) with
    | .next t => decide (((t.planSt .train 3).later.map (·.member)) = [1])
    | _ => false) = true := by decide +kernel

theorem test_collective_own : (match exec (.collectiveReduce .train 3) (planning (planRec 0 1 0) [part 1 0 none]) with
    | .next t => decide (((t.planSt .train 3).result.map fun r => r.1.take 4) = some (bytesLE 4 1))
    | _ => false) = true := by decide +kernel

theorem test_update_sgd_zero_rate : (match exec (.updateShard .train 4 [] []) (updating false [] []) with
    | .next t => decide (t.fab.grads = [] ∧ t.reg64 (pgUPD 0 + 0x44) = 1 ∧ t.rsv.mem.readN 0x3000 4 = [0#8, 0#8, 0#8, 0#8])
    | _ => false) = true := by decide +kernel

/-! Ports. -/

/-- Port 0 up with a credit on each channel. -/
def portA : PortSt := { PortSt.reset with state := 2, credit := [1, 1, 1, 1], replay := [(12, flitForm (PortSt.reset.header 0 0 9 1) [])], ackedIn := 1 }
def ported (q : PortSt) (fwd : Tbl Nat := []) : State := { up with fab := { FabSt.reset with ports := [(0, q)], fwd0 := fwd } }
/-- A neighbour's flit: kind, SEQ, destination. -/
def hisFlit (kind seq dest : Nat) : List Byte := flitForm (PortSt.reset.header 3 kind seq dest) []

theorem witness_Flits_receive : (ported PortSt.reset).portUp 0 = false ∧ (ported portA).portUp 0 = true ∧ flitOk (hisFlit 0 0 0xFFFF) = true ∧ flitOk [] = false ∧
    portA.retryOpen = false ∧ ({ portA with retryOpen := true } : PortSt).retryOpen = true ∧
    flitKind (hisFlit 0 1 0xFFFF) = 0 ∧ flitSeq (hisFlit 0 1 0xFFFF) ≠ portA.rxSeq ∧ ¬ (portA.rxSeq + 4095 - flitSeq (hisFlit 0 1 0xFFFF)) % 4096 < 1152 ∧
    (portA.rxSeq + 4095 - flitSeq (hisFlit 0 4095 0xFFFF)) % 4096 < 1152 ∧ flitSeq (hisFlit 0 0 0xFFFF) = portA.rxSeq ∧ flitDest (hisFlit 0 0 0xFFFF) = 0xFFFF ∧
    flitKind (hisFlit 3 1 0) = 3 ∧ flitKind (hisFlit 1 1 0) = 1 ∧ flitKind (hisFlit 2 9 0) = 2 ∧ flitSeq (hisFlit 2 9 0) = 9 ∧ portA.txQueue = [] ∧ portA.ackedIn < 63 := by
  decide +kernel

theorem witness_Flits_route : (ported portA).calm 0 ∧ ((portA.heard (hisFlit 2 9 0)).replay.findIdx? fun f => flitSeq f.2 = 9) = some 0 ∧
    ((portA.heard (hisFlit 2 8 0)).replay.findIdx? fun f => flitSeq f.2 = 8) = none ∧ ({ portA with reqSeq := 9, reqCount := 15 } : PortSt).reqCount + 1 = 16 ∧
    (ported portA [(0, 0xFFFFFF3F)]).fwdEntry 0 1 = 3 ∧ ((ported portA).port 3).state ≠ 2 ∧ (ported portA).fwdEntry 0 1 = 0xF ∧ (ported portA [(0, 0xFFFFFFEF)]).fwdEntry 0 1 = 0xE ∧
    flitDest (hisFlit 0 0 1) = 1 := by decide +kernel

/-- A flit of this device's own waits. -/
def queued : PortSt := { portA with txQueue := [(12, hisFlit 0 0 1)] }

theorem witness_Flits_send : (ported queued).calm 0 ∧ ((ported queued).port 0).nextFlit = some (3, 12, hisFlit 0 0 1) ∧
    ((ported queued).port 0).txQueue = [(12, hisFlit 0 0 1)] :=
  ⟨by decide +kernel, by
    have e : flitVC (hisFlit 0 0 1) = 3 := by decide +kernel
    show queued.nextFlit = _
    simp [PortSt.nextFlit, PortSt.order, PortSt.headOf, queued, portA, PortSt.reset, nth, Tbl.get, e], rfl⟩
theorem witness_Flits_timers : portA.ackedIn ≠ 0 ∧ PortSt.reset.ackedIn = 0 ∧ PortSt.reset.owed.any (· ≠ 0) = false ∧ portA.replay ≠ [] ∧ PortSt.reset.replay = [] ∧
    ({ portA with state := 1 } : PortSt).fails < 2 ∧ 2 ≤ ({ portA with state := 1, fails := 2 } : PortSt).fails := by decide +kernel

theorem test_flit_in_sequence : (match exec (.flitReceive 0 (hisFlit 0 0 0xFFFF) .clean) (ported portA) with
    | .next t => decide ((t.port 0).rxSeq = 1 ∧ (t.port 0).ackedIn = 2 ∧ t.reg64 (pgLNK 0 + 0x58) = 1)
    | _ => false) = true := by decide +kernel

theorem test_flit_gap_asks_once : (match exec (.flitReceive 0 (hisFlit 0 1 0xFFFF) .clean) (ported portA) with
    | .next t => decide ((t.port 0).retryOpen = true ∧ t.reg (pgLNK 0 + 0x60) = 1 ∧ t.out.length = 1 ∧ (t.port 0).rxSeq = 0)
    | _ => false) = true := by decide +kernel

/-- A message of 20 bytes: one flit with its header, two chunks of data in a poisoned unit (R330 to R332). -/
theorem test_message : (let f := msgFlits 0 5 ⟨9, 0, 0, true, 3, 6, 0, 20⟩ (List.replicate 20 1#8) [0]
    f.length = 1 ∧ f.map (fun b => (flitDest b, flitLast b, field (flitTrail b) 16 4, field (flitTrail b) 0 15)) = [(5, true, 3, 6)] ∧
    f.map (fun b => (b.drop 8).take 8) = [[9#8, 0#8, 8#8, 0#8, 3#8, 0#8, 6#8, 0#8]]) := by decide +kernel

/-! Drains and restores. -/

/-- Pair 1 of four FP32 elements in the Reserve at 0x1000, and a drain of it. -/
def drain1 : Reader :=
  ⟨0, .train, false, none, [], kept, ones32, 0, 1, some 0, false, false, none, [(1, 0, 64)], [0], [], false, none, [], [], false, some ⟨7, 0x20⟩⟩
def draining (r : Reader) : State :=
  { atRing { cxIn .ready with prog := some prog } [] with
    catalogue := [(1, descWord 9 3 1 0x1000 4)], rsv := { RsvSt.reset with mem := [(0x1000, 5#8)] }, plt := { PltSt.reset with readers := [r], readerNo := 1 } }
def drained : Reader := { drain1 with unread := [], got := [(0, [5#8])] }

/-- A copy of context train's pair 1 into context eval's pair 1. -/
def copy1 : Reader := { drain1 with copyTo := some .eval, list := [(1, 1)], chunks := [(0, 0, 64)], host := none }

theorem witness_Drains_read : (draining drain1).safe ∧ (draining drain1).reader 0 = some drain1 ∧ (draining drain1).anyHalt = false ∧ (draining drain1).plateHeld + 64 ≤ 2 ^ 24 ∧ drain1.unread.head? = some 0 ∧
    0 ∈ drain1.unread ∧ (draining drain1).host.linkUp = true ∧ ({ drain1 with waiting := some 3 } : Reader).waiting.isSome = true ∧ 3 ∉ drain1.unread ∧ drained.unread.head? = none ∧
    up.reader 0 = none ∧ copy1.copyTo = some .eval := by decide +kernel

/-- Whether a reader holds back the copy's write. -/
def copyHeld (s : State) : Bool :=
  let d := s.desc .eval 1
  let v := s.pairEnv .eval 1 (!(s.cxt .eval).bankB)
  (s.holdWrite (v.space d) (d.base + v.off d) 64).2
/-- Copying, with the destination's pair at 0x4000 and another reader. -/
def copying1 (r : List Reader) : State :=
  { draining copy1 with regs := Tbl.set (hstCtx .eval 0x60) 100#32 bases, catalogue := [(1, descWord 9 3 1 0x1000 4), (101, descWord 9 3 1 0x4000 4)],
                        plt := { PltSt.reset with readers := copy1 :: r, readerNo := 2 } }

theorem witness_Drains_copy : copyHeld (copying1 []) = false ∧ copyHeld (copying1 [{ drain1 with id := 1, ctx := .eval, bank := true }]) = true ∧
    ((copying1 []).pairEnv .eval 1 true).space ((copying1 []).desc .eval 1) = ⟨1, 0, .eval⟩ ∧ (copying1 []).reader 0 = some copy1 := by decide +kernel

theorem far_off {s : State} {c : Ctx} (h : s.cplBase c + 0x40 + 32 * s.ringSize c 4 ≤ 0x100000 ∧ s.almBase c + 128 * s.ringSize c 8 ≤ 0x100000 ∧
    s.fltBase c + 64 * s.ringSize c 12 ≤ 0x100000 ∧ s.evtBase + 0x40 + 64 * s.evtSize ≤ 0x100000) (a : Nat) (ha : 0x100000 ≤ a) : s.offRings c a := by
  unfold State.offRings
  omega

theorem witness_Drains_complete : (draining drained).reader 0 = some drained ∧ (drained.copyTo = none ∧ drained.unread = [] ∧ drained.buddy = false ∧
    (drained.digest = true → drained.weight ≠ none) ∧ (drained.host ≠ none → (draining drained).host.linkUp = true)) ∧
    (∀ slot, drained.host = some slot → ∀ a, (draining drained).slotAddr .train slot ≤ a → a < (draining drained).slotAddr .train slot + (draining drained).plateTotal .train →
      (draining drained).offRings .train a) ∧ 0x100 ≤ (draining drained).plateTotal .train ∧ (draining drained).slotAddr .train 0 = 0x100000 :=
  ⟨by decide +kernel, by decide +kernel, fun slot h a ha _ => far_off (by decide +kernel) a (by
    have e : slot = 0 := by
      have h0 : drained.host = some 0 := rfl
      rw [h0] at h
      exact (Option.some.inj h).symm
    rw [e, show (draining drained).slotAddr .train 0 = 0x100000 by decide +kernel] at ha
    exact ha), by decide +kernel, by decide +kernel⟩

theorem witness_Drains_limit : (let s := draining { drain1 with waiting := some 0 }
    ∀ r ∈ s.plt.readers.filter (fun r => decide (r.ctx = .train ∧ r.waiting.isSome = true)), r.copyTo = none) ∧
    ((draining { copy1 with waiting := some 0 }).plt.readers.filter fun r => decide (r.ctx = .train ∧ r.waiting.isSome = true)) = [{ copy1 with waiting := some 0 }] := by
  decide +kernel

def chunk1 : List Byte := [1#8, 2#8, 3#8, 4#8]
/-- The header of a plate with one pair of 4 bytes, its tables behind it. -/
def header1 (n : Nat) : List Byte :=
  plateHeader .train 0 0 1 1 ⟨n, zero32, 8⟩ ones32 zero32 (sha3 chunk1) 4096 4100 1 3 ++
    (bytesLE 2 1 ++ bytesLE 1 9 ++ bytesLE 5 0 ++ bytesLE 8 4 ++ bytesLE 8 0 ++ bytesLE 8 0) ++ bytesLE 8 (crc64 chunk1)
/-- Device 3 sends a plate; `missing` chunks are still to come. -/
def receivingFrom (missing : List Nat) (tries : Nat) : State :=
  { up with regs := Tbl.set (pgPLT + 0xD0) 0x10000#32 (Tbl.set (pgPLT + 0xC4) 3#32 []),
            plt := { PltSt.reset with rx := some ⟨3, 0, header1 4, missing, [(0, tries)]⟩ } }

theorem witness_Drains_buddy : (receivingFrom [0] 0).safe ∧ (receivingFrom [0] 0).regField (pgPLT + 0xC4) 0 16 = 3 ∧ ¬ (receivingFrom [0] 0).reg64 (pgPLT + 0xD0) < phTotal (header1 4) ∧
    (receivingFrom [0] 0).sys.pstate ≠ 2 ∧ parked.sys.pstate = 2 ∧ phStep (header1 4) ≠ phStep (header1 5) ∧ chunk1.length = (nth (0, 0, 0) 0 (phTable (header1 4))).2.2 ∧
    crc64 chunk1 = phCrc (header1 4) 0 ∧ eraseNat 0 [0] = [] ∧ eraseNat 0 [0, 1] ≠ [] ∧ 6 ≤ (header1 4).length ∧ (header1 4).length ≤ 0x100000 := by decide +kernel
theorem witness_Drains_channels : (receivingFrom [0] 0).noInjection ∧ (receivingFrom [0] 0).stk.remap = [] ∧ (∀ a, (receivingFrom [0] 0).stkFenced a = false) :=
  ⟨noInjection_of rfl, rfl, fun _ => rfl⟩

/-- A buddy plate held in slot 0: rank 0, one pair, step 4, one chunk. -/
def plateHeld : State :=
  { receivingFrom [] 0 with plt := { PltSt.reset with rxComplete := [0] }, stk := { StkSt.reset with mem := [(0, 1#8), (8, 1#8), (0xC, 1#8), (0x10, 4#8), (0xB0, 1#8)] } }

theorem witness_Drains_holder : plateHeld.heldPlate 0 .train 4 = some 0 ∧ plateHeld.heldPlate 0 .train 5 = none ∧ 0 < phChunks (plateHeld.stkRead (plateHeld.rxBase 0) 0x100) ∧
    ((draining { drained with buddy := true }).plt.readers.find? fun r => decide (r.ctx = .train ∧ r.buddy = true)) = some { drained with buddy := true } ∧
    ((draining { drain1 with buddy := true }).plt.readers.find? fun r => decide (r.ctx = .train ∧ r.buddy = true)) = some { drain1 with buddy := true } ∧
    (up.plt.readers.find? fun r => decide (r.ctx = .train ∧ r.buddy = true)) = none := by decide +kernel

/-- A restore from the buddy in progress. -/
def restore1 (missing : List Nat) (data : Tbl (List Byte)) (stage check : Bool) (w : Option Bool) : Restoring :=
  { stage := stage, check := check, buddy := true, holder := 3, ports := [2], addr := 0, header := header1 4, chunks := [(1, 0, 4)], missing := missing, tries := [], data := data,
    tag := ⟨7, 0x21⟩, weightOk := w, failed := 0 }
def restoring1 (r : Restoring) (rd : List Reader := []) : State :=
  { draining drain1 with plt := { PltSt.reset with restoring := [(0, r)], readers := rd } }

/-- Whether a reader holds back the restore's write. -/
def restoreHeld (s : State) : Bool :=
  let d := s.desc .train 1
  let v := s.pairEnv .train 1 (!(s.cxt .train).bankB)
  (s.holdWrite (v.space d) (d.base + v.off d) 4).2

theorem witness_RestoreEnds_chunk : (restoring1 (restore1 [0] [] false false none)).restoringOf .train = some (restore1 [0] [] false false none) ∧
    restoreHeld (restoring1 (restore1 [0] [] false false none)) = false ∧ restoreHeld (restoring1 (restore1 [0] [] false false none) [{ drain1 with bank := true }]) = true ∧
    ((restoring1 (restore1 [0] [] false false none)).desc .train 1).space = 1 ∧ ({ restore1 [0] [] false false none with tries := [(0, 3)] } : Restoring).tries.get 0 0 + 1 = 4 ∧
    up.restoringOf .train = none := ⟨rfl, by decide +kernel, by decide +kernel, by decide +kernel, rfl, rfl⟩
theorem chunk1_crc : crc64 chunk1 = phCrc (header1 4) 0 := witness_Drains_buddy.2.2.2.2.2.2.2.1
theorem witness_RestoreEnds_crc : crc64 chunk1 = phCrc (header1 4) 0 ∧ crc64 [] ≠ phCrc (header1 4) 0 :=
  ⟨chunk1_crc, by rw [← chunk1_crc]; decide +kernel⟩

/-- The rank digest agrees. -/
def rankOk (r : Restoring) : Bool := decide (sha3 (r.data.flatMap (·.2)) = (r.header.drop 0x80).take 32)

theorem witness_RestoreEnds_rank : rankOk (restore1 [] [(0, chunk1)] false true (some true)) = true := by decide +kernel
theorem witness_RestoreEnds_rank_fails : rankOk (restore1 [] [(0, [])] true false none) = false := by decide +kernel
theorem witness_RestoreEnds_complete : (restoring1 (restore1 [] [(0, chunk1)] true false none)).restoringOf .train = some (restore1 [] [(0, chunk1)] true false none) ∧
    (restoring1 (restore1 [0] [] true false none)).safe := ⟨rfl, by decide +kernel⟩

/-- A copy whose chunks are all read, its command in the foreground. -/
def copyDone (fg : Option CmdTag) : State :=
  { draining { copy1 with unread := [] } with cx := [cxIn .ready, { cxIn .ready with fg := fg }, CtxSt.reset, CtxSt.reset] }

theorem witness_RestoreEnds_copy : ((copyDone none).plt.readers.find? (·.copyTo = some .eval)) = some { copy1 with unread := [] } ∧ (copyDone none).safe ∧
    ((copyDone none).cxt .eval).fg = none ∧ ((copyDone (some ⟨7, 0x23⟩)).cxt .eval).fg ≠ none ∧ ((copying1 []).plt.readers.find? (·.copyTo = some .eval)) = some copy1 ∧
    copy1.unread ≠ [] ∧ (up.plt.readers.find? (·.copyTo = some .eval)) = none ∧
    ((restoring1 (restore1 [] [(0, chunk1)] false true none)).restoringOf .train).any (·.check) = true := by decide +kernel

theorem test_restore_chunk : (match exec (.restoreChunkArrival .train 0 chunk1) (restoring1 (restore1 [0] [] false false none)) with
    | .next t => decide (t.rsv.mem.readN (0x1000 + ((t.desc .train 1).bankOff true)) 4 = chunk1 ∧ ((t.restoringOf .train).map (·.missing)) = some [])
    | _ => false) = true := by decide +kernel

theorem test_pair_copy_done : (match exec (.pairCopyComplete .eval) (copyDone (some ⟨7, 0x23⟩)) with
    | .next t => decide ((t.cxt .eval).committed = some kept ∧ (t.cxt .eval).bankB = true)
    | _ => false) = true := by decide +kernel

/-- A drain to the buddy over port 2, which is up or not. -/
def toBuddy (r : Reader) (st : Nat) : State :=
  { draining r with regs := Tbl.set (pgPLT + 0xC0) (BitVec.ofNat 32 (3 + 2 ^ 18)) bases, fab := { FabSt.reset with ports := [(2, { PortSt.reset with state := st })] } }
def sent1 : Reader := { drained with host := none, buddy := true }

theorem witness_Drains_late : (draining { drained with late := [0] }).safe ∧ (draining { drained with late := [0] }).host.linkUp = true ∧ drained.host = some 0 ∧
    (drained.got.find? fun e => decide (e.1 = 0)) = some (0, [5#8]) ∧ (toBuddy { sent1 with lateB := [0] } 2).buddyPort 0 = some 2 ∧
    (toBuddy sent1 3).buddyPort 0 = none ∧ sent1.unread = [] := by decide +kernel

theorem witness_Drains_asked : (toBuddy sent1 2).sending 0 .train kept.counter = some sent1 ∧ (toBuddy sent1 2).sending 1 .train kept.counter = none ∧
    0 < sent1.chunks.length ∧ 0 ∉ sent1.unread ∧ plateHeld.sending 0 .train 4 = none := by decide +kernel

theorem witness_Drains_final : (receivingFrom [0] 0).rxHolds (header1 4) = false ∧ (phTable (header1 4)).length = 1 ∧
    ({ plateHeld with plt := { plateHeld.plt with rx := none } } : State).rxHolds (plateHeld.stkRead (plateHeld.rxBase 0) 0x100) = true ∧
    (receivingFrom [0] 0).plt.rxEnded ≠ some (3, phId (header1 4)) := by decide +kernel

theorem witness_RestoreEnds_gather : ((draining drained).plt.readers.map (·.id)).Nodup ∧
    (let s := restoring1 { restore1 [] [(0, chunk1)] false true none with buddy := false, addr := 0x100000 }
     let p : State := { s with host := { s.host with poison := [0x100000 / 64 + 64] } }
     unitsOf (0x100000 + phOff (header1 4)) 4 = [0x100000 / 64 + 64] ∧ 0x100000 / 64 + 64 ∈ p.host.poison ∧ p.host.linkUp = true ∧ (p.cxt .train).run = none ∧
       phStep (header1 4) = 4) := by decide +kernel

/-- A chunk that the buddy finds bad is fetched again from the holder over the command's port (R373). -/
theorem test_restore_again : (match exec (.restoreChunkArrival .train 0 []) (restoring1 (restore1 [0] [] false false none)) with
    | .next t => decide (t.out = [.chunkAsk 2 3 (t.cxt .train).rank .train 4 0] ∧ ((t.restoringOf .train).map (·.missing)) = some [0])
    | _ => false) = true := by decide +kernel

theorem test_foreign_sender : (match exec (.buddyChunkReceive 4 (header1 4) 0 chunk1) (receivingFrom [0] 0) with
    | .next t => decide ((t.plt.rx.map (·.missing)) = some [0] ∧ t.out = [.buddyAck false])
    | _ => false) = true := by decide +kernel


/-! Checks of the arrays and marches (R381, R407, R408). -/

/-- Example 13.1: the residue of an E4M3 column, and the accumulator with and without a flipped bit. -/
theorem test_residue : (let f := fmtFloat 3
    rho f f [(0x40, 0x3C), (0xB8, 0x44), (0x30, 0x38)] = 4 ∧
    (blockSum f f 0 [(0x40, 0x3C), (0xB8, 0x44), (0x30, 0x38)]).acc = 0x20000 ∧
    (blockSum f f (2 ^ 20) [(0x40, 0x3C), (0xB8, 0x44), (0x30, 0x38)]).acc = 0x120000 ∧ res7 0x20000 = 4 ∧ res7 0x120000 = 1) := by decide +kernel

/-- Operations on a word (R408). -/
theorem test_march_ops : (marchOps marchC).length = 10 ∧ (marchOps marchSS).length = 22 := by decide +kernel

/-- A cell that fails to take its first write of "1" is read as "0" in element M2 (R408, R411). -/
theorem test_march_bit : (List.range 8).map (background 2) = [false, false, true, true, false, false, true, true] ∧
    cellRun true (fun e _ => decide (e = 2)) false (marchOps marchC) = [(2, 0, true)] := by decide +kernel
end Sys2Proof.Tests
end

section
/-! PROOF. DARK and management in A3 (R486, R488, R492): how the management predicates and requests behave in A3, that an accepted
DARK leaves the security island in reset, and ManagementInDark from these. -/

namespace Sys2Proof.Machine

/-! The end of A1 on an access (R486). -/

theorem State.wake_of_pstate_ne_one {s : State} (h : s.sys.pstate ≠ 1) : s.wake = s := if_neg h

@[simp] theorem State.wake_anyArmed (s : State) : s.wake.anyArmed = s.anyArmed := by
  unfold State.wake
  split <;> rfl

theorem State.wake_pstate_lt_three {s : State} (h : s.sys.pstate < 3) : s.wake.sys.pstate < 3 := by
  unfold State.wake
  split
  · exact Nat.zero_lt_succ 2
  · exact h

theorem State.access_of_busUp {s : State} (h : s.busUp = true) (f : State → State) : s.access f = f s.wake := if_pos h

theorem State.pstate_lt_three_of_busUp {s : State} (h : s.busUp = true) : s.sys.pstate < 3 := by
  simp only [State.busUp, Bool.and_eq_true, decide_eq_true_eq] at h
  obtain ⟨⟨⟨-, hp⟩, -⟩, -⟩ := h
  exact hp

theorem State.pstate_lt_three_of_islandUp {s : State} (h : s.islandUp = true) : s.sys.pstate < 3 := by
  simp only [State.islandUp, Bool.and_eq_true, decide_eq_true_eq] at h
  obtain ⟨⟨⟨-, hp⟩, -⟩, -⟩ := h
  exact hp

/-! A3: Keeper alone answers (R488). -/

theorem State.pstate_of_dark {s : State} (h : s.dark = true) : s.sys.pstate = 3 := by
  simp only [State.dark, Bool.and_eq_true, decide_eq_true_eq] at h
  obtain ⟨⟨hp, -⟩, -⟩ := h
  exact hp

theorem State.islandUp_of_dark {s : State} (h : s.dark = true) : s.islandUp = false := by
  simp [State.islandUp, State.pstate_of_dark h]

theorem State.wake_of_dark {s : State} (h : s.dark = true) : s.wake = s :=
  State.wake_of_pstate_ne_one (by simp [State.pstate_of_dark h])

/-- Every SPDM request goes through `State.spdm`, whatever the island would have answered. -/
theorem State.spdm_of_dark {s : State} (h : s.dark = true) (f : State → State) : s.spdm f = s.emit (.spdmError 0x03) := by
  simp [State.spdm, State.islandUp_of_dark h, h]

theorem execMctpSetEndpointId_of_dark {s : State} (h : s.dark = true) (eid : Byte) :
    execMctpSetEndpointId eid s = .next ({ s with sec.eid := eid.toNat }.emit (.mctpEid eid.toNat)) := by
  simp [execMctpSetEndpointId, State.wake_of_dark h, h]

theorem execPldmMonitorRead_of_dark {s : State} (h : s.dark = true) :
    execPldmMonitorRead s = .next (s.emit (.pldm 2 s.monitor)) := by
  simp [execPldmMonitorRead, State.islandUp_of_dark h, h]

theorem execPldmFirmwareUpdate_of_dark {s : State} (h : s.dark = true) (hr : s.sec.recovery = false) (k : Nat) (b : List Byte) :
    execPldmFirmwareUpdate k b s = .next s := by
  simp [execPldmFirmwareUpdate, State.islandUp_of_dark h, hr]

theorem execPldmUnparkRequest_of_dark {s : State} (h : s.dark = true) : execPldmUnparkRequest s = .next s := by
  simp [execPldmUnparkRequest, State.islandUp_of_dark h]

theorem execPldmDarkRequest_of_dark {s : State} (h : s.dark = true) : execPldmDarkRequest s = .next s := by
  simp [execPldmDarkRequest, State.islandUp_of_dark h]

/-! Entry to A3 (R488, R492). -/

/-- The device is in A3, and the security island lies in reset with its memory cleared (R488). -/
def State.islandHeld (s : State) : Prop := s.sec = Sec.reset ∧ s.islandUp = false ∧ s.dark = true

/-- The island's memory does not survive the package reset that A3 shares, and the trip and MRST# flags that would keep Keeper silent do
not either. -/
theorem State.darkReq_islandHeld {s : State} (ha : s.anyArmed = false) (hp : s.sys.pstate < 3) : s.darkReq.islandHeld := by
  have taken : ¬(s.anyArmed || decide (s.sys.pstate = 3)) = true := by simp [ha, Nat.ne_of_lt hp]
  unfold State.darkReq
  rw [if_neg taken]
  exact ⟨rfl, rfl, rfl⟩

theorem rstBits_eq_sum (v : Nat) :
    rstBits v = (bitAt v 0).toNat + (bitAt v 1).toNat + (bitAt v 2).toNat + (bitAt v 3).toNat := by
  have bits : List.range 4 = [0, 1, 2, 3] := rfl
  simp only [rstBits, maskBits, bitAt, bits, ← List.countP_eq_length_filter, List.countP_cons, List.countP_nil, Bool.toNat, Bool.cond_eq_ite]
  omega

theorem State.rstCtrl_of_dark_alone (s : State) {v : Nat} (h1 : rstBits v = 1) (h3 : bitAt v 3 = true) : s.rstCtrl v = s.darkReq := by
  have sum := rstBits_eq_sum v
  rw [h1, h3] at sum
  have low : bitAt v 0 = false ∧ bitAt v 1 = false ∧ bitAt v 2 = false := by
    refine ⟨?_, ?_, ?_⟩ <;> (rw [← Bool.toNat_eq_zero]; simp only [Bool.toNat_true] at sum; omega)
  obtain ⟨h0, h1', h2⟩ := low
  simp [State.rstCtrl, h1, h0, h1', h2, h3]

theorem execDark_of_dark_alone {s : State} {v : W32} (hb : s.busUp = true) (h1 : rstBits v.toNat = 1) (h3 : bitAt v.toNat 3 = true) :
    execDark v s = .next s.wake.darkReq := by
  simp only [execDark, State.rstWrite, if_pos h3, State.access_of_busUp hb, State.rstCtrl_of_dark_alone _ h1 h3]

theorem execPldmDarkRequest_of_islandUp {s : State} (h : s.islandUp = true) : execPldmDarkRequest s = .next s.wake.darkReq := by
  simp [execPldmDarkRequest, h]

/-- The two ways into A3 end alike: the request of an access that ends A1, with no context armed. -/
theorem islandHeld_of_next_wake_darkReq {s t : State} (ha : s.anyArmed = false) (hp : s.sys.pstate < 3)
    (e : (.next s.wake.darkReq : Host.Outcome State Fault Refusal) = .next t) : t.islandHeld := by
  cases e
  exact State.darkReq_islandHeld (by rw [State.wake_anyArmed, ha]) (State.wake_pstate_lt_three hp)

/-- Settles O28: an accepted DARK leaves the island held in reset, and in A3 each management request falls to Keeper's answer or to none. -/
theorem managementInDark : Obligations.ManagementInDark := by
  refine ⟨fun s t hi ha e => ?_, fun s v t hb h1 h3 ha e => ?_, fun s hd => ?_⟩
  · exact islandHeld_of_next_wake_darkReq ha (State.pstate_lt_three_of_islandUp hi) ((execPldmDarkRequest_of_islandUp hi).symm.trans e)
  · exact islandHeld_of_next_wake_darkReq ha (State.pstate_lt_three_of_busUp hb) ((execDark_of_dark_alone hb h1 h3).symm.trans e)
  · have busy (f : State → State) :
        (.next (s.spdm f) : Host.Outcome State Fault Refusal) = .next { s with out := s.out ++ [.spdmError 0x03] } :=
      congrArg Host.Outcome.next (State.spdm_of_dark hd f)
    refine ⟨fun eid => execMctpSetEndpointId_of_dark hd eid, ⟨s.monitor, execPldmMonitorRead_of_dark hd⟩, ?_⟩
    exact ⟨busy _, busy _, fun _ => busy _, busy _, fun _ => busy _, fun _ => busy _, fun _ _ => busy _, fun _ _ => busy _,
      fun hr k b => execPldmFirmwareUpdate_of_dark hd hr k b, execPldmUnparkRequest_of_dark hd, execPldmDarkRequest_of_dark hd⟩

end Sys2Proof.Machine
end

section
/-! PROOF. Reserved pages (R498, R499, R14): where an address stands in its page, which offsets have a row, that an access to an offset
without a row leaves the device as it was, and ReservedPages from these. -/

namespace Sys2Proof.Machine

/-! The die, page and offset of an address (R12). -/

theorem addrOff_regAddr {off : Nat} (ho : off < 0x1000) (die page : Nat) : addrOff (regAddr die page off) = off := by
  simp only [addrOff, regAddr]
  omega

theorem addrPage_regAddr {page off : Nat} (hp : page < 0x400) (ho : off < 0x1000) (die : Nat) :
    addrPage (regAddr die page off) = page := by
  simp only [addrPage, regAddr]
  omega

theorem addrDie_regAddr {page off : Nat} (hp : page < 0x400) (ho : off < 0x1000) (die : Nat) :
    addrDie (regAddr die page off) = die := by
  simp only [addrDie, regAddr]
  omega

/-- The die windows end below the doorbell pages and the MSI-X table (R436). -/
theorem regAddr_lt_windowsEnd {die page off : Nat} (hd : die < 10) (hp : page < 0x400) (ho : off < 0x1000) :
    regAddr die page off < 0x2800000 := by
  simp only [regAddr]
  omega

theorem regAddr_zero_add (die page k : Nat) : regAddr die page 0 + k = regAddr die page k := by
  simp [regAddr]

/-- A page lies in the windows of the C-dies, 0 to 3, or outside them, as a whole. -/
theorem cDiePage_iff {page off : Nat} (hp : page < 0x400) (ho : off < 0x1000) (die : Nat) :
    regAddr die page off < 0x1000000 ↔ die < 4 := by
  simp only [regAddr]
  omega

/-! The rows of a page (R498, R500). -/

theorem fst_ite_le {c : Prop} [Decidable c] {x y : Nat × Nat} {n : Nat} (hx : x.1 ≤ n) (hy : y.1 ≤ n) :
    (if c then x else y).1 ≤ n := by
  split
  · exact hx
  · exact hy

/-- BST has the last of the block codes (R500). -/
theorem pageBlock_le_bkBST (die p : Nat) : (pageBlock die p).1 ≤ bkBST := by
  unfold pageBlock
  repeat' apply fst_ite_le
  all_goals exact Nat.le_of_ble_eq_true rfl

theorem regRow_regAddr {die page off : Nat} (hd : die < 10) (hp : page < 0x400) (ho : off < 0x1000) :
    regRow (regAddr die page off) =
      if (pageBlock die page).1 = 0 then none
      else if off < 0x40 then headerRow (pageBlock die page).1 off
      else blockRow (pageBlock die page).1 (pageBlock die page).2 off := by
  have windows := regAddr_lt_windowsEnd hd hp ho
  have notTable : ¬(msixTable ≤ regAddr die page off ∧ regAddr die page off < msixTable + 0x2000) := by
    simp only [msixTable]
    omega
  unfold regRow
  rw [if_neg notTable, if_neg (by omega), addrDie_regAddr hp ho, addrPage_regAddr hp ho, addrOff_regAddr ho]

theorem regRow_of_unlistedPage {die page off : Nat} (hd : die < 10) (hp : page < 0x400) (ho : off < 0x1000)
    (hb : (pageBlock die page).1 = 0) : regRow (regAddr die page off) = none := by
  rw [regRow_regAddr hd hp ho, if_pos hb]

theorem regRow_pageId {die page : Nat} (hd : die < 10) (hp : page < 0x400) (hb : (pageBlock die page).1 ≠ 0) :
    regRow (regAddr die page 0) = some { } := by
  rw [regRow_regAddr hd hp (by decide), if_neg hb]
  rfl

/-! Accesses while the page is served (R504). -/

@[simp] theorem State.wake_cGated (s : State) : s.wake.cGated = s.cGated := by
  unfold State.wake
  split
  · rename_i parked
    simp [State.cGated, parked]
  · rfl

theorem State.ungated_of_serves0 {s : State} {a : Nat} (h : s.serves0 a) : (s.cGated && decide (a < 0x1000000)) = false := by
  obtain ⟨-, hp | ha⟩ := h
  · simp [State.cGated, Nat.not_le.2 hp]
  · simp [Nat.not_lt.2 ha]

theorem State.wake_ungated_of_serves0 {s : State} {a : Nat} (h : s.serves0 a) :
    (s.wake.cGated && decide (a < 0x1000000)) = false := by
  rw [State.wake_cGated, State.ungated_of_serves0 h]

theorem State.serves0_pageStart {s : State} {die page off : Nat} (hp : page < 0x400) (ho : off < 0x1000)
    (h : s.serves0 (regAddr die page off)) : s.serves0 (regAddr die page 0) := by
  obtain ⟨hb, hg⟩ := h
  refine ⟨hb, hg.imp_right fun outside => ?_⟩
  rw [← Nat.not_lt, cDiePage_iff hp ho] at outside
  rwa [← Nat.not_lt, cDiePage_iff hp (by decide)]

/-! A reserved offset of a served page reads 0 and takes no write (R14). -/

section
variable {s : State} {a : Nat} (hg : (s.cGated && decide (a < 0x1000000)) = false)
include hg

theorem State.readReg_of_reserved (hr : s.ready = true) (h : regRow a = none) : s.readReg a = 0 := by
  simp [State.readReg, hr, hg, h]

theorem State.regWrite_of_reserved (h : regRow a = none) (v : Nat) : s.regWrite a v = s := by
  simp [State.regWrite, hg, h]

theorem State.pairLow_of_reserved (h : regRow a = none) (v : Nat) : s.pairLow a v = s := by
  simp [State.pairLow, State.pairShut, hg, h]

/-- The pair of a high word at a reserved offset has a reserved high word, wherever its low word lies. -/
theorem State.pairHigh_of_reserved (h : regRow a = none) (v : Nat) : s.pairHigh a v = s := by
  unfold State.pairHigh
  rw [if_neg (by simp [hg])]
  split
  · rfl
  · next high =>
    have shut : s.pairShut (a - 4) = some s := by
      unfold State.pairShut
      rw [Nat.sub_add_cancel (Nat.not_lt.1 high), h]
      split
      · contradiction
      · rfl
    rw [shut]

theorem State.evtClr_of_reserved (h : regRow (a + 8) = none) (v : Nat) : s.evtClr a v = s := by
  simp [State.evtClr, hg, h]

theorem State.writeInject_of_unlistedPage (h : (pageBlock (addrDie a) (addrPage a)).1 = 0) (v : Nat) : s.writeInject a v = s := by
  have unowned : s.ownedPage a = false := by simp [State.ownedPage, h, bkCHK]
  simp [State.writeInject, hg, unowned, h]

/-- The word of PAGE_ID comes from the address alone: no stored word and no fence of the block changes it (R500). -/
theorem State.readReg_pageId {r : RegRow} {entry : Nat × Nat} (hr : s.ready = true) (ho : addrOff a = 0) (h : regRow a = some r)
    (hb : pageBlock (addrDie a) (addrPage a) = entry) : s.readReg a = entry.1 + 256 * entry.2 + 65536 * addrDie a := by
  have unshut : s.pageShut a = false := by simp [State.pageShut, ho]
  have idWord : s.computed a = some (entry.1 + 256 * entry.2 + 65536 * addrDie a) := by
    subst hb
    unfold State.computed
    exact if_pos ho
  simp [State.readReg, hr, hg, h, unshut, idWord]

end

theorem State.pageId_block {s : State} {die page : Nat} (hd : die < 10) (hp : page < 0x400) (hs : s.serves0 (regAddr die page 0))
    (hr : s.ready = true) (hb : (pageBlock die page).1 ≠ 0) : s.readReg (regAddr die page 0) % 256 = (pageBlock die page).1 := by
  have block := pageBlock_le_bkBST die page
  have named : pageBlock (addrDie (regAddr die page 0)) (addrPage (regAddr die page 0)) = pageBlock die page := by
    rw [addrDie_regAddr hp (by decide), addrPage_regAddr hp (by decide)]
  have word := State.readReg_pageId (State.ungated_of_serves0 hs) hr (addrOff_regAddr (by decide) die page) (regRow_pageId hd hp hb) named
  simp only [bkBST] at block
  omega

/-- Settles O41: an unlisted page has no row at any offset, and a listed page's PAGE_ID ends in its block code. -/
theorem reservedPages : Obligations.ReservedPages := by
  intro s die page off hd hp ho hs hr
  have hs0 := State.serves0_pageStart hp ho hs
  have up : s.busUp = true := hs.1
  refine ⟨fun hb => ?_, fun hb => ?_⟩
  · have row := regRow_of_unlistedPage hd hp ho hb
    have ctrlRow : regRow (regAddr die page 0 + 8) = none := by
      rw [regAddr_zero_add, regRow_of_unlistedPage hd hp (by decide) hb]
    have block : (pageBlock (addrDie (regAddr die page 0)) (addrPage (regAddr die page 0))).1 = 0 := by
      rw [addrDie_regAddr hp (by decide), addrPage_regAddr hp (by decide), hb]
    have reaches (f : State → State) (h : f s.wake = s.wake) :
        (.next (s.access f) : Host.Outcome State Fault Refusal) = .next s.wake := by rw [State.access_of_busUp up, h]
    refine ⟨State.readReg_of_reserved (State.ungated_of_serves0 hs) hr row, fun v => ⟨?_, ?_, ?_, ?_, ?_⟩⟩
    · exact reaches _ (State.regWrite_of_reserved (State.wake_ungated_of_serves0 hs) row _)
    · exact reaches _ (State.pairLow_of_reserved (State.wake_ungated_of_serves0 hs) row _)
    · exact reaches _ (State.pairHigh_of_reserved (State.wake_ungated_of_serves0 hs) row _)
    · exact reaches _ (State.evtClr_of_reserved (State.wake_ungated_of_serves0 hs0) ctrlRow _)
    · exact reaches _ (State.writeInject_of_unlistedPage (State.wake_ungated_of_serves0 hs0) block _)
  · rwa [State.pageId_block hd hp hs0 hr hb]

end Sys2Proof.Machine
end
